-- ==== Sys2Proof/Word.lean ====
section
/-! DEFINITION. The word and the byte of the Tsuric 9 (spec/00_scope.md, R4). -/

namespace Sys2Proof

/-- A word: 64 bits of storage (R4). -/
abbrev Word := BitVec 64

/-- A byte. -/
abbrev Byte := BitVec 8

end Sys2Proof
end

