-- ==== Sys2Proof/Syntax.lean ====
section
/-! DEFINITION. Operands and instructions of the Tsuric 9 (spec/03_encoding.md, R40–R63) and the device's other
steps (the event rows of the opcode table). One constructor per row of spec/opcode_table.json. -/

namespace Sys2Proof

/-- The four neighbours a port reaches (R11, R123). -/
inductive Port where
  | n | e | s | w
  deriving DecidableEq, Repr

/-- A 6-bit source operand field (R50). `bad` holds a reserved value, 37–63, which raises BAD_OPERAND. -/
inductive Src where
  | q (n : Fin 16)
  | h (n : Fin 16)
  | z
  | port (p : Port)
  | bad (v : BitVec 6)
  deriving DecidableEq, Repr

/-- A 5-bit destination field (R51). `bad` holds a reserved value, 21–31, which raises BAD_OPERAND. -/
inductive Dst where
  | h (n : Fin 16)
  | push
  | port (p : Port)
  | bad (v : BitVec 5)
  deriving DecidableEq, Repr

/-- The instructions and the device's other steps. The arguments of an instruction are its fields, named as the
opcode table names them; an event
acts on the current core, or on the agent its arguments name. Steps without arguments come last. -/
inductive Instr where
  /-- ADD (R135). Adds A and B modulo 2^n and writes the result to D. -/
  | add (a : Src) (b : Src) (d : Dst) (w : Bool)
  /-- SUB (R135). Subtracts B from A modulo 2^n and writes the result to D. -/
  | sub (a : Src) (b : Src) (d : Dst) (w : Bool)
  /-- AND (R135). Writes the bitwise AND of A and B to D. -/
  | and (a : Src) (b : Src) (d : Dst) (w : Bool)
  /-- OR (R135). Writes the bitwise OR of A and B to D. -/
  | or (a : Src) (b : Src) (d : Dst) (w : Bool)
  /-- XOR (R135). Writes the bitwise XOR of A and B to D. -/
  | xor (a : Src) (b : Src) (d : Dst) (w : Bool)
  /-- ANDN (R135). Writes A AND NOT B to D. -/
  | andn (a : Src) (b : Src) (d : Dst) (w : Bool)
  /-- SLL (R135). Shifts A left by B mod n and writes the result to D. -/
  | sll (a : Src) (b : Src) (d : Dst) (w : Bool)
  /-- SRL (R135). Shifts A right logically by B mod n and writes the result to D. -/
  | srl (a : Src) (b : Src) (d : Dst) (w : Bool)
  /-- SRA (R135). Shifts A right arithmetically by B mod n and writes the result to D. -/
  | sra (a : Src) (b : Src) (d : Dst) (w : Bool)
  /-- ROL (R135). Rotates A left by B mod n and writes the result to D. -/
  | rol (a : Src) (b : Src) (d : Dst) (w : Bool)
  /-- MIN (R135). Writes the signed minimum of A and B to D. -/
  | min (a : Src) (b : Src) (d : Dst) (w : Bool)
  /-- MAX (R135). Writes the signed maximum of A and B to D. -/
  | max (a : Src) (b : Src) (d : Dst) (w : Bool)
  /-- MINU (R135). Writes the unsigned minimum of A and B to D. -/
  | minu (a : Src) (b : Src) (d : Dst) (w : Bool)
  /-- MAXU (R135). Writes the unsigned maximum of A and B to D. -/
  | maxu (a : Src) (b : Src) (d : Dst) (w : Bool)
  /-- SLT (R135). Writes 1 to D if A is below B signed, else 0. -/
  | slt (a : Src) (b : Src) (d : Dst) (w : Bool)
  /-- SLTU (R135). Writes 1 to D if A is below B unsigned, else 0. -/
  | sltu (a : Src) (b : Src) (d : Dst) (w : Bool)
  /-- MUL (R135). Writes the low n bits of A times B to D. -/
  | mul (a : Src) (b : Src) (d : Dst) (w : Bool)
  /-- MULH (R135). Writes the high n bits of the signed product of A and B to D. -/
  | mulh (a : Src) (b : Src) (d : Dst) (w : Bool)
  /-- MULHU (R135). Writes the high n bits of the unsigned product of A and B to D. -/
  | mulhu (a : Src) (b : Src) (d : Dst) (w : Bool)
  /-- DIV (R135). Writes the signed truncated quotient of A by B to D, or raises INT_DIVZERO. -/
  | div (a : Src) (b : Src) (d : Dst) (w : Bool)
  /-- DIVU (R135). Writes the unsigned quotient of A by B to D, or raises INT_DIVZERO. -/
  | divu (a : Src) (b : Src) (d : Dst) (w : Bool)
  /-- REM (R135). Writes the signed remainder of A by B to D, or raises INT_DIVZERO. -/
  | rem (a : Src) (b : Src) (d : Dst) (w : Bool)
  /-- REMU (R135). Writes the unsigned remainder of A by B to D, or raises INT_DIVZERO. -/
  | remu (a : Src) (b : Src) (d : Dst) (w : Bool)
  /-- BITC (R137). Counts or reorders the bits of A as OPS selects and writes the result to D. -/
  | bitc (a : Src) (d : Dst) (o : BitVec 3) (w : Bool)
  /-- ADDI (R138). Adds the sign-extended immediate to A and writes the result to D. -/
  | addi (a : Src) (d : Dst) (i : BitVec 13)
  /-- ANDI (R138). Writes A AND the sign-extended immediate to D. -/
  | andi (a : Src) (d : Dst) (i : BitVec 13)
  /-- ORI (R138). Writes A OR the sign-extended immediate to D. -/
  | ori (a : Src) (d : Dst) (i : BitVec 13)
  /-- XORI (R138). Writes A XOR the sign-extended immediate to D. -/
  | xori (a : Src) (d : Dst) (i : BitVec 13)
  /-- SLLI (R138). Shifts A left by an immediate amount and writes the result to D. -/
  | slli (a : Src) (d : Dst) (i : BitVec 6)
  /-- SRLI (R138). Shifts A right logically by an immediate amount and writes the result to D. -/
  | srli (a : Src) (d : Dst) (i : BitVec 6)
  /-- SRAI (R138). Shifts A right arithmetically by an immediate amount and writes the result to D. -/
  | srai (a : Src) (d : Dst) (i : BitVec 6)
  /-- SLTI (R138). Writes 1 to D if A is below the signed immediate, else 0. -/
  | slti (a : Src) (d : Dst) (i : BitVec 13)
  /-- LDK (R139). Writes the sign-extended 19-bit immediate to D. -/
  | ldk (d : Dst) (i : BitVec 19)
  /-- LDKX (R139). Writes A times 2^13 plus the unsigned immediate to D. -/
  | ldkx (a : Src) (d : Dst) (i : BitVec 13)
  /-- EXT (R140). Extracts the low field of A of the given width, zero- or sign-extended, to D. -/
  | extf (a : Src) (d : Dst) (w : BitVec 6) (z : Bool)
  /-- INS (R141). Inserts a field of A at position B into the base held in D or q0. -/
  | ins (a : Src) (b : Src) (d : Dst) (w : BitVec 6)
  /-- BFX (R140). Extracts a field of A at position B, zero- or sign-extended, to D. -/
  | bfx (a : Src) (b : Src) (d : Dst) (w : BitVec 6) (z : Bool)
  /-- SEL (R142). Writes A to D if C is non-zero, otherwise B. -/
  | sel (a : Src) (b : Src) (d : Dst) (c : Src)
  /-- KEEP (R142). Copies A, or the pair A, to D. -/
  | keep (a : Src) (d : Dst) (p : Bool)
  /-- SEQ (R143). Writes 1 to D if A equals B, else 0. -/
  | seq (a : Src) (b : Src) (d : Dst) (w : Bool)
  /-- SNE (R143). Writes 1 to D if A differs from B, else 0. -/
  | sne (a : Src) (b : Src) (d : Dst) (w : Bool)
  /-- ADDC (R144). Adds A, B and carry C and writes the sum and carry as a pair to D. -/
  | addc (a : Src) (b : Src) (d : Dst) (c : Src) (w : Bool)
  /-- SUBC (R144). Subtracts B and borrow C from A and writes the difference and borrow as a pair to D. -/
  | subc (a : Src) (b : Src) (d : Dst) (c : Src) (w : Bool)
  /-- CLAMP (R143). Writes A clamped between B and C, signed or unsigned, to D. -/
  | clamp (a : Src) (b : Src) (d : Dst) (c : Src) (u : Bool)
  /-- BR (R146). Compares A with B by CND and transfers to the relative header when the condition holds. -/
  | br (a : Src) (b : Src) (n : BitVec 3) (o : BitVec 9)
  /-- JMP (R147). Transfers to the header at a 24-bit relative offset. -/
  | jmp (o : BitVec 24)
  /-- CALL (R147). Transfers to a relative header and writes the following header's address to h15. -/
  | call (o : BitVec 24)
  /-- JR (R147). Transfers to the header whose address A holds. -/
  | jr (a : Src)
  /-- CALLR (R147). Transfers to the header whose address A holds and writes the following header's address to h15. -/
  | callr (a : Src)
  /-- LOOP (R148). Enters a loop body for a count taken from A and pushes a loop-stack entry. -/
  | loop (a : Src) (o : BitVec 9)
  /-- LOOPI (R148). Enters a loop body for an immediate count and pushes a loop-stack entry. -/
  | loopi (n : BitVec 12) (o : BitVec 9)
  /-- BRK (R150). Leaves the innermost loop by transferring to a relative header and popping one entry. -/
  | brk (o : BitVec 24)
  /-- FADD (R155). Adds packed floating-point lanes of A and B with one rounding. -/
  | fadd (a : Src) (b : Src) (d : Dst) (f : BitVec 3) (r : BitVec 2) (s : Bool)
  /-- FSUB (R155). Subtracts packed floating-point lanes of B from A with one rounding. -/
  | fsub (a : Src) (b : Src) (d : Dst) (f : BitVec 3) (r : BitVec 2) (s : Bool)
  /-- FMUL (R155). Multiplies packed floating-point lanes of A and B with one rounding. -/
  | fmul (a : Src) (b : Src) (d : Dst) (f : BitVec 3) (r : BitVec 2) (s : Bool)
  /-- FMA (R156). Computes A times B plus the base in D or q0 lane by lane with one rounding. -/
  | fma (a : Src) (b : Src) (d : Dst) (f : BitVec 3) (r : BitVec 2) (s : Bool)
  /-- FDIV (R155). Divides packed floating-point lanes of A by B with one rounding. -/
  | fdiv (a : Src) (b : Src) (d : Dst) (f : BitVec 3) (r : BitVec 2) (s : Bool)
  /-- FSQRT (R157). Computes the square root of each lane of A with one rounding. -/
  | fsqrt (a : Src) (d : Dst) (f : BitVec 3) (r : BitVec 2) (s : Bool)
  /-- FMIN (R155). Writes the lane-wise minimumNumber of A and B. -/
  | fmin (a : Src) (b : Src) (d : Dst) (f : BitVec 3)
  /-- FMAX (R155). Writes the lane-wise maximumNumber of A and B. -/
  | fmax (a : Src) (b : Src) (d : Dst) (f : BitVec 3)
  /-- FSGN (R159). Changes the sign bits of lanes as SOP selects, raising no flag. -/
  | fsgn (a : Src) (b : Src) (d : Dst) (f : BitVec 3) (o : BitVec 2)
  /-- FHSUM (R160). Adds every lane of A and B exactly and rounds the sum into lane 0. -/
  | fhsum (a : Src) (b : Src) (d : Dst) (f : BitVec 3) (r : BitVec 2) (s : Bool)
  /-- PDOT (R172). Forms the optionally scaled block sums of A times B as a WS128 pair. -/
  | pdot (a : Src) (b : Src) (d : Dst) (c : BitVec 4) (u : Bool) (s : BitVec 2)
  /-- FSCL (R158). Multiplies each lane of A by 2^B with one rounding. -/
  | fscl (a : Src) (b : Src) (d : Dst) (f : BitVec 3) (r : BitVec 2) (s : Bool)
  /-- FRCP (R157). Computes the correctly rounded reciprocal of each lane of A. -/
  | frcp (a : Src) (d : Dst) (f : BitVec 3) (r : BitVec 2) (s : Bool)
  /-- FRSQ (R157). Computes the correctly rounded reciprocal square root of each lane of A. -/
  | frsq (a : Src) (d : Dst) (f : BitVec 3) (r : BitVec 2) (s : Bool)
  /-- FEXP2 (R157). Computes the correctly rounded 2^a of each lane of A. -/
  | fexp2 (a : Src) (d : Dst) (f : BitVec 3) (r : BitVec 2) (s : Bool)
  /-- FROUND (R157). Rounds each lane of A to an integral value by the rounding mode. -/
  | fround (a : Src) (d : Dst) (f : BitVec 3) (r : BitVec 2)
  /-- FCMP (R161). Compares lanes of A and B by PRED and writes all-ones or zero masks. -/
  | fcmp (a : Src) (b : Src) (d : Dst) (f : BitVec 3) (p : BitVec 3)
  /-- FCLASS (R162). Writes the class code of each lane of A. -/
  | fclass (a : Src) (d : Dst) (f : BitVec 3)
  /-- CVT (R164). Converts floating-point lanes between formats with PART placement. -/
  | cvt (a : Src) (p : BitVec 3) (s : BitVec 3) (d : Dst) (f : BitVec 3) (r : BitVec 2) (t : Bool) (q : Bool)
  /-- CVTI (R165). Converts floating-point lanes to integers of the same width. -/
  | cvti (a : Src) (u : Bool) (d : Dst) (f : BitVec 3) (r : BitVec 2)
  /-- CVTF (R165). Converts integer lanes to floating-point lanes of the same width. -/
  | cvtf (a : Src) (u : Bool) (d : Dst) (f : BitVec 3) (r : BitVec 2)
  /-- CVTX (R166). Expands FP6 or INT4 lanes exactly to FP8. -/
  | cvtx (a : Src) (p : Bool) (k : BitVec 2) (d : Dst)
  /-- PPERM (R169). Selects bytes of A and B by the selector bytes of C. -/
  | pperm (a : Src) (b : Src) (d : Dst) (c : Src)
  /-- PPACK (R167). Narrows the lanes of A and B into one word with rounding. -/
  | ppack (a : Src) (b : Src) (d : Dst) (f : BitVec 3) (r : BitVec 2) (s : Bool) (x : Bool)
  /-- PUNPK (R168). Widens half of the lanes of A exactly. -/
  | punpk (a : Src) (d : Dst) (f : BitVec 3) (x : Bool) (h : Bool)
  /-- WSADD (R173). Adds two WS128 pairs by R113. -/
  | wsadd (a : Src) (b : Src) (d : Dst)
  /-- WSSCL (R173). Multiplies a WS128 pair by a scale byte by R114. -/
  | wsscl (a : Src) (b : Src) (d : Dst) (s : BitVec 2)
  /-- WSRND (R174). Applies the tensor scales to a WS128 pair and rounds it once into lane 0. -/
  | wsrnd (a : Src) (b : Src) (d : Dst) (f : BitVec 3) (r : BitVec 2) (s : Bool) (t : Bool)
  /-- PINT (R170). Applies a packed 8- or 16-bit integer operation lane by lane. -/
  | pint (a : Src) (b : Src) (d : Dst) (w : Bool) (u : Bool) (s : Bool) (o : BitVec 3)
  /-- PDOTI (R171). Adds the packed integer dot product of A and B to a base. -/
  | pdoti (a : Src) (b : Src) (d : Dst) (y : Bool) (x : Bool) (w : Bool)
  /-- LD (R186). Loads a value of the given size and tag mode from A plus offset. -/
  | ld (a : Src) (d : Dst) (z : BitVec 2) (t : BitVec 2) (o : BitVec 8)
  /-- ST (R186). Stores the low bytes of B at A plus offset under the tag mode. -/
  | st (a : Src) (b : Src) (z : BitVec 2) (t : BitVec 2) (o : BitVec 8)
  /-- LDP (R187). Loads 16 aligned bytes into a pair. -/
  | ldp (a : Src) (d : Dst) (t : BitVec 2) (o : BitVec 8)
  /-- STP (R187). Stores a pair as 16 aligned bytes. -/
  | stp (a : Src) (b : Src) (t : BitVec 2) (o : BitVec 8)
  /-- TAGR (R189). Reads the tag of a word without waiting or raising poison. -/
  | tagr (a : Src) (d : Dst) (o : BitVec 8)
  /-- TAGW (R189). Sets the tag of a word and serves its defer queue. -/
  | tagw (a : Src) (b : Src) (o : BitVec 8)
  /-- TOUCH (R190). Translates an address, checks R and pulls a migrating line. -/
  | touch (a : Src) (z : BitVec 2) (o : BitVec 8)
  /-- LDM (R188). Loads a run of 1 to 4 consecutive words into registers. -/
  | ldm (a : Src) (d : Dst) (z : BitVec 2) (t : BitVec 2) (o : BitVec 8)
  /-- STM (R188). Stores a run of 1 to 4 registers as consecutive words. -/
  | stm (a : Src) (b : Src) (z : BitVec 2) (t : BitVec 2) (o : BitVec 8)
  /-- AMO (R192). Applies an atomic operation at the word's home without returning the old value. -/
  | amo (a : Src) (b : Src) (p : BitVec 4) (z : Bool) (s : Bool) (q : Bool)
  /-- AMOR (R192). Applies an atomic operation at the home and returns the old value. -/
  | amor (a : Src) (b : Src) (d : Dst) (p : BitVec 4) (z : Bool) (s : Bool) (q : Bool)
  /-- AMOD (R194). Applies an atomic operation and redirects the old value to a second address with an arrival. -/
  | amod (a : Src) (b : Src) (p : BitVec 4) (z : Bool) (s : Bool) (q : Bool)
  /-- CAS (R195). Compares a word with a value and swaps in a new one on success, returning the old. -/
  | cas (a : Src) (b : Src) (d : Dst) (z : Bool) (s : Bool) (x : Bool) (q : Bool)
  /-- PUTSIG (R199). Stores a word and, once acknowledged, makes an arrival. -/
  | putsig (a : Src) (b : Src) (c : Src)
  /-- PUTSIG2 (R199). Stores a pair and, once acknowledged, makes an arrival. -/
  | putsig2 (a : Src) (b : Src) (c : Src)
  /-- ARM (R198). Stores an arrival word and sets its tag to 10. -/
  | arm (a : Src) (b : Src)
  /-- WAITG (R203). Waits until an arrival word's generation passes a value, then returns the word. -/
  | waitg (a : Src) (b : Src) (d : Dst) (l : BitVec 7)
  /-- WAITM (R204). Waits until a word has every bit of a mask set, then returns the word. -/
  | waitm (a : Src) (b : Src) (d : Dst) (l : BitVec 7)
  /-- WAITC (R202). Waits until outstanding loads, stores, copies and tile operations fall to the given counts. -/
  | waitc (l : BitVec 6) (s : BitVec 6) (c : BitVec 6) (t : BitVec 6)
  /-- WAITT (R205). Waits until an engine context's timeline reaches a value. -/
  | waitt (a : Src) (b : Src) (d : Dst) (l : BitVec 7)
  /-- BAR (R206). Drains stores and waits at the team barrier until every member arrives. -/
  | bar (a : Src) (l : BitVec 7)
  /-- BARG (R206). Drains stores and waits at the group barrier through the network. -/
  | barg (a : Src) (l : BitVec 7)
  /-- SIG (R200). Makes an arrival of a given amount at an arrival word. -/
  | sig (a : Src) (b : Src)
  /-- QRES (R209). Waits for room and reserves the slot at TAIL of a queue. -/
  | qres (a : Src) (d : Dst) (l : BitVec 7)
  /-- QPUB (R209). Drains stores and publishes a reserved slot by a produce store of ST. -/
  | qpub (a : Src)
  /-- QPOP (R209). Waits for the head slot of a queue to be full and returns its address. -/
  | qpop (a : Src) (d : Dst) (l : BitVec 7)
  /-- QREL (R209). Empties the head slot of a queue and advances HEAD. -/
  | qrel (a : Src)
  /-- QPUSH (R209). Reserves a slot, stores a word into it and publishes it. -/
  | qpush (a : Src) (b : Src) (d : Dst) (l : BitVec 7)
  /-- QINFO (R209). Returns the low halves of HEAD and TAIL of a queue. -/
  | qinfo (a : Src) (d : Dst)
  /-- QCLOSE (R209). Closes a queue and releases parked reservations with QUEUE_CLOSED. -/
  | qclose (a : Src)
  /-- TMM (R244). Issues a tile product command to the matrix inbox. -/
  | tmm (a : Src) (b : Src) (d : Dst) (i : Bool) (c : BitVec 2)
  /-- TZERO (R244). Issues a command that makes an accumulator clean. -/
  | tzero (b : Src) (d : Dst) (c : BitVec 2)
  /-- TST (R244). Issues a command that rounds and stores an accumulator. -/
  | tst (a : Src) (b : Src) (d : Dst) (c : BitVec 2)
  /-- TRED (R244). Issues a command that adds an accumulator into memory by f32 atomics. -/
  | tred (a : Src) (b : Src) (d : Dst) (c : BitVec 2)
  /-- TWS (R244). Issues a command that stores an accumulator raw as WS128 pairs. -/
  | tws (a : Src) (b : Src) (d : Dst) (c : BitVec 2)
  /-- TWSL (R244). Issues a command that loads an accumulator from WS128 pairs. -/
  | twsl (a : Src) (b : Src) (d : Dst) (c : BitVec 2)
  /-- TCFG (R245). Writes the matrix configuration registers from a word-0 image and a scale word. -/
  | tcfg (a : Src) (b : Src)
  /-- TCMD (R246). Loads a 32-byte command image and places it in the matrix inbox. -/
  | tcmd (a : Src) (d : Dst)
  /-- TLD (R244). Issues a command that loads an accumulator from rounded elements. -/
  | tld (a : Src) (b : Src) (d : Dst) (c : BitVec 2)
  /-- TACC (R244). Issues a command that adds WS128 pairs into an accumulator. -/
  | tacc (a : Src) (b : Src) (d : Dst) (c : BitVec 2)
  /-- ECMD (R268). Loads a command block and sends it to a near-memory context. -/
  | ecmd (a : Src) (b : Src) (d : Dst)
  /-- CHAIN (R268). Enters a chain of transfer records in the core's copy channel inbox. -/
  | chain (a : Src) (d : Dst)
  /-- CSTAT (R269). Reads the status or timeline of an engine context. -/
  | cstat (a : Src) (b : Src) (d : Dst)
  /-- CCAN (R270). Cancels the activation's unretired commands on its copy channel. -/
  | ccan (d : Dst)
  /-- SEND (R296). Sends a message whose payload comes from registers. -/
  | send (a : Src) (b : Src)
  /-- SENDB (R296). Sends a message whose payload is loaded from memory. -/
  | sendb (a : Src) (b : Src)
  /-- SENDI (R296). Sends an inline active message whose payload is loaded from memory. -/
  | sendi (a : Src) (b : Src)
  /-- CMASK (R298). Sets bits of CMASK and returns the old value. -/
  | cmask (a : Src) (d : Dst)
  /-- CUNM (R298). Clears bits of CMASK and returns the old value. -/
  | cunm (a : Src) (d : Dst)
  /-- RDIN (R298). Reads a word of the current message. -/
  | rdin (a : Src) (d : Dst)
  /-- REDN (R298). Contributes a WS128 pair to an in-network reduction tree. -/
  | redn (a : Src) (b : Src)
  /-- SENDW (R297). Sends a message and waits for its reply. -/
  | sendw (a : Src) (b : Src) (d : Dst) (l : BitVec 7)
  /-- SPAWN (R332). Pushes a task record onto the core's deque. -/
  | spawn (a : Src) (b : Src)
  /-- TAKE (R333). Pops the bottom slot of the core's deque into registers. -/
  | take (d : Dst)
  /-- YIELD (R335). Offers a pre-emption point and reloads YCNT. -/
  | yield (i : BitVec 13)
  /-- LAUNCH (R336). Reads a launch descriptor and enqueues it at the home die's launch engine. -/
  | launch (a : Src) (d : Dst)
  /-- TREADY (R337). Resets a TCB and makes its release arrival into the activation's launch. -/
  | tready (a : Src) (d : Dst)
  /-- STAGE_PUT (R364). Puts a keyed record into a stage. -/
  | stagePut (a : Src) (b : Src) (d : Dst)
  /-- STAGE_TWIN (R366). Orders a stage to twin an instance at a split key. -/
  | stageTwin (a : Src) (b : Src) (d : Dst)
  /-- STAGE_MERGE (R368). Orders a stage to merge an instance into the one below. -/
  | stageMerge (a : Src) (b : Src) (d : Dst)
  /-- STAGE_INFO (R363). Reads a snapshot of a stage descriptor's word 0. -/
  | stageInfo (a : Src) (d : Dst)
  /-- STAGE_CLOSE (R372). Closes a stage, or holds the close until a change ends. -/
  | stageClose (a : Src)
  /-- GID (R355). Returns a coordinate, index or extent of the activation's grid group. -/
  | gid (d : Dst) (s : BitVec 3)
  /-- QDIE (R338). Pops a slot of the partition's die queue through the pergola. -/
  | qdie (a : Src) (d : Dst) (l : BitVec 7)
  /-- TCBQ (R339). Returns a snapshot of the core's dispatcher occupancy. -/
  | tcbq (d : Dst)
  /-- GETC (R223). Reads a control register. -/
  | getc (d : Dst) (n : BitVec 12)
  /-- SETC (R223). Writes a control register. -/
  | setc (a : Src) (n : BitVec 12)
  /-- SWPC (R223). Swaps a control register with A and returns the old value. -/
  | swpc (a : Src) (d : Dst) (n : BitVec 12)
  /-- SETCB (R223). Sets or clears bits of a control register and returns the old value. -/
  | setcb (a : Src) (d : Dst) (k : Bool) (n : BitVec 12)
  /-- SYS (R218). Enters the system runtime's service block at level S. -/
  | sys (a : Src) (n : BitVec 12)
  /-- RESUME_TEAM (R414). Hardware service that resumes a checkpointed team by replaying its checkpoints. -/
  | resumeTeam (a : Src)
  /-- TRET (R217). Returns from a trap by reloading the frame, or passes the cause to containment. -/
  | tret (e : Bool)
  /-- HALT (R224). Writes the user result word and ends the activation as done does. -/
  | halt (a : Src)
  /-- XINV (R224). Sends a translation invalidation to every live cluster engine. -/
  | xinv (a : Src) (b : Src)
  /-- XPROBE (R224). Translates an address as a load would and returns the result. -/
  | xprobe (a : Src) (d : Dst)
  /-- STAMP (R224). Sets ST or reads device time. -/
  | stamp (a : Src) (d : Dst) (f : BitVec 2)
  /-- CYC (R224). Returns cycles or retired instructions since reset. -/
  | cyc (d : Dst) (r : Bool)
  /-- EBREAK (R224). Raises TRAP_SW with the immediate in TINFO. -/
  | ebreak (i : BitVec 13)
  /-- GATE (R224). Sets the power state of register bank 1. -/
  | gate (m : BitVec 2)
  /-- STEAL (R318). A victim's dispatcher answers a steal with slot TOP or empty. -/
  | steal (thief : Nat)
  /-- DIE_QUEUE_POP (R320). The pergola root hands out die-queue positions to merged pops. -/
  | dieQueuePop (die part : Nat)
  /-- HOME_ACCESS (R37). A load, store or atomic is performed at its home in the home's single order. -/
  | homeAccess (acc : Nat)
  /-- ACCESS_COMPLETION (R183). A load value or store acknowledgement returns to the issuing core. -/
  | accessCompletion (acc : Nat)
  /-- TRANSLATION_WALK (R30). A walker completes a page-table walk for queued misses. -/
  | translationWalk (cluster miss : Nat)
  /-- TRANSLATION_INVALIDATION (R35). A live cluster engine applies an invalidation and adds one to the arrival word. -/
  | translationInvalidation (cluster : Nat)
  /-- QUARANTINE_RETURN (R36). The kiosk returns quarantined pages once QGEN exceeds their generation. -/
  | quarantineReturn (part : Nat)
  /-- FOLLOW_ON_DELIVERY (R253). A held follow-on command is delivered once FOLLOW is set and no request stands. -/
  | followOnDelivery (idx : Nat)
  /-- CHUNK_COMPLETION (R265). A chunk's bytes are accepted and its arrival or bitmap bit is written. -/
  | chunkCompletion (chunk : Nat)
  /-- RING_ARBITRATION_ROUND (R271). The cluster engine serves request rings by weighted deficit round-robin. -/
  | ringArbitrationRound (cluster : Nat)
  /-- STORE_BUDGET_REFILL (R273). The store-budget bucket refills and lets waiting writes pass. -/
  | storeBudgetRefill (cluster bytes : Nat)
  /-- MESSAGE_ACCEPT (R291). A message enters a core's inbox, or is taken by a waiting sendw. -/
  | messageAccept (msg : Nat)
  /-- REDUCTION_CONTRIBUTION (R302). A router receives a contribution to a reduction round. -/
  | reductionContribution (cluster tree : Nat)
  /-- FLIT_AGE_PRIORITY (R283). A flit waiting 256 fabric cycles is served ahead of lower priorities. -/
  | flitAgePriority (msg : Nat)
  /-- LAUNCH_ENQUEUE (R323). The launch engine checks a launch, snapshots its descriptors and starts it. -/
  | launchEnqueue (die : Nat)
  /-- MEMBER_RETIREMENT (R325). A launch member retires once ended, acknowledged and its commands retired. -/
  | memberRetirement (launch : Nat)
  /-- COMPLETION_SIGNAL (R325). After the record is accepted the engine arrives at SIGNAL and raises MSI-X. -/
  | completionSignal (launch : Nat)
  /-- RETIREMENT_REPORT (R351). The home die accepts a group's retirement report and sets its bit. -/
  | retirementReport (launch group : Nat)
  /-- GROUP_PLACEMENT (R350). A released group is placed as a gang on idle pool cores. -/
  | groupPlacement (launch group : Nat)
  /-- STAGE_OVERLOAD (R371). A queue depth stays at ODEPTH for OWIN and the kiosk is told. -/
  | stageOverload (stage queue : Nat)
  /-- KIOSK_STAGE_ORDER (R371). The kiosk orders a twin or merge of a stage. -/
  | kioskStageOrder (stage : Nat) (merge : Bool) (arg : Nat)
  /-- WRITE_WINDOW (R380). A channel opens a write window and drains its write queue. -/
  | writeWindow (stack chan : Nat)
  /-- ROW_ALERT (R387). A row's activation count reaches TH and the bank is closed for refresh. -/
  | rowAlert (stack row : Nat)
  /-- REFRESH (R388). A bank refresh is made, breaking an open burst at the postponement limit. -/
  | refresh (stack chan bank : Nat)
  /-- MIGRATION_PULL (R393). The engine pulls an absent line of a migrating granule and performs waiting accesses. -/
  | migrationPull (stack entry line : Nat)
  /-- NM_GEMV (R398). The near-memory engine computes a matrix-vector product in the stack. -/
  | nmGemv (stack ctx : Nat)
  /-- NM_AXPBY (R398). The near-memory engine updates Y to a times Y plus b times X. -/
  | nmAxpby (stack ctx : Nat)
  /-- NM_REDUCE (R398). The near-memory engine sums an extent into a WS128 and rounds it. -/
  | nmReduce (stack ctx : Nat)
  /-- NM_FILL (R398). The near-memory engine fills an extent with a pattern. -/
  | nmFill (stack ctx : Nat)
  /-- NM_COPY (R398). The near-memory engine copies an extent within the stack. -/
  | nmCopy (stack ctx : Nat)
  /-- NM_MIGRATE (R392). The near-memory engine installs migration entries and fills new granules. -/
  | nmMigrate (stack ctx : Nat)
  /-- NM_REPLY (R400). Once a command's writes are accepted the context makes its reply and retires it. -/
  | nmReply (stack ctx : Nat)
  /-- DISTURB_WRITE (R386). A write of DISTURB sets K and loads the seeded state when SEEDED is set. -/
  | disturbWrite (stack : Nat) (v : BitVec 64)
  /-- EINJ_WRITE (R391). A write of EINJ arms an uncorrectable error on a line. -/
  | einjWrite (stack : Nat) (v : BitVec 64)
  /-- ASTAT_WRITE (R385). A write of 1 clears sticky atomic flags. -/
  | astatWrite (cluster : Bool) (unit : Nat) (v : BitVec 64)
  /-- ECCCNT_WRITE (R385). A write of 0 clears the error counts. -/
  | ecccntWrite (stack : Nat) (v : BitVec 64)
  /-- SFAULT_WRITE (R385). A write of 0 clears the stack's passed-cause record. -/
  | sfaultWrite (stack : Nat) (v : BitVec 64)
  /-- CEFAULT_WRITE (R275). A write of 0 clears the cluster engine's passed-cause record. -/
  | cefaultWrite (cluster : Nat) (v : BitVec 64)
  /-- NMSTAT_WRITE (R385). A write of 1 clears a context's sticky rounding flags. -/
  | nmstatWrite (stack ctx : Nat) (v : BitVec 64)
  /-- GGATE_WRITE (R354). The kiosk closes or opens a grid's gate. -/
  | ggateWrite (die slot : Nat) (v : BitVec 64)
  /-- PHALT_WRITE (R330). The kiosk halts or releases a partition's cores on a die. -/
  | phaltWrite (die : Nat) (v : BitVec 64)
  /-- PREQ_WRITE (R330). The kiosk sets pre-emption requests for cores of a cluster. -/
  | preqWrite (die cluster : Nat) (v : BitVec 64)
  /-- REGISTER_WRITE (R423). A write to a control-space register with no behaviour of its own. -/
  | registerWrite (pa : Nat) (kiosk : Bool) (v : BitVec 64)
  /-- POSTED_WRITE (R408). A host posted write is performed in order for its requester and class. -/
  | postedWrite (fn pa : Nat) (v : BitVec 64)
  /-- HOST_READ (R408). A host read completes after earlier posted writes. -/
  | hostRead (fn pa : Nat)
  /-- EXT_TIMEOUT (R410). A host or peer access goes unanswered for 2^24 fabric cycles. -/
  | extTimeout (acc : Nat)
  /-- LINK_TRAINING (R410). A Siard link trains on 8 lanes or retrains on 4. -/
  | linkTraining (link : Nat) (eight : Bool)
  /-- STACK_JOIN (R419). An HBM stack has trained and joins the interleave. -/
  | stackJoin (stack : Nat)
  /-- QUERY (R417). A mailbox request returns device time, resources and stage. -/
  | mbQuery (mb : Nat)
  /-- LOAD (R417). A mailbox request checks, places and starts a DOF file. -/
  | mbLoad (mb : Nat)
  /-- MAILBOX_LAUNCH (R417). A mailbox request enqueues a launch descriptor. -/
  | mbLaunch (mb : Nat)
  /-- PART_CREATE (R417). A mailbox request creates a partition. -/
  | mbPartCreate (mb : Nat)
  /-- PART_RESIZE (R417). A mailbox request grows or shrinks a partition. -/
  | mbPartResize (mb : Nat)
  /-- PART_DESTROY (R417). A mailbox request destroys a partition. -/
  | mbPartDestroy (mb : Nat)
  /-- ATTEST (R417). A mailbox request writes a signed attestation report. -/
  | mbAttest (mb : Nat)
  /-- EVENT_READ (R417). A mailbox request moves event records from its ring. -/
  | mbEventRead (mb : Nat)
  /-- EVENT_ROUTE (R417). A mailbox request routes the partition's events to a core. -/
  | mbEventRoute (mb : Nat)
  /-- ILLEGAL_OPCODE (R62). Execution of an instruction word whose OP is one of the 96 unassigned values, including the upper half of a header, raises ILLEGAL_OPCODE. -/
  | illegalOpcode (word : BitVec 32)
  /-- RESERVED_FIELD (R63). Execution of an instruction word of an assigned OP whose reserved or unused fields are not zero raises RESERVED_FIELD. -/
  | reservedField (word : BitVec 32)
  /-- MSI_X_UNMASK (R325). The host unmasks an MSI-X vector whose pending bit is set, and the device then sends the held message. -/
  | msiXUnmask (fn vec : Nat)
  /-- STACK_OUT_OF_SERVICE (R402). A stack or channel is taken out of service after start, so that later accesses to it raise STACK_OFFLINE. -/
  | stackOutOfService (stack chan : Nat)
  /-- HRET (R298). Ends inline code or a handler activation. -/
  | hret
  /-- DONE (R334). Drains, waits for commands, makes successor arrivals and ends the activation. -/
  | done
  /-- NOP (R224). Does nothing. -/
  | nop
  /-- RFILL (R224). Fills every absent register at once. -/
  | rfill
  /-- BLOCK_END (R149). Control reaches the end of a block and closes a loop iteration or falls through. -/
  | blockEnd
  /-- DISPATCH_SELECT (R311). An idle core's dispatcher chooses its next work by DORD order. -/
  | dispatchSelect
  /-- STEAL_BACKOFF_EXPIRY (R319). The BACKOFF wait after a failed steal round expires. -/
  | stealBackoffExpiry
  /-- READY_PUSH (R315). A dispatcher receives a TCB push and writes it at TAIL of its band's ring. -/
  | readyPush
  /-- YIELD_OVERRUN (R130). YCNT has reached 0 and the next instruction raises YIELD_OVERRUN. -/
  | yieldOverrun
  /-- PREEMPTION (R131). At a pre-emption point under request the core drains and saves its context. -/
  | preemption
  /-- TRAP_ENTRY (R214). A cause waits for pending loads, writes the trap frame and enters the handler. -/
  | trapEntry
  /-- PORT_TIMEOUT (R123). A port wait passes PORTTO and raises PORT_TIMEOUT. -/
  | portTimeout
  /-- TAG_TIMEOUT (R179). A tagged wait passes TAGTO and is withdrawn. -/
  | tagTimeout
  /-- WAIT_TIMEOUT (R203). A waitg, waitm, waitt or barrier wait passes its LIM bound. -/
  | waitTimeout
  /-- QUEUE_TIMEOUT (R209). A queue wait passes its LIM bound. -/
  | queueTimeout
  /-- MSG_TIMEOUT (R297). A sendw wait passes its LIM bound. -/
  | msgTimeout
  /-- OPC_MM (R241). The matrix unit adds a scaled tile product into an accumulator. -/
  | opcMm
  /-- OPC_ZERO (R243). The matrix unit makes an accumulator clean. -/
  | opcZero
  /-- OPC_ST (R242). The matrix unit rounds and stores accumulator elements. -/
  | opcSt
  /-- OPC_RED (R243). The matrix unit adds rounded elements into memory by f32 atomics. -/
  | opcRed
  /-- OPC_WS (R243). The matrix unit stores all accumulator elements raw. -/
  | opcWs
  /-- OPC_WSL (R243). The matrix unit loads all accumulator elements from WS128 pairs. -/
  | opcWsl
  /-- OPC_LD (R243). The matrix unit loads an accumulator from rounded elements. -/
  | opcLd
  /-- OPC_ACC (R243). The matrix unit adds WS128 pairs into an accumulator. -/
  | opcAcc
  /-- MATRIX_COMMAND_RETIRE (R230). A matrix command retires once its writes and arrival are accepted. -/
  | matrixCommandRetire
  /-- COPY (R262). A copy channel runs a copy record. -/
  | copyRecord
  /-- MULTICAST_COPY (R264). A copy channel runs a multicast copy record to a group. -/
  | multicastCopy
  /-- FILL (R262). A copy channel runs a fill record with a pattern. -/
  | fillRecord
  /-- RECORD_LANDING (R266). A record lands, delivers its follow-on command and clears OWN. -/
  | recordLanding
  /-- CHAIN_RETIRE (R267). A chain command retires when all its records have retired. -/
  | chainRetire
  /-- INLINE_EXECUTION (R293). Inline code of a message runs in its own context against the inbox. -/
  | inlineExecution
  /-- STAGE_PUT_APPLY (R364). The stage home routes a put to a queue, waiting while it is full. -/
  | stagePutApply
  /-- POWER_GOOD (R419). Power-good starts device time and start-up stage 1. -/
  | powerGood
  /-- MESH_SELF_TEST (R419). Mesh self-test completes and stage 3 is reached. -/
  | meshSelfTest
  /-- POWER_LIMIT (R413). The hardware power cap throttles the module. -/
  | powerLimit
  /-- MANAGEMENT_REQUEST (R418). A class 31 message of kind 0x20 is performed as a device mailbox request. -/
  | managementRequest
  /-- KIOSK_EVENT (R418). The kiosk receives a cause or overload and queues an event record. -/
  | kioskEvent
  /-- QDIE_EXPIRY (R338). A qdie whose LIM bound expires withdraws its pop from the pergola, writes zeros and raises nothing. -/
  | qdieExpiry
  deriving DecidableEq, Repr

end Sys2Proof
end

