-- ==== Sys2Proof/Decode.lean ====
section
/-! DEFINITION. Decoding and encoding of instruction words (spec/03_encoding.md, R40, R48–R63, R414).
`decodeWord` is total on 32-bit words: an unassigned OP decodes to `illegalOpcode` (R62), a non-zero reserved or
unused field to `reservedField` (R63). A reserved VALUE of a field that the opcode table leaves free is decoded
and raises RESERVED_FIELD when the instruction executes. `encodeWord` lays the fields out from bit 31 down. -/

namespace Sys2Proof

/-- The `len` bits of an instruction word from bit `lo` up. -/
abbrev ex (lo len : Nat) (w : BitVec 32) : BitVec len := w.extractLsb' lo len

/-- A one-bit field as a Boolean. -/
def bitOf (b : BitVec 1) : Bool := b == 1#1

/-- A source operand field (R50). -/
def srcOf (v : BitVec 6) : Src :=
  if v.toNat < 16 then .q (Fin.ofNat 16 v.toNat)
  else if v.toNat < 32 then .h (Fin.ofNat 16 (v.toNat - 16))
  else if v = 32#6 then .z
  else if v = 33#6 then .port .n
  else if v = 34#6 then .port .e
  else if v = 35#6 then .port .s
  else if v = 36#6 then .port .w
  else .bad v

/-- The 6 bits of a source operand (R50). -/
def srcBits : Src → BitVec 6
  | .q n => BitVec.ofNat 6 n.val
  | .h n => BitVec.ofNat 6 (16 + n.val)
  | .z => 32#6
  | .port .n => 33#6
  | .port .e => 34#6
  | .port .s => 35#6
  | .port .w => 36#6
  | .bad v => v

/-- A destination field (R51). -/
def dstOf (v : BitVec 5) : Dst :=
  if v.toNat < 16 then .h (Fin.ofNat 16 v.toNat)
  else if v = 16#5 then .push
  else if v = 17#5 then .port .n
  else if v = 18#5 then .port .e
  else if v = 19#5 then .port .s
  else if v = 20#5 then .port .w
  else .bad v

/-- The 5 bits of a destination (R51). -/
def dstBits : Dst → BitVec 5
  | .h n => BitVec.ofNat 5 n.val
  | .push => 16#5
  | .port .n => 17#5
  | .port .e => 18#5
  | .port .s => 19#5
  | .port .w => 20#5
  | .bad v => v

/-- `i` if the reserved and unused fields of `w` hold what they must, RESERVED_FIELD otherwise (R63). -/
def ifFields (ok : Bool) (i : Instr) (w : BitVec 32) : Instr := if ok then i else .reservedField w

/-- Words whose OP is 0x00–0x0F. -/
def decode0 (lo : Nat) (w : BitVec 32) : Instr :=
  match lo with
  | 0x0 => ifFields (ex 1 6 w == 0#6) (.add (srcOf (ex 18 6 w)) (srcOf (ex 12 6 w)) (dstOf (ex 7 5 w)) (bitOf (ex 0 1 w))) w
  | 0x1 => ifFields (ex 1 6 w == 0#6) (.sub (srcOf (ex 18 6 w)) (srcOf (ex 12 6 w)) (dstOf (ex 7 5 w)) (bitOf (ex 0 1 w))) w
  | 0x2 => ifFields (ex 1 6 w == 0#6) (.and (srcOf (ex 18 6 w)) (srcOf (ex 12 6 w)) (dstOf (ex 7 5 w)) (bitOf (ex 0 1 w))) w
  | 0x3 => ifFields (ex 1 6 w == 0#6) (.or (srcOf (ex 18 6 w)) (srcOf (ex 12 6 w)) (dstOf (ex 7 5 w)) (bitOf (ex 0 1 w))) w
  | 0x4 => ifFields (ex 1 6 w == 0#6) (.xor (srcOf (ex 18 6 w)) (srcOf (ex 12 6 w)) (dstOf (ex 7 5 w)) (bitOf (ex 0 1 w))) w
  | 0x5 => ifFields (ex 1 6 w == 0#6) (.andn (srcOf (ex 18 6 w)) (srcOf (ex 12 6 w)) (dstOf (ex 7 5 w)) (bitOf (ex 0 1 w))) w
  | 0x6 => ifFields (ex 1 6 w == 0#6) (.sll (srcOf (ex 18 6 w)) (srcOf (ex 12 6 w)) (dstOf (ex 7 5 w)) (bitOf (ex 0 1 w))) w
  | 0x7 => ifFields (ex 1 6 w == 0#6) (.srl (srcOf (ex 18 6 w)) (srcOf (ex 12 6 w)) (dstOf (ex 7 5 w)) (bitOf (ex 0 1 w))) w
  | 0x8 => ifFields (ex 1 6 w == 0#6) (.sra (srcOf (ex 18 6 w)) (srcOf (ex 12 6 w)) (dstOf (ex 7 5 w)) (bitOf (ex 0 1 w))) w
  | 0x9 => ifFields (ex 1 6 w == 0#6) (.rol (srcOf (ex 18 6 w)) (srcOf (ex 12 6 w)) (dstOf (ex 7 5 w)) (bitOf (ex 0 1 w))) w
  | 0xA => ifFields (ex 1 6 w == 0#6) (.min (srcOf (ex 18 6 w)) (srcOf (ex 12 6 w)) (dstOf (ex 7 5 w)) (bitOf (ex 0 1 w))) w
  | 0xB => ifFields (ex 1 6 w == 0#6) (.max (srcOf (ex 18 6 w)) (srcOf (ex 12 6 w)) (dstOf (ex 7 5 w)) (bitOf (ex 0 1 w))) w
  | 0xC => ifFields (ex 1 6 w == 0#6) (.minu (srcOf (ex 18 6 w)) (srcOf (ex 12 6 w)) (dstOf (ex 7 5 w)) (bitOf (ex 0 1 w))) w
  | 0xD => ifFields (ex 1 6 w == 0#6) (.maxu (srcOf (ex 18 6 w)) (srcOf (ex 12 6 w)) (dstOf (ex 7 5 w)) (bitOf (ex 0 1 w))) w
  | 0xE => ifFields (ex 1 6 w == 0#6) (.slt (srcOf (ex 18 6 w)) (srcOf (ex 12 6 w)) (dstOf (ex 7 5 w)) (bitOf (ex 0 1 w))) w
  | 0xF => ifFields (ex 1 6 w == 0#6) (.sltu (srcOf (ex 18 6 w)) (srcOf (ex 12 6 w)) (dstOf (ex 7 5 w)) (bitOf (ex 0 1 w))) w
  | _ => .illegalOpcode w

/-- Words whose OP is 0x10–0x1F. -/
def decode1 (lo : Nat) (w : BitVec 32) : Instr :=
  match lo with
  | 0x0 => ifFields (ex 1 6 w == 0#6) (.mul (srcOf (ex 18 6 w)) (srcOf (ex 12 6 w)) (dstOf (ex 7 5 w)) (bitOf (ex 0 1 w))) w
  | 0x1 => ifFields (ex 1 6 w == 0#6) (.mulh (srcOf (ex 18 6 w)) (srcOf (ex 12 6 w)) (dstOf (ex 7 5 w)) (bitOf (ex 0 1 w))) w
  | 0x2 => ifFields (ex 1 6 w == 0#6) (.mulhu (srcOf (ex 18 6 w)) (srcOf (ex 12 6 w)) (dstOf (ex 7 5 w)) (bitOf (ex 0 1 w))) w
  | 0x3 => ifFields (ex 1 6 w == 0#6) (.div (srcOf (ex 18 6 w)) (srcOf (ex 12 6 w)) (dstOf (ex 7 5 w)) (bitOf (ex 0 1 w))) w
  | 0x4 => ifFields (ex 1 6 w == 0#6) (.divu (srcOf (ex 18 6 w)) (srcOf (ex 12 6 w)) (dstOf (ex 7 5 w)) (bitOf (ex 0 1 w))) w
  | 0x5 => ifFields (ex 1 6 w == 0#6) (.rem (srcOf (ex 18 6 w)) (srcOf (ex 12 6 w)) (dstOf (ex 7 5 w)) (bitOf (ex 0 1 w))) w
  | 0x6 => ifFields (ex 1 6 w == 0#6) (.remu (srcOf (ex 18 6 w)) (srcOf (ex 12 6 w)) (dstOf (ex 7 5 w)) (bitOf (ex 0 1 w))) w
  | 0x7 => ifFields (ex 12 6 w == 0#6 && ex 4 3 w == 0#3) (.bitc (srcOf (ex 18 6 w)) (dstOf (ex 7 5 w)) (ex 1 3 w) (bitOf (ex 0 1 w))) w
  | 0x8 => ifFields (true) (.addi (srcOf (ex 18 6 w)) (dstOf (ex 13 5 w)) (ex 0 13 w)) w
  | 0x9 => ifFields (true) (.andi (srcOf (ex 18 6 w)) (dstOf (ex 13 5 w)) (ex 0 13 w)) w
  | 0xA => ifFields (true) (.ori (srcOf (ex 18 6 w)) (dstOf (ex 13 5 w)) (ex 0 13 w)) w
  | 0xB => ifFields (true) (.xori (srcOf (ex 18 6 w)) (dstOf (ex 13 5 w)) (ex 0 13 w)) w
  | 0xC => ifFields (ex 6 7 w == 0#7) (.slli (srcOf (ex 18 6 w)) (dstOf (ex 13 5 w)) (ex 0 6 w)) w
  | 0xD => ifFields (ex 6 7 w == 0#7) (.srli (srcOf (ex 18 6 w)) (dstOf (ex 13 5 w)) (ex 0 6 w)) w
  | 0xE => ifFields (ex 6 7 w == 0#7) (.srai (srcOf (ex 18 6 w)) (dstOf (ex 13 5 w)) (ex 0 6 w)) w
  | 0xF => ifFields (true) (.slti (srcOf (ex 18 6 w)) (dstOf (ex 13 5 w)) (ex 0 13 w)) w
  | _ => .illegalOpcode w

/-- Words whose OP is 0x20–0x2F. -/
def decode2 (lo : Nat) (w : BitVec 32) : Instr :=
  match lo with
  | 0x0 => ifFields (true) (.ldk (dstOf (ex 19 5 w)) (ex 0 19 w)) w
  | 0x1 => ifFields (true) (.ldkx (srcOf (ex 18 6 w)) (dstOf (ex 13 5 w)) (ex 0 13 w)) w
  | 0x2 => ifFields (ex 12 6 w == 0#6) (.extf (srcOf (ex 18 6 w)) (dstOf (ex 7 5 w)) (ex 1 6 w) (bitOf (ex 0 1 w))) w
  | 0x3 => ifFields (ex 0 1 w == 0#1) (.ins (srcOf (ex 18 6 w)) (srcOf (ex 12 6 w)) (dstOf (ex 7 5 w)) (ex 1 6 w)) w
  | 0x4 => ifFields (true) (.bfx (srcOf (ex 18 6 w)) (srcOf (ex 12 6 w)) (dstOf (ex 7 5 w)) (ex 1 6 w) (bitOf (ex 0 1 w))) w
  | 0x5 => ifFields (ex 0 1 w == 0#1) (.sel (srcOf (ex 18 6 w)) (srcOf (ex 12 6 w)) (dstOf (ex 7 5 w)) (srcOf (ex 1 6 w))) w
  | 0x6 => ifFields (ex 12 6 w == 0#6 && ex 1 6 w == 0#6) (.keep (srcOf (ex 18 6 w)) (dstOf (ex 7 5 w)) (bitOf (ex 0 1 w))) w
  | 0x7 => ifFields (ex 1 6 w == 0#6) (.seq (srcOf (ex 18 6 w)) (srcOf (ex 12 6 w)) (dstOf (ex 7 5 w)) (bitOf (ex 0 1 w))) w
  | 0x8 => ifFields (ex 1 6 w == 0#6) (.sne (srcOf (ex 18 6 w)) (srcOf (ex 12 6 w)) (dstOf (ex 7 5 w)) (bitOf (ex 0 1 w))) w
  | 0x9 => ifFields (true) (.addc (srcOf (ex 18 6 w)) (srcOf (ex 12 6 w)) (dstOf (ex 7 5 w)) (srcOf (ex 1 6 w)) (bitOf (ex 0 1 w))) w
  | 0xA => ifFields (true) (.subc (srcOf (ex 18 6 w)) (srcOf (ex 12 6 w)) (dstOf (ex 7 5 w)) (srcOf (ex 1 6 w)) (bitOf (ex 0 1 w))) w
  | 0xB => ifFields (true) (.clamp (srcOf (ex 18 6 w)) (srcOf (ex 12 6 w)) (dstOf (ex 7 5 w)) (srcOf (ex 1 6 w)) (bitOf (ex 0 1 w))) w
  | _ => .illegalOpcode w

/-- Words whose OP is 0x30–0x3F. -/
def decode3 (lo : Nat) (w : BitVec 32) : Instr :=
  match lo with
  | 0x0 => ifFields (true) (.br (srcOf (ex 18 6 w)) (srcOf (ex 12 6 w)) (ex 9 3 w) (ex 0 9 w)) w
  | 0x1 => ifFields (true) (.jmp (ex 0 24 w)) w
  | 0x2 => ifFields (true) (.call (ex 0 24 w)) w
  | 0x3 => ifFields (ex 0 18 w == 0#18) (.jr (srcOf (ex 18 6 w))) w
  | 0x4 => ifFields (ex 0 18 w == 0#18) (.callr (srcOf (ex 18 6 w))) w
  | 0x5 => ifFields (ex 9 9 w == 0#9) (.loop (srcOf (ex 18 6 w)) (ex 0 9 w)) w
  | 0x6 => ifFields (ex 9 3 w == 0#3) (.loopi (ex 12 12 w) (ex 0 9 w)) w
  | 0x7 => ifFields (true) (.brk (ex 0 24 w)) w
  | _ => .illegalOpcode w

/-- Words whose OP is 0x40–0x4F. -/
def decode4 (lo : Nat) (w : BitVec 32) : Instr :=
  match lo with
  | 0x0 => ifFields (ex 0 1 w == 0#1) (.fadd (srcOf (ex 18 6 w)) (srcOf (ex 12 6 w)) (dstOf (ex 7 5 w)) (ex 4 3 w) (ex 2 2 w) (bitOf (ex 1 1 w))) w
  | 0x1 => ifFields (ex 0 1 w == 0#1) (.fsub (srcOf (ex 18 6 w)) (srcOf (ex 12 6 w)) (dstOf (ex 7 5 w)) (ex 4 3 w) (ex 2 2 w) (bitOf (ex 1 1 w))) w
  | 0x2 => ifFields (ex 0 1 w == 0#1) (.fmul (srcOf (ex 18 6 w)) (srcOf (ex 12 6 w)) (dstOf (ex 7 5 w)) (ex 4 3 w) (ex 2 2 w) (bitOf (ex 1 1 w))) w
  | 0x3 => ifFields (ex 0 1 w == 0#1) (.fma (srcOf (ex 18 6 w)) (srcOf (ex 12 6 w)) (dstOf (ex 7 5 w)) (ex 4 3 w) (ex 2 2 w) (bitOf (ex 1 1 w))) w
  | 0x4 => ifFields (ex 0 1 w == 0#1) (.fdiv (srcOf (ex 18 6 w)) (srcOf (ex 12 6 w)) (dstOf (ex 7 5 w)) (ex 4 3 w) (ex 2 2 w) (bitOf (ex 1 1 w))) w
  | 0x5 => ifFields (ex 12 6 w == 0#6 && ex 0 1 w == 0#1) (.fsqrt (srcOf (ex 18 6 w)) (dstOf (ex 7 5 w)) (ex 4 3 w) (ex 2 2 w) (bitOf (ex 1 1 w))) w
  | 0x6 => ifFields (ex 0 4 w == 0#4) (.fmin (srcOf (ex 18 6 w)) (srcOf (ex 12 6 w)) (dstOf (ex 7 5 w)) (ex 4 3 w)) w
  | 0x7 => ifFields (ex 0 4 w == 0#4) (.fmax (srcOf (ex 18 6 w)) (srcOf (ex 12 6 w)) (dstOf (ex 7 5 w)) (ex 4 3 w)) w
  | 0x8 => ifFields (ex 0 2 w == 0#2) (.fsgn (srcOf (ex 18 6 w)) (srcOf (ex 12 6 w)) (dstOf (ex 7 5 w)) (ex 4 3 w) (ex 2 2 w)) w
  | 0x9 => ifFields (ex 0 1 w == 0#1) (.fhsum (srcOf (ex 18 6 w)) (srcOf (ex 12 6 w)) (dstOf (ex 7 5 w)) (ex 4 3 w) (ex 2 2 w) (bitOf (ex 1 1 w))) w
  | 0xA => ifFields (true) (.pdot (srcOf (ex 18 6 w)) (srcOf (ex 12 6 w)) (dstOf (ex 7 5 w)) (ex 3 4 w) (bitOf (ex 2 1 w)) (ex 0 2 w)) w
  | 0xB => ifFields (ex 0 1 w == 0#1) (.fscl (srcOf (ex 18 6 w)) (srcOf (ex 12 6 w)) (dstOf (ex 7 5 w)) (ex 4 3 w) (ex 2 2 w) (bitOf (ex 1 1 w))) w
  | 0xC => ifFields (ex 12 6 w == 0#6 && ex 0 1 w == 0#1) (.frcp (srcOf (ex 18 6 w)) (dstOf (ex 7 5 w)) (ex 4 3 w) (ex 2 2 w) (bitOf (ex 1 1 w))) w
  | 0xD => ifFields (ex 12 6 w == 0#6 && ex 0 1 w == 0#1) (.frsq (srcOf (ex 18 6 w)) (dstOf (ex 7 5 w)) (ex 4 3 w) (ex 2 2 w) (bitOf (ex 1 1 w))) w
  | 0xE => ifFields (ex 12 6 w == 0#6 && ex 0 1 w == 0#1) (.fexp2 (srcOf (ex 18 6 w)) (dstOf (ex 7 5 w)) (ex 4 3 w) (ex 2 2 w) (bitOf (ex 1 1 w))) w
  | 0xF => ifFields (ex 12 6 w == 0#6 && ex 0 2 w == 0#2) (.fround (srcOf (ex 18 6 w)) (dstOf (ex 7 5 w)) (ex 4 3 w) (ex 2 2 w)) w
  | _ => .illegalOpcode w

/-- Words whose OP is 0x50–0x5F. -/
def decode5 (lo : Nat) (w : BitVec 32) : Instr :=
  match lo with
  | 0x0 => ifFields (ex 0 1 w == 0#1) (.fcmp (srcOf (ex 18 6 w)) (srcOf (ex 12 6 w)) (dstOf (ex 7 5 w)) (ex 4 3 w) (ex 1 3 w)) w
  | 0x1 => ifFields (ex 12 6 w == 0#6 && ex 0 4 w == 0#4) (.fclass (srcOf (ex 18 6 w)) (dstOf (ex 7 5 w)) (ex 4 3 w)) w
  | 0x2 => ifFields (true) (.cvt (srcOf (ex 18 6 w)) (ex 15 3 w) (ex 12 3 w) (dstOf (ex 7 5 w)) (ex 4 3 w) (ex 2 2 w) (bitOf (ex 1 1 w)) (bitOf (ex 0 1 w))) w
  | 0x3 => ifFields (ex 13 5 w == 0#5 && ex 0 2 w == 0#2) (.cvti (srcOf (ex 18 6 w)) (bitOf (ex 12 1 w)) (dstOf (ex 7 5 w)) (ex 4 3 w) (ex 2 2 w)) w
  | 0x4 => ifFields (ex 13 5 w == 0#5 && ex 0 2 w == 0#2) (.cvtf (srcOf (ex 18 6 w)) (bitOf (ex 12 1 w)) (dstOf (ex 7 5 w)) (ex 4 3 w) (ex 2 2 w)) w
  | 0x5 => ifFields (ex 15 3 w == 0#3 && ex 0 7 w == 0#7) (.cvtx (srcOf (ex 18 6 w)) (bitOf (ex 14 1 w)) (ex 12 2 w) (dstOf (ex 7 5 w))) w
  | 0x6 => ifFields (ex 0 1 w == 0#1) (.pperm (srcOf (ex 18 6 w)) (srcOf (ex 12 6 w)) (dstOf (ex 7 5 w)) (srcOf (ex 1 6 w))) w
  | 0x7 => ifFields (true) (.ppack (srcOf (ex 18 6 w)) (srcOf (ex 12 6 w)) (dstOf (ex 7 5 w)) (ex 4 3 w) (ex 2 2 w) (bitOf (ex 1 1 w)) (bitOf (ex 0 1 w))) w
  | 0x8 => ifFields (ex 12 6 w == 0#6 && ex 2 2 w == 0#2) (.punpk (srcOf (ex 18 6 w)) (dstOf (ex 7 5 w)) (ex 4 3 w) (bitOf (ex 1 1 w)) (bitOf (ex 0 1 w))) w
  | 0x9 => ifFields (ex 0 7 w == 0#7) (.wsadd (srcOf (ex 18 6 w)) (srcOf (ex 12 6 w)) (dstOf (ex 7 5 w))) w
  | 0xA => ifFields (ex 2 5 w == 0#5) (.wsscl (srcOf (ex 18 6 w)) (srcOf (ex 12 6 w)) (dstOf (ex 7 5 w)) (ex 0 2 w)) w
  | 0xB => ifFields (true) (.wsrnd (srcOf (ex 18 6 w)) (srcOf (ex 12 6 w)) (dstOf (ex 7 5 w)) (ex 4 3 w) (ex 2 2 w) (bitOf (ex 1 1 w)) (bitOf (ex 0 1 w))) w
  | 0xC => ifFields (ex 6 1 w == 0#1) (.pint (srcOf (ex 18 6 w)) (srcOf (ex 12 6 w)) (dstOf (ex 7 5 w)) (bitOf (ex 5 1 w)) (bitOf (ex 4 1 w)) (bitOf (ex 3 1 w)) (ex 0 3 w)) w
  | 0xD => ifFields (ex 3 4 w == 0#4) (.pdoti (srcOf (ex 18 6 w)) (srcOf (ex 12 6 w)) (dstOf (ex 7 5 w)) (bitOf (ex 2 1 w)) (bitOf (ex 1 1 w)) (bitOf (ex 0 1 w))) w
  | _ => .illegalOpcode w

/-- Words whose OP is 0x60–0x6F. -/
def decode6 (lo : Nat) (w : BitVec 32) : Instr :=
  match lo with
  | 0x0 => ifFields (ex 17 1 w == 0#1) (.ld (srcOf (ex 18 6 w)) (dstOf (ex 12 5 w)) (ex 10 2 w) (ex 8 2 w) (ex 0 8 w)) w
  | 0x1 => ifFields (true) (.st (srcOf (ex 18 6 w)) (srcOf (ex 12 6 w)) (ex 10 2 w) (ex 8 2 w) (ex 0 8 w)) w
  | 0x2 => ifFields (ex 17 1 w == 0#1 && ex 10 2 w == 3#2) (.ldp (srcOf (ex 18 6 w)) (dstOf (ex 12 5 w)) (ex 8 2 w) (ex 0 8 w)) w
  | 0x3 => ifFields (ex 10 2 w == 3#2) (.stp (srcOf (ex 18 6 w)) (srcOf (ex 12 6 w)) (ex 8 2 w) (ex 0 8 w)) w
  | 0x4 => ifFields (ex 17 1 w == 0#1 && ex 8 4 w == 12#4) (.tagr (srcOf (ex 18 6 w)) (dstOf (ex 12 5 w)) (ex 0 8 w)) w
  | 0x5 => ifFields (ex 8 4 w == 12#4) (.tagw (srcOf (ex 18 6 w)) (srcOf (ex 12 6 w)) (ex 0 8 w)) w
  | 0x6 => ifFields (ex 12 6 w == 0#6 && ex 8 2 w == 0#2) (.touch (srcOf (ex 18 6 w)) (ex 10 2 w) (ex 0 8 w)) w
  | 0x7 => ifFields (ex 17 1 w == 0#1) (.ldm (srcOf (ex 18 6 w)) (dstOf (ex 12 5 w)) (ex 10 2 w) (ex 8 2 w) (ex 0 8 w)) w
  | 0x8 => ifFields (true) (.stm (srcOf (ex 18 6 w)) (srcOf (ex 12 6 w)) (ex 10 2 w) (ex 8 2 w) (ex 0 8 w)) w
  | _ => .illegalOpcode w

/-- Words whose OP is 0x70–0x7F. -/
def decode7 (lo : Nat) (w : BitVec 32) : Instr :=
  match lo with
  | 0x0 => ifFields (ex 7 5 w == 0#5) (.amo (srcOf (ex 18 6 w)) (srcOf (ex 12 6 w)) (ex 3 4 w) (bitOf (ex 2 1 w)) (bitOf (ex 1 1 w)) (bitOf (ex 0 1 w))) w
  | 0x1 => ifFields (true) (.amor (srcOf (ex 18 6 w)) (srcOf (ex 12 6 w)) (dstOf (ex 7 5 w)) (ex 3 4 w) (bitOf (ex 2 1 w)) (bitOf (ex 1 1 w)) (bitOf (ex 0 1 w))) w
  | 0x2 => ifFields (ex 7 5 w == 0#5) (.amod (srcOf (ex 18 6 w)) (srcOf (ex 12 6 w)) (ex 3 4 w) (bitOf (ex 2 1 w)) (bitOf (ex 1 1 w)) (bitOf (ex 0 1 w))) w
  | 0x3 => ifFields (ex 5 2 w == 0#2 && ex 3 1 w == 0#1) (.cas (srcOf (ex 18 6 w)) (srcOf (ex 12 6 w)) (dstOf (ex 7 5 w)) (bitOf (ex 4 1 w)) (bitOf (ex 2 1 w)) (bitOf (ex 1 1 w)) (bitOf (ex 0 1 w))) w
  | 0x4 => ifFields (ex 7 5 w == 0#5 && ex 0 1 w == 0#1) (.putsig (srcOf (ex 18 6 w)) (srcOf (ex 12 6 w)) (srcOf (ex 1 6 w))) w
  | 0x5 => ifFields (ex 7 5 w == 0#5 && ex 0 1 w == 0#1) (.putsig2 (srcOf (ex 18 6 w)) (srcOf (ex 12 6 w)) (srcOf (ex 1 6 w))) w
  | 0x6 => ifFields (ex 0 12 w == 0#12) (.arm (srcOf (ex 18 6 w)) (srcOf (ex 12 6 w))) w
  | 0x7 => ifFields (true) (.waitg (srcOf (ex 18 6 w)) (srcOf (ex 12 6 w)) (dstOf (ex 7 5 w)) (ex 0 7 w)) w
  | 0x8 => ifFields (true) (.waitm (srcOf (ex 18 6 w)) (srcOf (ex 12 6 w)) (dstOf (ex 7 5 w)) (ex 0 7 w)) w
  | 0x9 => ifFields (true) (.waitc (ex 18 6 w) (ex 12 6 w) (ex 6 6 w) (ex 0 6 w)) w
  | 0xA => ifFields (true) (.waitt (srcOf (ex 18 6 w)) (srcOf (ex 12 6 w)) (dstOf (ex 7 5 w)) (ex 0 7 w)) w
  | 0xB => ifFields (ex 7 11 w == 0#11) (.bar (srcOf (ex 18 6 w)) (ex 0 7 w)) w
  | 0xC => ifFields (ex 7 11 w == 0#11) (.barg (srcOf (ex 18 6 w)) (ex 0 7 w)) w
  | 0xD => ifFields (ex 0 12 w == 0#12) (.sig (srcOf (ex 18 6 w)) (srcOf (ex 12 6 w))) w
  | _ => .illegalOpcode w

/-- Words whose OP is 0x80–0x8F. -/
def decode8 (lo : Nat) (w : BitVec 32) : Instr :=
  match lo with
  | 0x0 => ifFields (ex 12 6 w == 0#6) (.qres (srcOf (ex 18 6 w)) (dstOf (ex 7 5 w)) (ex 0 7 w)) w
  | 0x1 => ifFields (ex 0 18 w == 0#18) (.qpub (srcOf (ex 18 6 w))) w
  | 0x2 => ifFields (ex 12 6 w == 0#6) (.qpop (srcOf (ex 18 6 w)) (dstOf (ex 7 5 w)) (ex 0 7 w)) w
  | 0x3 => ifFields (ex 0 18 w == 0#18) (.qrel (srcOf (ex 18 6 w))) w
  | 0x4 => ifFields (true) (.qpush (srcOf (ex 18 6 w)) (srcOf (ex 12 6 w)) (dstOf (ex 7 5 w)) (ex 0 7 w)) w
  | 0x5 => ifFields (ex 12 6 w == 0#6 && ex 0 7 w == 0#7) (.qinfo (srcOf (ex 18 6 w)) (dstOf (ex 7 5 w))) w
  | 0x6 => ifFields (ex 0 18 w == 0#18) (.qclose (srcOf (ex 18 6 w))) w
  | _ => .illegalOpcode w

/-- Words whose OP is 0x90–0x9F. -/
def decode9 (lo : Nat) (w : BitVec 32) : Instr :=
  match lo with
  | 0x0 => ifFields (ex 3 4 w == 0#4) (.tmm (srcOf (ex 18 6 w)) (srcOf (ex 12 6 w)) (dstOf (ex 7 5 w)) (bitOf (ex 2 1 w)) (ex 0 2 w)) w
  | 0x1 => ifFields (ex 18 6 w == 0#6 && ex 2 5 w == 0#5) (.tzero (srcOf (ex 12 6 w)) (dstOf (ex 7 5 w)) (ex 0 2 w)) w
  | 0x2 => ifFields (ex 2 5 w == 0#5) (.tst (srcOf (ex 18 6 w)) (srcOf (ex 12 6 w)) (dstOf (ex 7 5 w)) (ex 0 2 w)) w
  | 0x3 => ifFields (ex 2 5 w == 0#5) (.tred (srcOf (ex 18 6 w)) (srcOf (ex 12 6 w)) (dstOf (ex 7 5 w)) (ex 0 2 w)) w
  | 0x4 => ifFields (ex 2 5 w == 0#5) (.tws (srcOf (ex 18 6 w)) (srcOf (ex 12 6 w)) (dstOf (ex 7 5 w)) (ex 0 2 w)) w
  | 0x5 => ifFields (ex 2 5 w == 0#5) (.twsl (srcOf (ex 18 6 w)) (srcOf (ex 12 6 w)) (dstOf (ex 7 5 w)) (ex 0 2 w)) w
  | 0x6 => ifFields (ex 0 12 w == 0#12) (.tcfg (srcOf (ex 18 6 w)) (srcOf (ex 12 6 w))) w
  | 0x7 => ifFields (ex 12 6 w == 0#6 && ex 0 7 w == 0#7) (.tcmd (srcOf (ex 18 6 w)) (dstOf (ex 7 5 w))) w
  | 0x8 => ifFields (ex 2 5 w == 0#5) (.tld (srcOf (ex 18 6 w)) (srcOf (ex 12 6 w)) (dstOf (ex 7 5 w)) (ex 0 2 w)) w
  | 0x9 => ifFields (ex 2 5 w == 0#5) (.tacc (srcOf (ex 18 6 w)) (srcOf (ex 12 6 w)) (dstOf (ex 7 5 w)) (ex 0 2 w)) w
  | _ => .illegalOpcode w

/-- Words whose OP is 0xA0–0xAF. -/
def decodeA (lo : Nat) (w : BitVec 32) : Instr :=
  match lo with
  | 0x0 => ifFields (ex 0 7 w == 0#7) (.ecmd (srcOf (ex 18 6 w)) (srcOf (ex 12 6 w)) (dstOf (ex 7 5 w))) w
  | 0x1 => ifFields (ex 12 6 w == 0#6 && ex 0 7 w == 0#7) (.chain (srcOf (ex 18 6 w)) (dstOf (ex 7 5 w))) w
  | 0x2 => ifFields (ex 0 7 w == 0#7) (.cstat (srcOf (ex 18 6 w)) (srcOf (ex 12 6 w)) (dstOf (ex 7 5 w))) w
  | 0x3 => ifFields (ex 12 12 w == 0#12 && ex 0 7 w == 0#7) (.ccan (dstOf (ex 7 5 w))) w
  | _ => .illegalOpcode w

/-- Words whose OP is 0xB0–0xBF. -/
def decodeB (lo : Nat) (w : BitVec 32) : Instr :=
  match lo with
  | 0x0 => ifFields (ex 0 12 w == 0#12) (.send (srcOf (ex 18 6 w)) (srcOf (ex 12 6 w))) w
  | 0x1 => ifFields (ex 0 12 w == 0#12) (.sendb (srcOf (ex 18 6 w)) (srcOf (ex 12 6 w))) w
  | 0x2 => ifFields (ex 0 12 w == 0#12) (.sendi (srcOf (ex 18 6 w)) (srcOf (ex 12 6 w))) w
  | 0x3 => ifFields (ex 12 6 w == 0#6 && ex 0 7 w == 0#7) (.cmask (srcOf (ex 18 6 w)) (dstOf (ex 7 5 w))) w
  | 0x4 => ifFields (ex 12 6 w == 0#6 && ex 0 7 w == 0#7) (.cunm (srcOf (ex 18 6 w)) (dstOf (ex 7 5 w))) w
  | 0x5 => ifFields (ex 0 24 w == 0#24) (.hret ) w
  | 0x6 => ifFields (ex 12 6 w == 0#6 && ex 0 7 w == 0#7) (.rdin (srcOf (ex 18 6 w)) (dstOf (ex 7 5 w))) w
  | 0x7 => ifFields (ex 0 12 w == 0#12) (.redn (srcOf (ex 18 6 w)) (srcOf (ex 12 6 w))) w
  | 0x8 => ifFields (true) (.sendw (srcOf (ex 18 6 w)) (srcOf (ex 12 6 w)) (dstOf (ex 7 5 w)) (ex 0 7 w)) w
  | _ => .illegalOpcode w

/-- Words whose OP is 0xC0–0xCF. -/
def decodeC (lo : Nat) (w : BitVec 32) : Instr :=
  match lo with
  | 0x0 => ifFields (ex 0 12 w == 0#12) (.spawn (srcOf (ex 18 6 w)) (srcOf (ex 12 6 w))) w
  | 0x1 => ifFields (ex 12 12 w == 0#12 && ex 0 7 w == 0#7) (.take (dstOf (ex 7 5 w))) w
  | 0x2 => ifFields (ex 0 24 w == 0#24) (.done ) w
  | 0x3 => ifFields (ex 13 11 w == 0#11) (.yield (ex 0 13 w)) w
  | 0x4 => ifFields (ex 12 6 w == 0#6 && ex 0 7 w == 0#7) (.launch (srcOf (ex 18 6 w)) (dstOf (ex 7 5 w))) w
  | 0x5 => ifFields (ex 12 6 w == 0#6 && ex 0 7 w == 0#7) (.tready (srcOf (ex 18 6 w)) (dstOf (ex 7 5 w))) w
  | 0x6 =>
    match (ex 0 3 w).toNat with
    | 0 => ifFields (ex 3 4 w == 0#4) (.stagePut (srcOf (ex 18 6 w)) (srcOf (ex 12 6 w)) (dstOf (ex 7 5 w))) w
    | 1 => ifFields (ex 3 4 w == 0#4) (.stageTwin (srcOf (ex 18 6 w)) (srcOf (ex 12 6 w)) (dstOf (ex 7 5 w))) w
    | 2 => ifFields (ex 3 4 w == 0#4) (.stageMerge (srcOf (ex 18 6 w)) (srcOf (ex 12 6 w)) (dstOf (ex 7 5 w))) w
    | 3 => ifFields (ex 12 6 w == 0#6 && ex 3 4 w == 0#4) (.stageInfo (srcOf (ex 18 6 w)) (dstOf (ex 7 5 w))) w
    | 4 => ifFields (ex 7 11 w == 0#11 && ex 3 4 w == 0#4) (.stageClose (srcOf (ex 18 6 w))) w
    | _ => .reservedField w
  | 0x7 => ifFields (ex 12 12 w == 0#12 && ex 3 4 w == 0#4) (.gid (dstOf (ex 7 5 w)) (ex 0 3 w)) w
  | 0x8 => ifFields (ex 12 6 w == 0#6) (.qdie (srcOf (ex 18 6 w)) (dstOf (ex 7 5 w)) (ex 0 7 w)) w
  | 0x9 => ifFields (ex 12 12 w == 0#12 && ex 0 7 w == 0#7) (.tcbq (dstOf (ex 7 5 w))) w
  | _ => .illegalOpcode w

/-- Words whose OP is 0xD0–0xDF. -/
def decodeD (lo : Nat) (w : BitVec 32) : Instr :=
  match lo with
  | 0x0 => ifFields (ex 18 6 w == 0#6 && ex 12 1 w == 0#1) (.getc (dstOf (ex 13 5 w)) (ex 0 12 w)) w
  | 0x1 => ifFields (ex 12 6 w == 0#6) (.setc (srcOf (ex 18 6 w)) (ex 0 12 w)) w
  | 0x2 => ifFields (ex 12 1 w == 0#1) (.swpc (srcOf (ex 18 6 w)) (dstOf (ex 13 5 w)) (ex 0 12 w)) w
  | 0x3 => ifFields (true) (.setcb (srcOf (ex 18 6 w)) (dstOf (ex 13 5 w)) (bitOf (ex 12 1 w)) (ex 0 12 w)) w
  | 0x4 => if ex 0 18 w == 0x00F01#18 then .resumeTeam (srcOf (ex 18 6 w)) else
    ifFields (ex 12 6 w == 0#6) (.sys (srcOf (ex 18 6 w)) (ex 0 12 w)) w
  | 0x5 => ifFields (ex 1 23 w == 0#23) (.tret (bitOf (ex 0 1 w))) w
  | 0x6 => ifFields (ex 0 18 w == 0#18) (.halt (srcOf (ex 18 6 w))) w
  | 0x7 => ifFields (ex 0 24 w == 0#24) (.nop ) w
  | 0x8 => ifFields (ex 0 12 w == 0#12) (.xinv (srcOf (ex 18 6 w)) (srcOf (ex 12 6 w))) w
  | 0x9 => ifFields (ex 12 6 w == 0#6 && ex 0 7 w == 0#7) (.xprobe (srcOf (ex 18 6 w)) (dstOf (ex 7 5 w))) w
  | 0xA => ifFields (ex 12 6 w == 0#6 && ex 2 5 w == 0#5) (.stamp (srcOf (ex 18 6 w)) (dstOf (ex 7 5 w)) (ex 0 2 w)) w
  | 0xB => ifFields (ex 12 12 w == 0#12 && ex 1 6 w == 0#6) (.cyc (dstOf (ex 7 5 w)) (bitOf (ex 0 1 w))) w
  | 0xC => ifFields (ex 13 11 w == 0#11) (.ebreak (ex 0 13 w)) w
  | 0xD => ifFields (ex 0 24 w == 0#24) (.rfill ) w
  | 0xE => ifFields (ex 2 22 w == 0#22) (.gate (ex 0 2 w)) w
  | _ => .illegalOpcode w

/-- The instruction that a 32-bit word holds (R40, R48, R61–R63). -/
def decodeWord (w : BitVec 32) : Instr :=
  match (ex 28 4 w).toNat with
  | 0x0 => decode0 (ex 24 4 w).toNat w
  | 0x1 => decode1 (ex 24 4 w).toNat w
  | 0x2 => decode2 (ex 24 4 w).toNat w
  | 0x3 => decode3 (ex 24 4 w).toNat w
  | 0x4 => decode4 (ex 24 4 w).toNat w
  | 0x5 => decode5 (ex 24 4 w).toNat w
  | 0x6 => decode6 (ex 24 4 w).toNat w
  | 0x7 => decode7 (ex 24 4 w).toNat w
  | 0x8 => decode8 (ex 24 4 w).toNat w
  | 0x9 => decode9 (ex 24 4 w).toNat w
  | 0xA => decodeA (ex 24 4 w).toNat w
  | 0xB => decodeB (ex 24 4 w).toNat w
  | 0xC => decodeC (ex 24 4 w).toNat w
  | 0xD => decodeD (ex 24 4 w).toNat w
  | _ => .illegalOpcode w

/-- Why a byte sequence holds no instruction word. -/
inductive DecodeError where
  /-- Fewer than four bytes are left (R40). -/
  | truncated
  deriving DecidableEq, Repr

/-- The 32-bit word of four bytes, little-endian (R3, R40). -/
def wordOfBytes (b0 b1 b2 b3 : Byte) : BitVec 32 := b3 ++ b2 ++ b1 ++ b0

/-- The four bytes of a 32-bit word, at increasing addresses (R3). -/
def bytesOfWord (w : BitVec 32) : List Byte := [ex 0 8 w, ex 8 8 w, ex 16 8 w, ex 24 8 w]

/-- Decodes the first instruction word of a byte sequence and gives the bytes left. -/
def decode : List Byte → Except DecodeError (Instr × List Byte)
  | b0 :: b1 :: b2 :: b3 :: rest => .ok (decodeWord (wordOfBytes b0 b1 b2 b3), rest)
  | _ => .error .truncated

/-- The word of an instruction; none for the device's other steps, which have no encoding. -/
def encodeWord : Instr → Option (BitVec 32)
  | .add a b d w => some (0x00#8 ++ srcBits a ++ srcBits b ++ dstBits d ++ 0#6 ++ BitVec.ofBool w)
  | .sub a b d w => some (0x01#8 ++ srcBits a ++ srcBits b ++ dstBits d ++ 0#6 ++ BitVec.ofBool w)
  | .and a b d w => some (0x02#8 ++ srcBits a ++ srcBits b ++ dstBits d ++ 0#6 ++ BitVec.ofBool w)
  | .or a b d w => some (0x03#8 ++ srcBits a ++ srcBits b ++ dstBits d ++ 0#6 ++ BitVec.ofBool w)
  | .xor a b d w => some (0x04#8 ++ srcBits a ++ srcBits b ++ dstBits d ++ 0#6 ++ BitVec.ofBool w)
  | .andn a b d w => some (0x05#8 ++ srcBits a ++ srcBits b ++ dstBits d ++ 0#6 ++ BitVec.ofBool w)
  | .sll a b d w => some (0x06#8 ++ srcBits a ++ srcBits b ++ dstBits d ++ 0#6 ++ BitVec.ofBool w)
  | .srl a b d w => some (0x07#8 ++ srcBits a ++ srcBits b ++ dstBits d ++ 0#6 ++ BitVec.ofBool w)
  | .sra a b d w => some (0x08#8 ++ srcBits a ++ srcBits b ++ dstBits d ++ 0#6 ++ BitVec.ofBool w)
  | .rol a b d w => some (0x09#8 ++ srcBits a ++ srcBits b ++ dstBits d ++ 0#6 ++ BitVec.ofBool w)
  | .min a b d w => some (0x0A#8 ++ srcBits a ++ srcBits b ++ dstBits d ++ 0#6 ++ BitVec.ofBool w)
  | .max a b d w => some (0x0B#8 ++ srcBits a ++ srcBits b ++ dstBits d ++ 0#6 ++ BitVec.ofBool w)
  | .minu a b d w => some (0x0C#8 ++ srcBits a ++ srcBits b ++ dstBits d ++ 0#6 ++ BitVec.ofBool w)
  | .maxu a b d w => some (0x0D#8 ++ srcBits a ++ srcBits b ++ dstBits d ++ 0#6 ++ BitVec.ofBool w)
  | .slt a b d w => some (0x0E#8 ++ srcBits a ++ srcBits b ++ dstBits d ++ 0#6 ++ BitVec.ofBool w)
  | .sltu a b d w => some (0x0F#8 ++ srcBits a ++ srcBits b ++ dstBits d ++ 0#6 ++ BitVec.ofBool w)
  | .mul a b d w => some (0x10#8 ++ srcBits a ++ srcBits b ++ dstBits d ++ 0#6 ++ BitVec.ofBool w)
  | .mulh a b d w => some (0x11#8 ++ srcBits a ++ srcBits b ++ dstBits d ++ 0#6 ++ BitVec.ofBool w)
  | .mulhu a b d w => some (0x12#8 ++ srcBits a ++ srcBits b ++ dstBits d ++ 0#6 ++ BitVec.ofBool w)
  | .div a b d w => some (0x13#8 ++ srcBits a ++ srcBits b ++ dstBits d ++ 0#6 ++ BitVec.ofBool w)
  | .divu a b d w => some (0x14#8 ++ srcBits a ++ srcBits b ++ dstBits d ++ 0#6 ++ BitVec.ofBool w)
  | .rem a b d w => some (0x15#8 ++ srcBits a ++ srcBits b ++ dstBits d ++ 0#6 ++ BitVec.ofBool w)
  | .remu a b d w => some (0x16#8 ++ srcBits a ++ srcBits b ++ dstBits d ++ 0#6 ++ BitVec.ofBool w)
  | .bitc a d o w => some (0x17#8 ++ srcBits a ++ 0#6 ++ dstBits d ++ 0#3 ++ o ++ BitVec.ofBool w)
  | .addi a d i => some (0x18#8 ++ srcBits a ++ dstBits d ++ i)
  | .andi a d i => some (0x19#8 ++ srcBits a ++ dstBits d ++ i)
  | .ori a d i => some (0x1A#8 ++ srcBits a ++ dstBits d ++ i)
  | .xori a d i => some (0x1B#8 ++ srcBits a ++ dstBits d ++ i)
  | .slli a d i => some (0x1C#8 ++ srcBits a ++ dstBits d ++ 0#7 ++ i)
  | .srli a d i => some (0x1D#8 ++ srcBits a ++ dstBits d ++ 0#7 ++ i)
  | .srai a d i => some (0x1E#8 ++ srcBits a ++ dstBits d ++ 0#7 ++ i)
  | .slti a d i => some (0x1F#8 ++ srcBits a ++ dstBits d ++ i)
  | .ldk d i => some (0x20#8 ++ dstBits d ++ i)
  | .ldkx a d i => some (0x21#8 ++ srcBits a ++ dstBits d ++ i)
  | .extf a d w z => some (0x22#8 ++ srcBits a ++ 0#6 ++ dstBits d ++ w ++ BitVec.ofBool z)
  | .ins a b d w => some (0x23#8 ++ srcBits a ++ srcBits b ++ dstBits d ++ w ++ 0#1)
  | .bfx a b d w z => some (0x24#8 ++ srcBits a ++ srcBits b ++ dstBits d ++ w ++ BitVec.ofBool z)
  | .sel a b d c => some (0x25#8 ++ srcBits a ++ srcBits b ++ dstBits d ++ srcBits c ++ 0#1)
  | .keep a d p => some (0x26#8 ++ srcBits a ++ 0#6 ++ dstBits d ++ 0#6 ++ BitVec.ofBool p)
  | .seq a b d w => some (0x27#8 ++ srcBits a ++ srcBits b ++ dstBits d ++ 0#6 ++ BitVec.ofBool w)
  | .sne a b d w => some (0x28#8 ++ srcBits a ++ srcBits b ++ dstBits d ++ 0#6 ++ BitVec.ofBool w)
  | .addc a b d c w => some (0x29#8 ++ srcBits a ++ srcBits b ++ dstBits d ++ srcBits c ++ BitVec.ofBool w)
  | .subc a b d c w => some (0x2A#8 ++ srcBits a ++ srcBits b ++ dstBits d ++ srcBits c ++ BitVec.ofBool w)
  | .clamp a b d c u => some (0x2B#8 ++ srcBits a ++ srcBits b ++ dstBits d ++ srcBits c ++ BitVec.ofBool u)
  | .br a b n o => some (0x30#8 ++ srcBits a ++ srcBits b ++ n ++ o)
  | .jmp o => some (0x31#8 ++ o)
  | .call o => some (0x32#8 ++ o)
  | .jr a => some (0x33#8 ++ srcBits a ++ 0#18)
  | .callr a => some (0x34#8 ++ srcBits a ++ 0#18)
  | .loop a o => some (0x35#8 ++ srcBits a ++ 0#9 ++ o)
  | .loopi n o => some (0x36#8 ++ n ++ 0#3 ++ o)
  | .brk o => some (0x37#8 ++ o)
  | .fadd a b d f r s => some (0x40#8 ++ srcBits a ++ srcBits b ++ dstBits d ++ f ++ r ++ BitVec.ofBool s ++ 0#1)
  | .fsub a b d f r s => some (0x41#8 ++ srcBits a ++ srcBits b ++ dstBits d ++ f ++ r ++ BitVec.ofBool s ++ 0#1)
  | .fmul a b d f r s => some (0x42#8 ++ srcBits a ++ srcBits b ++ dstBits d ++ f ++ r ++ BitVec.ofBool s ++ 0#1)
  | .fma a b d f r s => some (0x43#8 ++ srcBits a ++ srcBits b ++ dstBits d ++ f ++ r ++ BitVec.ofBool s ++ 0#1)
  | .fdiv a b d f r s => some (0x44#8 ++ srcBits a ++ srcBits b ++ dstBits d ++ f ++ r ++ BitVec.ofBool s ++ 0#1)
  | .fsqrt a d f r s => some (0x45#8 ++ srcBits a ++ 0#6 ++ dstBits d ++ f ++ r ++ BitVec.ofBool s ++ 0#1)
  | .fmin a b d f => some (0x46#8 ++ srcBits a ++ srcBits b ++ dstBits d ++ f ++ 0#4)
  | .fmax a b d f => some (0x47#8 ++ srcBits a ++ srcBits b ++ dstBits d ++ f ++ 0#4)
  | .fsgn a b d f o => some (0x48#8 ++ srcBits a ++ srcBits b ++ dstBits d ++ f ++ o ++ 0#2)
  | .fhsum a b d f r s => some (0x49#8 ++ srcBits a ++ srcBits b ++ dstBits d ++ f ++ r ++ BitVec.ofBool s ++ 0#1)
  | .pdot a b d c u s => some (0x4A#8 ++ srcBits a ++ srcBits b ++ dstBits d ++ c ++ BitVec.ofBool u ++ s)
  | .fscl a b d f r s => some (0x4B#8 ++ srcBits a ++ srcBits b ++ dstBits d ++ f ++ r ++ BitVec.ofBool s ++ 0#1)
  | .frcp a d f r s => some (0x4C#8 ++ srcBits a ++ 0#6 ++ dstBits d ++ f ++ r ++ BitVec.ofBool s ++ 0#1)
  | .frsq a d f r s => some (0x4D#8 ++ srcBits a ++ 0#6 ++ dstBits d ++ f ++ r ++ BitVec.ofBool s ++ 0#1)
  | .fexp2 a d f r s => some (0x4E#8 ++ srcBits a ++ 0#6 ++ dstBits d ++ f ++ r ++ BitVec.ofBool s ++ 0#1)
  | .fround a d f r => some (0x4F#8 ++ srcBits a ++ 0#6 ++ dstBits d ++ f ++ r ++ 0#2)
  | .fcmp a b d f p => some (0x50#8 ++ srcBits a ++ srcBits b ++ dstBits d ++ f ++ p ++ 0#1)
  | .fclass a d f => some (0x51#8 ++ srcBits a ++ 0#6 ++ dstBits d ++ f ++ 0#4)
  | .cvt a p s d f r t q => some (0x52#8 ++ srcBits a ++ p ++ s ++ dstBits d ++ f ++ r ++ BitVec.ofBool t ++ BitVec.ofBool q)
  | .cvti a u d f r => some (0x53#8 ++ srcBits a ++ 0#5 ++ BitVec.ofBool u ++ dstBits d ++ f ++ r ++ 0#2)
  | .cvtf a u d f r => some (0x54#8 ++ srcBits a ++ 0#5 ++ BitVec.ofBool u ++ dstBits d ++ f ++ r ++ 0#2)
  | .cvtx a p k d => some (0x55#8 ++ srcBits a ++ 0#3 ++ BitVec.ofBool p ++ k ++ dstBits d ++ 0#7)
  | .pperm a b d c => some (0x56#8 ++ srcBits a ++ srcBits b ++ dstBits d ++ srcBits c ++ 0#1)
  | .ppack a b d f r s x => some (0x57#8 ++ srcBits a ++ srcBits b ++ dstBits d ++ f ++ r ++ BitVec.ofBool s ++ BitVec.ofBool x)
  | .punpk a d f x h => some (0x58#8 ++ srcBits a ++ 0#6 ++ dstBits d ++ f ++ 0#2 ++ BitVec.ofBool x ++ BitVec.ofBool h)
  | .wsadd a b d => some (0x59#8 ++ srcBits a ++ srcBits b ++ dstBits d ++ 0#7)
  | .wsscl a b d s => some (0x5A#8 ++ srcBits a ++ srcBits b ++ dstBits d ++ 0#5 ++ s)
  | .wsrnd a b d f r s t => some (0x5B#8 ++ srcBits a ++ srcBits b ++ dstBits d ++ f ++ r ++ BitVec.ofBool s ++ BitVec.ofBool t)
  | .pint a b d w u s o => some (0x5C#8 ++ srcBits a ++ srcBits b ++ dstBits d ++ 0#1 ++ BitVec.ofBool w ++ BitVec.ofBool u ++ BitVec.ofBool s ++ o)
  | .pdoti a b d y x w => some (0x5D#8 ++ srcBits a ++ srcBits b ++ dstBits d ++ 0#4 ++ BitVec.ofBool y ++ BitVec.ofBool x ++ BitVec.ofBool w)
  | .ld a d z t o => some (0x60#8 ++ srcBits a ++ 0#1 ++ dstBits d ++ z ++ t ++ o)
  | .st a b z t o => some (0x61#8 ++ srcBits a ++ srcBits b ++ z ++ t ++ o)
  | .ldp a d t o => some (0x62#8 ++ srcBits a ++ 0#1 ++ dstBits d ++ 3#2 ++ t ++ o)
  | .stp a b t o => some (0x63#8 ++ srcBits a ++ srcBits b ++ 3#2 ++ t ++ o)
  | .tagr a d o => some (0x64#8 ++ srcBits a ++ 0#1 ++ dstBits d ++ 12#4 ++ o)
  | .tagw a b o => some (0x65#8 ++ srcBits a ++ srcBits b ++ 12#4 ++ o)
  | .touch a z o => some (0x66#8 ++ srcBits a ++ 0#6 ++ z ++ 0#2 ++ o)
  | .ldm a d z t o => some (0x67#8 ++ srcBits a ++ 0#1 ++ dstBits d ++ z ++ t ++ o)
  | .stm a b z t o => some (0x68#8 ++ srcBits a ++ srcBits b ++ z ++ t ++ o)
  | .amo a b p z s q => some (0x70#8 ++ srcBits a ++ srcBits b ++ 0#5 ++ p ++ BitVec.ofBool z ++ BitVec.ofBool s ++ BitVec.ofBool q)
  | .amor a b d p z s q => some (0x71#8 ++ srcBits a ++ srcBits b ++ dstBits d ++ p ++ BitVec.ofBool z ++ BitVec.ofBool s ++ BitVec.ofBool q)
  | .amod a b p z s q => some (0x72#8 ++ srcBits a ++ srcBits b ++ 0#5 ++ p ++ BitVec.ofBool z ++ BitVec.ofBool s ++ BitVec.ofBool q)
  | .cas a b d z s x q => some (0x73#8 ++ srcBits a ++ srcBits b ++ dstBits d ++ 0#2 ++ BitVec.ofBool z ++ 0#1 ++ BitVec.ofBool s ++ BitVec.ofBool x ++ BitVec.ofBool q)
  | .putsig a b c => some (0x74#8 ++ srcBits a ++ srcBits b ++ 0#5 ++ srcBits c ++ 0#1)
  | .putsig2 a b c => some (0x75#8 ++ srcBits a ++ srcBits b ++ 0#5 ++ srcBits c ++ 0#1)
  | .arm a b => some (0x76#8 ++ srcBits a ++ srcBits b ++ 0#12)
  | .waitg a b d l => some (0x77#8 ++ srcBits a ++ srcBits b ++ dstBits d ++ l)
  | .waitm a b d l => some (0x78#8 ++ srcBits a ++ srcBits b ++ dstBits d ++ l)
  | .waitc l s c t => some (0x79#8 ++ l ++ s ++ c ++ t)
  | .waitt a b d l => some (0x7A#8 ++ srcBits a ++ srcBits b ++ dstBits d ++ l)
  | .bar a l => some (0x7B#8 ++ srcBits a ++ 0#11 ++ l)
  | .barg a l => some (0x7C#8 ++ srcBits a ++ 0#11 ++ l)
  | .sig a b => some (0x7D#8 ++ srcBits a ++ srcBits b ++ 0#12)
  | .qres a d l => some (0x80#8 ++ srcBits a ++ 0#6 ++ dstBits d ++ l)
  | .qpub a => some (0x81#8 ++ srcBits a ++ 0#18)
  | .qpop a d l => some (0x82#8 ++ srcBits a ++ 0#6 ++ dstBits d ++ l)
  | .qrel a => some (0x83#8 ++ srcBits a ++ 0#18)
  | .qpush a b d l => some (0x84#8 ++ srcBits a ++ srcBits b ++ dstBits d ++ l)
  | .qinfo a d => some (0x85#8 ++ srcBits a ++ 0#6 ++ dstBits d ++ 0#7)
  | .qclose a => some (0x86#8 ++ srcBits a ++ 0#18)
  | .tmm a b d i c => some (0x90#8 ++ srcBits a ++ srcBits b ++ dstBits d ++ 0#4 ++ BitVec.ofBool i ++ c)
  | .tzero b d c => some (0x91#8 ++ 0#6 ++ srcBits b ++ dstBits d ++ 0#5 ++ c)
  | .tst a b d c => some (0x92#8 ++ srcBits a ++ srcBits b ++ dstBits d ++ 0#5 ++ c)
  | .tred a b d c => some (0x93#8 ++ srcBits a ++ srcBits b ++ dstBits d ++ 0#5 ++ c)
  | .tws a b d c => some (0x94#8 ++ srcBits a ++ srcBits b ++ dstBits d ++ 0#5 ++ c)
  | .twsl a b d c => some (0x95#8 ++ srcBits a ++ srcBits b ++ dstBits d ++ 0#5 ++ c)
  | .tcfg a b => some (0x96#8 ++ srcBits a ++ srcBits b ++ 0#12)
  | .tcmd a d => some (0x97#8 ++ srcBits a ++ 0#6 ++ dstBits d ++ 0#7)
  | .tld a b d c => some (0x98#8 ++ srcBits a ++ srcBits b ++ dstBits d ++ 0#5 ++ c)
  | .tacc a b d c => some (0x99#8 ++ srcBits a ++ srcBits b ++ dstBits d ++ 0#5 ++ c)
  | .ecmd a b d => some (0xA0#8 ++ srcBits a ++ srcBits b ++ dstBits d ++ 0#7)
  | .chain a d => some (0xA1#8 ++ srcBits a ++ 0#6 ++ dstBits d ++ 0#7)
  | .cstat a b d => some (0xA2#8 ++ srcBits a ++ srcBits b ++ dstBits d ++ 0#7)
  | .ccan d => some (0xA3#8 ++ 0#12 ++ dstBits d ++ 0#7)
  | .send a b => some (0xB0#8 ++ srcBits a ++ srcBits b ++ 0#12)
  | .sendb a b => some (0xB1#8 ++ srcBits a ++ srcBits b ++ 0#12)
  | .sendi a b => some (0xB2#8 ++ srcBits a ++ srcBits b ++ 0#12)
  | .cmask a d => some (0xB3#8 ++ srcBits a ++ 0#6 ++ dstBits d ++ 0#7)
  | .cunm a d => some (0xB4#8 ++ srcBits a ++ 0#6 ++ dstBits d ++ 0#7)
  | .hret => some (0xB5#8 ++ 0#24)
  | .rdin a d => some (0xB6#8 ++ srcBits a ++ 0#6 ++ dstBits d ++ 0#7)
  | .redn a b => some (0xB7#8 ++ srcBits a ++ srcBits b ++ 0#12)
  | .sendw a b d l => some (0xB8#8 ++ srcBits a ++ srcBits b ++ dstBits d ++ l)
  | .spawn a b => some (0xC0#8 ++ srcBits a ++ srcBits b ++ 0#12)
  | .take d => some (0xC1#8 ++ 0#12 ++ dstBits d ++ 0#7)
  | .done => some (0xC2#8 ++ 0#24)
  | .yield i => some (0xC3#8 ++ 0#11 ++ i)
  | .launch a d => some (0xC4#8 ++ srcBits a ++ 0#6 ++ dstBits d ++ 0#7)
  | .tready a d => some (0xC5#8 ++ srcBits a ++ 0#6 ++ dstBits d ++ 0#7)
  | .stagePut a b d => some (0xC6#8 ++ srcBits a ++ srcBits b ++ dstBits d ++ 0#7)
  | .stageTwin a b d => some (0xC6#8 ++ srcBits a ++ srcBits b ++ dstBits d ++ 1#7)
  | .stageMerge a b d => some (0xC6#8 ++ srcBits a ++ srcBits b ++ dstBits d ++ 2#7)
  | .stageInfo a d => some (0xC6#8 ++ srcBits a ++ 0#6 ++ dstBits d ++ 3#7)
  | .stageClose a => some (0xC6#8 ++ srcBits a ++ 4#18)
  | .gid d s => some (0xC7#8 ++ 0#12 ++ dstBits d ++ 0#4 ++ s)
  | .qdie a d l => some (0xC8#8 ++ srcBits a ++ 0#6 ++ dstBits d ++ l)
  | .tcbq d => some (0xC9#8 ++ 0#12 ++ dstBits d ++ 0#7)
  | .getc d n => some (0xD0#8 ++ 0#6 ++ dstBits d ++ 0#1 ++ n)
  | .setc a n => some (0xD1#8 ++ srcBits a ++ 0#6 ++ n)
  | .swpc a d n => some (0xD2#8 ++ srcBits a ++ dstBits d ++ 0#1 ++ n)
  | .setcb a d k n => some (0xD3#8 ++ srcBits a ++ dstBits d ++ BitVec.ofBool k ++ n)
  | .sys a n => some (0xD4#8 ++ srcBits a ++ 0#6 ++ n)
  | .resumeTeam a => some (0xD4#8 ++ srcBits a ++ 3841#18)
  | .tret e => some (0xD5#8 ++ 0#23 ++ BitVec.ofBool e)
  | .halt a => some (0xD6#8 ++ srcBits a ++ 0#18)
  | .nop => some (0xD7#8 ++ 0#24)
  | .xinv a b => some (0xD8#8 ++ srcBits a ++ srcBits b ++ 0#12)
  | .xprobe a d => some (0xD9#8 ++ srcBits a ++ 0#6 ++ dstBits d ++ 0#7)
  | .stamp a d f => some (0xDA#8 ++ srcBits a ++ 0#6 ++ dstBits d ++ 0#5 ++ f)
  | .cyc d r => some (0xDB#8 ++ 0#12 ++ dstBits d ++ 0#6 ++ BitVec.ofBool r)
  | .ebreak i => some (0xDC#8 ++ 0#11 ++ i)
  | .rfill => some (0xDD#8 ++ 0#24)
  | .gate m => some (0xDE#8 ++ 0#22 ++ m)
  | .blockEnd => none
  | .dispatchSelect => none
  | .steal _ => none
  | .stealBackoffExpiry => none
  | .readyPush => none
  | .dieQueuePop _ _ => none
  | .yieldOverrun => none
  | .preemption => none
  | .trapEntry => none
  | .portTimeout => none
  | .tagTimeout => none
  | .waitTimeout => none
  | .queueTimeout => none
  | .msgTimeout => none
  | .homeAccess _ => none
  | .accessCompletion _ => none
  | .translationWalk _ _ => none
  | .translationInvalidation _ => none
  | .quarantineReturn _ => none
  | .opcMm => none
  | .opcZero => none
  | .opcSt => none
  | .opcRed => none
  | .opcWs => none
  | .opcWsl => none
  | .opcLd => none
  | .opcAcc => none
  | .matrixCommandRetire => none
  | .followOnDelivery _ => none
  | .copyRecord => none
  | .multicastCopy => none
  | .fillRecord => none
  | .chunkCompletion _ => none
  | .recordLanding => none
  | .chainRetire => none
  | .ringArbitrationRound _ => none
  | .storeBudgetRefill _ _ => none
  | .messageAccept _ => none
  | .inlineExecution => none
  | .reductionContribution _ _ => none
  | .flitAgePriority _ => none
  | .launchEnqueue _ => none
  | .memberRetirement _ => none
  | .completionSignal _ => none
  | .retirementReport _ _ => none
  | .groupPlacement _ _ => none
  | .stagePutApply => none
  | .stageOverload _ _ => none
  | .kioskStageOrder _ _ _ => none
  | .writeWindow _ _ => none
  | .rowAlert _ _ => none
  | .refresh _ _ _ => none
  | .migrationPull _ _ _ => none
  | .nmGemv _ _ => none
  | .nmAxpby _ _ => none
  | .nmReduce _ _ => none
  | .nmFill _ _ => none
  | .nmCopy _ _ => none
  | .nmMigrate _ _ => none
  | .nmReply _ _ => none
  | .disturbWrite _ _ => none
  | .einjWrite _ _ => none
  | .astatWrite _ _ _ => none
  | .ecccntWrite _ _ => none
  | .sfaultWrite _ _ => none
  | .cefaultWrite _ _ => none
  | .nmstatWrite _ _ _ => none
  | .ggateWrite _ _ _ => none
  | .phaltWrite _ _ => none
  | .preqWrite _ _ _ => none
  | .registerWrite _ _ _ => none
  | .postedWrite _ _ _ => none
  | .hostRead _ _ => none
  | .extTimeout _ => none
  | .linkTraining _ _ => none
  | .powerGood => none
  | .stackJoin _ => none
  | .meshSelfTest => none
  | .powerLimit => none
  | .mbQuery _ => none
  | .mbLoad _ => none
  | .mbLaunch _ => none
  | .mbPartCreate _ => none
  | .mbPartResize _ => none
  | .mbPartDestroy _ => none
  | .mbAttest _ => none
  | .mbEventRead _ => none
  | .mbEventRoute _ => none
  | .managementRequest => none
  | .kioskEvent => none
  | .illegalOpcode word => some word
  | .reservedField word => some word
  | .qdieExpiry => none
  | .msiXUnmask _ _ => none
  | .stackOutOfService _ _ => none

/-- The bytes of an instruction at increasing addresses. -/
def encode (i : Instr) : Option (List Byte) := (encodeWord i).map bytesOfWord

/-- The little-endian bytes of the low `n` bytes of a number. -/
def tableBytes : Nat → Nat → List Byte
  | 0, _ => []
  | n + 1, w => BitVec.ofNat 8 w :: tableBytes n (w / 256)

/-- The instruction the decoder reads from a table word whose bits are `w` (the bits from `nbits` up are zero). -/
def decodeTableWord (nbits w : Nat) : Option Instr :=
  match decode (tableBytes 4 (w % 2 ^ nbits)) with
  | .ok (i, _) => some i
  | .error _ => none

/-- Whether a step has an encoding as an instruction word. -/
def isWord (i : Instr) : Bool := (encodeWord i).isSome

end Sys2Proof
end

