-- ==== Sys2Proof/Machine/Causes.lean ====
section
/-! DEFINITION. The cause codes of the device (spec/10_core_traps.md R225, 12 R254, 14 R277, 16 R304, 17 R340, 23 R402). -/

namespace Sys2Proof.Machine

/-- A cause: each named code of the tables. The codes not named are reserved and never raised. -/
inductive Cause where
  /-- 0x00 TRAP_SW: ebreak (precise). -/
  | trapSw
  /-- 0x01 ILLEGAL_OPCODE: unassigned OP (R62) (precise). -/
  | illegalOpcode
  /-- 0x02 RESERVED_FIELD: reserved field, value or register number (precise). -/
  | reservedField
  /-- 0x03 BAD_HEADER: malformed header (R43) (precise). -/
  | badHeader
  /-- 0x04 BAD_TARGET: transfer or resume not to a fitting header (precise). -/
  | badTarget
  /-- 0x05 FETCH_FAULT: fetch outside own scratchpads (R12) (precise). -/
  | fetchFault
  /-- 0x06 PRIV_INSTR: an instruction refused at this level or state (precise). -/
  | privInstr
  /-- 0x07 PRIV_REG: a control register or tag value refused at U (precise). -/
  | privReg
  /-- 0x08 TRAP_FRAME: frame unusable (R214, R217) (precise, direct). -/
  | trapFrame
  /-- 0x10 BAD_OPERAND: reserved operand or destination (precise). -/
  | badOperand
  /-- 0x11 TRELLIS_UNDERFLOW: invalid trellis entry read (precise). -/
  | trellisUnderflow
  /-- 0x12 DEAD_READ: dead register read (precise). -/
  | deadRead
  /-- 0x13 PAIR_ALIGN: odd register named as pair (precise). -/
  | pairAlign
  /-- 0x14 PORT_TIMEOUT: port wait expired, or no neighbour (R123) (precise). -/
  | portTimeout
  /-- 0x15 RESTORE_POISON: poisoned save or frame word (precise, direct). -/
  | restorePoison
  /-- 0x20 LOOP_DEPTH: fifth loop, or brk with none (precise). -/
  | loopDepth
  /-- 0x21 CALL_NOT_LAST: call, callr or sys not last (precise). -/
  | callNotLast
  /-- 0x22 YIELD_PLACEMENT: yield misplaced (R44) (precise). -/
  | yieldPlacement
  /-- 0x30 FP_INVALID: enabled NV (R127) (precise). -/
  | fpInvalid
  /-- 0x31 FP_DIVZERO: enabled DZ (precise). -/
  | fpDivzero
  /-- 0x32 FP_OVERFLOW: enabled OF (precise). -/
  | fpOverflow
  /-- 0x33 FP_UNDERFLOW: enabled UF (precise). -/
  | fpUnderflow
  /-- 0x34 FP_INEXACT: enabled NX (precise). -/
  | fpInexact
  /-- 0x35 INT_DIVZERO: integer division by zero (R136) (precise). -/
  | intDivzero
  /-- 0x36 FMT_ILLEGAL: format not accepted (R55) (precise). -/
  | fmtIllegal
  /-- 0x40 ALIGN: misaligned access (R180) (precise). -/
  | align
  /-- 0x41 MEM_POISON: poisoned word accessed (either). -/
  | memPoison
  /-- 0x42 TAG_MISMATCH: tag unfit for the access (R177, R178) (either). -/
  | tagMismatch
  /-- 0x43 TAG_TIMEOUT: tagged wait expired (precise). -/
  | tagTimeout
  /-- 0x44 STORE_BUDGET: store over budget with SBX (R185) (precise). -/
  | storeBudget
  /-- 0x45 NO_MEMORY: unpopulated address (R20) (precise). -/
  | noMemory
  /-- 0x50 XLATE_MISS: walk failed (R30) (precise). -/
  | xlateMiss
  /-- 0x51 XLATE_PERM: rights refused (precise). -/
  | xlatePerm
  /-- 0x60 WAIT_TIMEOUT: waitg, waitm, waitt, bar or barg expired (precise). -/
  | waitTimeout
  /-- 0x61 QUEUE_TIMEOUT: queue wait expired (R209) (precise). -/
  | queueTimeout
  /-- 0x62 ARRIVAL_OVERRUN: excess at least TARGET (R197) (deferred). -/
  | arrivalOverrun
  /-- 0x63 ARRIVAL_MODE: bad mode, amount or arm (R197, R198) (deferred). -/
  | arrivalMode
  /-- 0x64 BARRIER_MISMATCH: R206 (precise). -/
  | barrierMismatch
  /-- 0x65 QUEUE_CLOSED: closed queue, or a malformed descriptor (R208, R209) (precise; deferred from `qrel` (R208)). -/
  | queueClosed
  /-- 0x70 MX_FORMAT: kinds, class mix, scale format, TRB or OFMT refused (R236, R238, R242) (precise at issue; else deferred). -/
  | mxFormat
  /-- 0x71 MX_DIM: K above the native K (as MX_FORMAT). -/
  | mxDim
  /-- 0x72 MX_ADDR: operand, scale, source or destination refused by the place and alignment rules (R240, R242, R246) (as MX_FORMAT). -/
  | mxAddr
  /-- 0x73 MX_POISON: an operand or source word with tag 11 (deferred). -/
  | mxPoison
  /-- 0x74 MX_WRITE: a write or atomic failed at its home or in translation (R243), or a spill failed (R252) (deferred; kiosk for a spill). -/
  | mxWrite
  /-- 0x75 MX_SIGNAL: the command's arrival failed, at its home or in translation (deferred). -/
  | mxSignal
  /-- 0x76 MX_CMD: malformed image (R235) (deferred). -/
  | mxCmd
  /-- 0x80 CE_RECORD: OWN clear, reserved field or value, or a forbidden combination (R262) (deferred). -/
  | ceRecord
  /-- 0x81 CE_ADDR: an address word of the record not a multiple of 8 (R263) (deferred). -/
  | ceAddr
  /-- 0x82 CE_XLATE: an address of the record failed translation or was not populated (deferred). -/
  | ceXlate
  /-- 0x83 CE_WRITE: a destination write failed at its home (deferred). -/
  | ceWrite
  /-- 0x84 CE_SIGNAL: a completion write failed (R265) (deferred). -/
  | ceSignal
  /-- 0x85 CE_FOLLOW: FCORE or a member outside the partition (R266) (deferred). -/
  | ceFollow
  /-- 0x86 CE_POISON: a record, table entry or follow-on image read with tag 11 (deferred). -/
  | cePoison
  /-- 0x90 INLINE_ILLEGAL: inline code refused (R292) (kiosk). -/
  | inlineIllegal
  /-- 0x91 MC_GROUP_INVALID: group not loaded (R301, R264) (precise at a send; deferred for a copy). -/
  | mcGroupInvalid
  /-- 0x92 MSG_DEST: DEST names no enabled core of the partition (precise). -/
  | msgDest
  /-- 0x93 MSG_CLASS: class refused (R296) (precise). -/
  | msgClass
  /-- 0x94 MSG_TIMEOUT: sendw expired (precise). -/
  | msgTimeout
  /-- 0x95 RT_TREE_INVALID: R302 (precise). -/
  | rtTreeInvalid
  /-- 0x96 RT_TARGET: a root's store or arrival failed (kiosk). -/
  | rtTarget
  /-- 0x97 INLINE_FAULT: any other cause in inline code (kiosk). -/
  | inlineFault
  /-- 0xA0 YIELD_OVERRUN: the watchdog expires (R130) (precise, direct). -/
  | yieldOverrun
  /-- 0xA1 GRID_CYCLE: a dependence vector is zero or not lexicographically positive (record). -/
  | gridCycle
  /-- 0xA2 GRID_SHAPE: dimensions, components, vector count or team extents out of range (record). -/
  | gridShape
  /-- 0xA3 GRID_SLOT: no free scoreboard slot on the home die (record). -/
  | gridSlot
  /-- 0xA4 LAUNCH_DESC: malformed launch descriptor, graph descriptor or member table (R321, R322) (precise at `launch`; else record). -/
  | launchDesc
  /-- 0xA5 LAUNCH_ARENA: the snapshot does not fit the launch arena (record). -/
  | launchArena
  /-- 0xA6 DEQUE_FULL: spawn to a full or unconfigured deque (precise). -/
  | dequeFull
  /-- 0xA7 TASK_STATE: a TCB whose owner or state refuses tready or a task-set launch, or a ready-ring entry that names no ready TCB of its core (R311) (deferred; record at launch; kiosk for a ring entry). -/
  | taskState
  /-- 0xA8 SUCC_FAULT: a successor arrival of done failed (kiosk and record). -/
  | succFault
  /-- 0xA9 STAGE_DESC: a stage descriptor refused at attach or by stage (precise at `stage`; else record). -/
  | stageDesc
  /-- 0xAA STAGE_TWIN: a twin ordered beyond the twin limit, or with no free core (precise at `stage`; else kiosk). -/
  | stageTwin
  /-- 0xAB STAGE_STATE: a stage operation that the stage's present state does not permit (precise). -/
  | stageState
  /-- 0xAC GANG_FIT: a team or group cannot be made co-resident in the partition (record). -/
  | gangFit
  /-- 0xAD LAUNCH_PRIO: PRIO above PCEIL (precise). -/
  | launchPrio
  /-- 0xAE COMPL_FAULT: a completion-record word or the SIGNAL arrival of a launch failed at its home (R325) (kiosk). -/
  | complFault
  /-- 0xB0 NM_ADDR_SPAN: an extent leaves the target stack (R397) (deferred). -/
  | nmAddrSpan
  /-- 0xB1 NM_CMD: malformed block (R397, R398) (deferred). -/
  | nmCmd
  /-- 0xB2 NM_XLATE: an extent failed translation or rights (R397) (deferred). -/
  | nmXlate
  /-- 0xB3 NM_POISON: poison met without SKIPP, or in a vector (R399) (deferred). -/
  | nmPoison
  /-- 0xB4 NM_SKIPPED: lines skipped under SKIPP (R399) (deferred). -/
  | nmSkipped
  /-- 0xB5 NM_WRITE: a result or leaf-entry write failed at its home (deferred). -/
  | nmWrite
  /-- 0xB6 NM_SIGNAL: the reply failed (R400) (deferred). -/
  | nmSignal
  /-- 0xB7 MIG_FAULT: a pull from an old granule failed (R393) (deferred, at the access and the command). -/
  | migFault
  /-- 0xB8 STACK_OFFLINE: an access to a stack or channel taken out of service after start (deferred). -/
  | stackOffline
  /-- 0xB9 ROW_ALERT: an activation count reached TH (R387) (kiosk). -/
  | rowAlert
  /-- 0xBA SCRUB_POISON: a line poisoned by a write-back or pull with no requester (kiosk). -/
  | scrubPoison
  /-- 0xBB EXT_TIMEOUT: an access to host or peer memory unanswered within 2^24 fabric cycles (deferred). -/
  | extTimeout
  /-- 0xBC POWER_LIMIT: the hardware power cap throttled the module (kiosk). -/
  | powerLimit
  deriving DecidableEq, Repr

/-- The code of a cause. -/
def Cause.code : Cause → BitVec 8
  | .trapSw => 0x00#8
  | .illegalOpcode => 0x01#8
  | .reservedField => 0x02#8
  | .badHeader => 0x03#8
  | .badTarget => 0x04#8
  | .fetchFault => 0x05#8
  | .privInstr => 0x06#8
  | .privReg => 0x07#8
  | .trapFrame => 0x08#8
  | .badOperand => 0x10#8
  | .trellisUnderflow => 0x11#8
  | .deadRead => 0x12#8
  | .pairAlign => 0x13#8
  | .portTimeout => 0x14#8
  | .restorePoison => 0x15#8
  | .loopDepth => 0x20#8
  | .callNotLast => 0x21#8
  | .yieldPlacement => 0x22#8
  | .fpInvalid => 0x30#8
  | .fpDivzero => 0x31#8
  | .fpOverflow => 0x32#8
  | .fpUnderflow => 0x33#8
  | .fpInexact => 0x34#8
  | .intDivzero => 0x35#8
  | .fmtIllegal => 0x36#8
  | .align => 0x40#8
  | .memPoison => 0x41#8
  | .tagMismatch => 0x42#8
  | .tagTimeout => 0x43#8
  | .storeBudget => 0x44#8
  | .noMemory => 0x45#8
  | .xlateMiss => 0x50#8
  | .xlatePerm => 0x51#8
  | .waitTimeout => 0x60#8
  | .queueTimeout => 0x61#8
  | .arrivalOverrun => 0x62#8
  | .arrivalMode => 0x63#8
  | .barrierMismatch => 0x64#8
  | .queueClosed => 0x65#8
  | .mxFormat => 0x70#8
  | .mxDim => 0x71#8
  | .mxAddr => 0x72#8
  | .mxPoison => 0x73#8
  | .mxWrite => 0x74#8
  | .mxSignal => 0x75#8
  | .mxCmd => 0x76#8
  | .ceRecord => 0x80#8
  | .ceAddr => 0x81#8
  | .ceXlate => 0x82#8
  | .ceWrite => 0x83#8
  | .ceSignal => 0x84#8
  | .ceFollow => 0x85#8
  | .cePoison => 0x86#8
  | .inlineIllegal => 0x90#8
  | .mcGroupInvalid => 0x91#8
  | .msgDest => 0x92#8
  | .msgClass => 0x93#8
  | .msgTimeout => 0x94#8
  | .rtTreeInvalid => 0x95#8
  | .rtTarget => 0x96#8
  | .inlineFault => 0x97#8
  | .yieldOverrun => 0xA0#8
  | .gridCycle => 0xA1#8
  | .gridShape => 0xA2#8
  | .gridSlot => 0xA3#8
  | .launchDesc => 0xA4#8
  | .launchArena => 0xA5#8
  | .dequeFull => 0xA6#8
  | .taskState => 0xA7#8
  | .succFault => 0xA8#8
  | .stageDesc => 0xA9#8
  | .stageTwin => 0xAA#8
  | .stageState => 0xAB#8
  | .gangFit => 0xAC#8
  | .launchPrio => 0xAD#8
  | .complFault => 0xAE#8
  | .nmAddrSpan => 0xB0#8
  | .nmCmd => 0xB1#8
  | .nmXlate => 0xB2#8
  | .nmPoison => 0xB3#8
  | .nmSkipped => 0xB4#8
  | .nmWrite => 0xB5#8
  | .nmSignal => 0xB6#8
  | .migFault => 0xB7#8
  | .stackOffline => 0xB8#8
  | .rowAlert => 0xB9#8
  | .scrubPoison => 0xBA#8
  | .extTimeout => 0xBB#8
  | .powerLimit => 0xBC#8

/-- The cause that a code names; none for a reserved code or one above 0xBF. -/
def Cause.ofCode (c : BitVec 8) : Option Cause :=
  match c.toNat with
  | 0x00 => some .trapSw
  | 0x01 => some .illegalOpcode
  | 0x02 => some .reservedField
  | 0x03 => some .badHeader
  | 0x04 => some .badTarget
  | 0x05 => some .fetchFault
  | 0x06 => some .privInstr
  | 0x07 => some .privReg
  | 0x08 => some .trapFrame
  | 0x10 => some .badOperand
  | 0x11 => some .trellisUnderflow
  | 0x12 => some .deadRead
  | 0x13 => some .pairAlign
  | 0x14 => some .portTimeout
  | 0x15 => some .restorePoison
  | 0x20 => some .loopDepth
  | 0x21 => some .callNotLast
  | 0x22 => some .yieldPlacement
  | 0x30 => some .fpInvalid
  | 0x31 => some .fpDivzero
  | 0x32 => some .fpOverflow
  | 0x33 => some .fpUnderflow
  | 0x34 => some .fpInexact
  | 0x35 => some .intDivzero
  | 0x36 => some .fmtIllegal
  | 0x40 => some .align
  | 0x41 => some .memPoison
  | 0x42 => some .tagMismatch
  | 0x43 => some .tagTimeout
  | 0x44 => some .storeBudget
  | 0x45 => some .noMemory
  | 0x50 => some .xlateMiss
  | 0x51 => some .xlatePerm
  | 0x60 => some .waitTimeout
  | 0x61 => some .queueTimeout
  | 0x62 => some .arrivalOverrun
  | 0x63 => some .arrivalMode
  | 0x64 => some .barrierMismatch
  | 0x65 => some .queueClosed
  | 0x70 => some .mxFormat
  | 0x71 => some .mxDim
  | 0x72 => some .mxAddr
  | 0x73 => some .mxPoison
  | 0x74 => some .mxWrite
  | 0x75 => some .mxSignal
  | 0x76 => some .mxCmd
  | 0x80 => some .ceRecord
  | 0x81 => some .ceAddr
  | 0x82 => some .ceXlate
  | 0x83 => some .ceWrite
  | 0x84 => some .ceSignal
  | 0x85 => some .ceFollow
  | 0x86 => some .cePoison
  | 0x90 => some .inlineIllegal
  | 0x91 => some .mcGroupInvalid
  | 0x92 => some .msgDest
  | 0x93 => some .msgClass
  | 0x94 => some .msgTimeout
  | 0x95 => some .rtTreeInvalid
  | 0x96 => some .rtTarget
  | 0x97 => some .inlineFault
  | 0xA0 => some .yieldOverrun
  | 0xA1 => some .gridCycle
  | 0xA2 => some .gridShape
  | 0xA3 => some .gridSlot
  | 0xA4 => some .launchDesc
  | 0xA5 => some .launchArena
  | 0xA6 => some .dequeFull
  | 0xA7 => some .taskState
  | 0xA8 => some .succFault
  | 0xA9 => some .stageDesc
  | 0xAA => some .stageTwin
  | 0xAB => some .stageState
  | 0xAC => some .gangFit
  | 0xAD => some .launchPrio
  | 0xAE => some .complFault
  | 0xB0 => some .nmAddrSpan
  | 0xB1 => some .nmCmd
  | 0xB2 => some .nmXlate
  | 0xB3 => some .nmPoison
  | 0xB4 => some .nmSkipped
  | 0xB5 => some .nmWrite
  | 0xB6 => some .nmSignal
  | 0xB7 => some .migFault
  | 0xB8 => some .stackOffline
  | 0xB9 => some .rowAlert
  | 0xBA => some .scrubPoison
  | 0xBB => some .extTimeout
  | 0xBC => some .powerLimit
  | _ => none

/-- The causes marked ignorable (R221). -/
def Cause.ignorable : Cause → Bool
  | .trapSw => true
  | .portTimeout => true
  | .fpInvalid => true
  | .fpDivzero => true
  | .fpOverflow => true
  | .fpUnderflow => true
  | .fpInexact => true
  | .intDivzero => true
  | .tagTimeout => true
  | .waitTimeout => true
  | .queueTimeout => true
  | .msgTimeout => true
  | .stageTwin => true
  | .nmSkipped => true
  | _ => false

/-- The causes never offered to a handler (R214). -/
def Cause.direct : Cause → Bool
  | .yieldOverrun => true
  | .restorePoison => true
  | .trapFrame => true
  | _ => false

/-- The FP trap causes (R127). -/
def Cause.isFp : Cause → Bool
  | .fpInvalid => true
  | .fpDivzero => true
  | .fpOverflow => true
  | .fpUnderflow => true
  | .fpInexact => true
  | _ => false

/-- The causes by which a wait ends at its bound (R220). -/
def Cause.isTimeout : Cause → Bool
  | .portTimeout => true
  | .tagTimeout => true
  | .waitTimeout => true
  | .queueTimeout => true
  | .msgTimeout => true
  | _ => false

end Sys2Proof.Machine
end

