-- ==== Sys2Proof/Machine/State.lean ====
section
/-! DEFINITION. The state of the device as plain data: every core, cluster engine, router, die, stack, partition, launch,
stage, the kiosk and the host side. Tables of many like parts are sparse: a list of (key, value) pairs with strictly
rising keys; an unlisted key holds the reset value. Memory, tags, poison and register words list no default. -/

namespace Sys2Proof.Machine

/-- A sparse table: an unlisted key holds the table's default value. -/
abbrev SMap (α : Type) := List (Nat × α)

/-! ## The core -/

/-- The condition of a named register (R121). -/
inductive Cond where
  | present | dead | absent
  deriving DecidableEq, Repr

/-- A named register: its word, its condition, and the access whose value it awaits (R121, R183). -/
structure Reg where
  val  : Word
  cond : Cond
  pend : Option Nat
  deriving DecidableEq, Repr

/-- A valid trellis entry: its word, and the access whose value it awaits (R120, R183). -/
structure Slot where
  val  : Word
  pend : Option Nat
  deriving DecidableEq, Repr

/-- The kind of a block (R41, R44). -/
inductive Kind where
  | ordinary | loop | yield | entry
  deriving DecidableEq, Repr

/-- A loop-stack entry (R151): body header address, iterations still to close, return point as an offset from BODY. -/
structure LoopEntry where
  body : Word
  rem  : Nat
  ret  : Int
  /-- header, LEN and KIND of the block that holds the return point -/
  hdr  : Word
  len  : Nat
  kind : Kind
  deriving DecidableEq, Repr

/-- What the core keeps of a saved context beside the saved words: the loop-stack entries with the blocks of their return
points (R149), and that bank 1 has been off since its last wake (R122). -/
structure Kept where
  loops : List LoopEntry
  lost  : Bool
  deriving DecidableEq, Repr

/-- The trap registers, without SYSVEC (R211, R212). TSTAT is held as its two fields. -/
structure TrapRegs where
  tbase  : Word
  tframe : Word
  tcause : Word
  tpc    : Word
  taddr  : Word
  tinfo  : Word
  tdpc   : Word
  intrap : Bool
  insys  : Bool
  deriving DecidableEq, Repr

/-- The matrix unit's configuration registers and the software-visible part of MSTAT (R232, R233). -/
structure MxRegs where
  fmta   : Word
  fmtb   : Word
  scpa   : Word
  scpb   : Word
  scf    : Word
  tsa    : Word
  tsb    : Word
  tdim   : Word
  tof    : Word
  follow : Bool
  flags  : BitVec 4
  deriving DecidableEq, Repr

/-- The context of running code: what an activation, or an inline message, has of its own (R120–R128, R293). -/
structure Ctx where
  /-- valid trellis entries, q0 first; at most 16 (R120) -/
  trellis  : List Slot
  regs     : Vector Reg 16
  /-- address of the next instruction word, or of the end of the block -/
  pc       : Word
  /-- header address, LEN and KIND of the block being executed (R41, R45) -/
  hdr      : Word
  len      : Nat
  kind     : Kind
  /-- innermost first; at most 4 (R148) -/
  loops    : List LoopEntry
  fmt      : Word
  fps      : Word
  st       : Word
  ycnt     : Nat
  gate     : BitVec 2
  /-- bank 1 has been off since its last wake (R122) -/
  bankLost : Bool
  priv     : Bool
  gateloss : Bool
  resumed  : Bool
  retries  : BitVec 3
  lteam    : Word
  lgroup   : Word
  lgrid    : Word
  lgraph   : Word
  lpart    : Word
  lsrc     : Word
  trap     : TrapRegs
  mx       : MxRegs
  /-- the instruction word fetched at `pc` and not yet retired: a waiting instruction is not fetched again -/
  latch    : Option Instr
  /-- kept for the trap frame that `tret` reloads (R217), and for the member's checkpoint (R222) -/
  frameKept : Kept
  ckptKept  : Kept
  /-- the next instruction would have retired with YCNT 0: YIELD_OVERRUN comes instead (R130) -/
  spent    : Bool
  deriving DecidableEq, Repr

/-- A cause with the values that its entry records (R214, R215). -/
structure CauseRec where
  cause    : Cause
  addr     : Word
  info     : Word
  dpc      : Word
  deferred : Bool
  engine   : Bool
  /-- set when the cause is reported at a block header (R43, R215) -/
  atPc     : Option Word
  deriving DecidableEq, Repr

/-- A message (R287): LEN is the length of the payload, 1–8. -/
structure Message where
  cls     : Nat
  tag     : BitVec 32
  src     : Nat
  inl     : Bool
  stamp   : Word
  payload : List Word
  deriving DecidableEq, Repr

/-- Where a part of an access goes: its physical address, and what its translation said of it (R32, R393). -/
structure PartAt where
  pa     : Nat
  strong : Bool
  mig    : Bool
  deriving DecidableEq, Repr

/-- What an access asks of its home (R183, R191–R200, R209, R337). Addresses are physical. -/
inductive AccOp where
  | load (size : Nat)
  | tagRead
  | touch
  | store (size : Nat) (data : Word) (untagged : Bool)
  | tagWrite (tag : BitVec 2)
  | atomic (op : BitVec 4) (size : Nat) (b : Word) (sig ret : Bool)
  | atomicTo (op : BitVec 4) (size : Nat) (b : Word) (sig : Bool) (rd : PartAt) (rdVa : Word) (arr : PartAt)
  | cas (size : Nat) (cmp nv : Word) (sig : Bool)
  | arrive (bytes other : Nat)
  | arm (v : Word)
  | pay (w0 : Word) (w1 : Option Word) (arr : PartAt) (arrVa : Word)
  | release (desc : PartAt)
  /-- the launch that the issuing activation belongs to (R337) -/
  | taskRelease (launch : Option Nat)
  /-- a request of the core's copy channel in the request ring: the channel itself performs it (R271) -/
  | chan (bytes : Nat) (write : Bool)
  deriving DecidableEq, Repr

/-- Where an outstanding access stands. -/
inductive AccState where
  /-- not yet performed at its home -/
  | issued
  /-- the payload or target is done and the access's second part is still to be made (R194, R199, R209, R337) -/
  | half (v : Word)
  /-- all but its last part is performed -/
  | stored
  /-- performed; the value and the FP flags return to the core (R193) -/
  | performed (v : Word) (flags : BitVec 5)
  /-- failed at its home: a deferred cause (R184) -/
  | failed (c : Cause) (addr info : Word)
  deriving DecidableEq, Repr

/-- An outstanding access of a core, in program order (R183). -/
structure Access where
  id       : Nat
  op       : AccOp
  va       : Word
  pa       : Nat
  pc       : Word
  isLoad   : Bool
  isStore  : Bool
  /-- later accesses wait for it: when it succeeds, when it fails its compare (R186, R192, R195) -/
  acqOk    : Bool
  acqFail  : Bool
  strong   : Bool
  migrating : Bool
  /-- it has left its request ring, or needs none (R271) -/
  injected : Bool
  /-- when its cluster's engine injected it, as a count of injections (R382) -/
  order    : Nat
  /-- its activation has not ended (R220) -/
  live     : Bool
  gen      : Nat
  stamp    : Word
  inl      : Bool
  state    : AccState
  deriving DecidableEq, Repr

/-- What a parked access waits for (R178, R179, R203, R204). -/
inductive ParkOp where
  | wfull (size : Nat)
  | consume (size : Nat)
  | produce (size : Nat) (data : Word)
  | gen (g : BitVec 8)
  | mask (m : Word)
  deriving DecidableEq, Repr

/-- A parked access of a core at a home (R179). -/
structure Parked where
  core : Nat
  pa   : Nat
  va   : Word
  op   : ParkOp
  /-- the generation of its translation (R35) -/
  gen  : Nat
  deriving DecidableEq, Repr

/-- How a parked access came out. -/
inductive Served where
  | no
  | value (v : Word)
  | failed (c : Cause) (info : Word)
  deriving DecidableEq, Repr

/-- What the running instruction is waiting for. -/
inductive WaitFor where
  /-- accesses, commands or a full resource: no bound and no pre-emption point -/
  | drain
  /-- a tagged load or store (R179) -/
  | tagged
  /-- the produce store of `qpub` or `qpush` (R209) -/
  | produce
  /-- `waitg` or `waitm` (R203, R204) -/
  | watch
  | timeline
  | barrier (group : Bool)
  /-- `qres`, `qpop` or the reservation of `qpush` (R209) -/
  | queue
  | port (p : Port) (write : Bool)
  | reply
  /-- a contribution of `redn` that its router has yet to accept (R298) -/
  | reduction
  | dieQueue
  | stagePut
  /-- the values of loads that the instruction itself uses or sends to a port -/
  | loads
  deriving DecidableEq, Repr

/-- The destinations an instruction names, which containment policy ignore sets to zero (R220). -/
inductive DestSpec where
  | none
  | one (d : Dst)
  | pair (d : Dst)
  | run (d : Dst) (k : Nat)
  deriving DecidableEq, Repr

/-- The wait in which the running instruction stands. -/
structure Wait where
  what    : WaitFor
  /-- a bound is set, so the wait may expire (R58) -/
  bounded : Bool
  /-- address and information that its expiry reports -/
  addr    : Word
  info    : Word
  served  : Served
  /-- the message of a `sendw` has been sent, or the slot of a `qpush` reserved, or a barrier arrived at -/
  begun   : Bool
  slot    : Nat
  dests   : DestSpec
  /-- the loads awaited, with the values returned -/
  vals    : List (Nat × Option Word)
  deriving DecidableEq, Repr

/-- Where an activation came from (R219, R312). -/
inductive Source where
  | tcb (pa : Nat)
  | slot (pa : Nat)
  | targeted
  | message (m : Message)
  | body (stage : Nat) (queue : Nat) (slot : Nat)
  | split (stage : Nat)
  | merge (stage : Nat)
  | member (launch : Nat) (group : Nat) (team : Nat) (rank : Nat)
  deriving DecidableEq, Repr

/-- A near-memory command that an activation issued (R395). -/
structure NmIssued where
  stack : Nat
  ctx   : Nat
  value : Nat
  pc    : Word
  deriving DecidableEq, Repr

/-- An activation that containment has stopped and whose issued commands have not all retired (R220, R231): it then ends,
or starts again. -/
inductive Ending where
  | ended (failed : Bool) (cause : Option Cause)
  | again (retries : Nat)
  /-- its TCB becomes ready again (R220) -/
  | ready
  deriving DecidableEq, Repr

/-- The record the dispatcher keeps of an activation (R128, R219, R312, R325). -/
structure Act where
  source   : Source
  entry    : Word
  args     : List Word
  stamp    : Word
  sup      : Bool
  /-- the activation level: CP and retry limit, where the source supplies them (R219) -/
  hasLevel : Bool
  cp       : BitVec 2
  retry    : Nat
  prio     : Nat
  launch   : Option Nat
  levels   : List Word
  lsrc     : Word
  /-- launch, group, team and rank of the gang member that it is, or that spawned it (R312, R219) -/
  gang     : Option (Nat × Nat × Nat × Nat)
  /-- the matrix and copy commands issued: how many not retired, and the last value received (R231, R259, R269) -/
  mxLive   : Nat
  mxLast   : Word
  chLive   : Nat
  chLast   : Word
  chPoison : Nat
  mxOffset : Word
  chOffset : Word
  nm       : List NmIssued
  /-- launches whose slots `take` or `qdie` has passed to it (R333, R338) -/
  held     : List Nat
  /-- an armed read-poison injection (R341) -/
  inject   : Bool
  /-- it has been stopped, and waits for its commands (R231) -/
  ending   : Option Ending
  deriving DecidableEq, Repr

/-- What the dispatcher knows of a deque or die-queue slot beside its words (R312, R333): the launch it belongs to, and
the levels of the activation that wrote it. -/
structure SlotRec where
  launch : Option Nat
  levels : List Word
  gang   : Option (Nat × Nat × Nat × Nat)
  /-- the physical address that a die-queue slot was written at, where the ring lies in HBM (R317, R320) -/
  pa     : Option Nat
  deriving DecidableEq, Repr

/-- An engine's command context, to which a deferred engine cause belongs (R216). -/
inductive EngineCtx where
  | mx
  | ch
  | nm (stack ctx : Nat)
  deriving DecidableEq, Repr

/-- A cause that an engine holds for an activation's first covering instruction (R216). -/
structure EngineCause where
  ctx   : EngineCtx
  value : Nat
  what  : CauseRec
  /-- accesses of the core numbered below this were issued before the command (R215) -/
  after : Nat
  deriving DecidableEq, Repr

/-- A WS128 as its two words (R110). -/
structure WsPair where
  lo : Word
  hi : Word
  deriving DecidableEq, Repr

/-- The condition of an accumulator (R228, R252). -/
inductive AccCond where
  | clean | held | absent | lost
  deriving DecidableEq, Repr

/-- An accumulator: 256 elements, row by row; an element that is the exact zero pair after a `clean`. -/
structure Accum where
  cond  : AccCond
  elems : SMap WsPair
  /-- the spill address of an absent accumulator (R252) -/
  spill : Nat
  deriving DecidableEq, Repr

/-- A matrix command in the inbox (R229, R234). -/
structure MxCmd where
  w0    : Word
  w1    : Word
  w2    : Word
  w3    : Word
  stamp : Word
  /-- none: issued by the core's activation; some c: a follow-on command of core c's copy channel -/
  from? : Option Nat
  pc    : Word
  sup   : Bool
  value : Nat
  /-- issued by the activation that the core still runs -/
  owned : Bool
  /-- accesses of the core numbered below this go before its reads (R250) -/
  after : Nat
  /-- elements already written (R242) -/
  pos   : Nat
  /-- its work is finished and it waits to retire (R230) -/
  done  : Bool
  deriving DecidableEq, Repr

/-- The matrix unit (R228–R231). -/
structure Mx where
  accs    : Vector Accum 4
  inbox   : List MxCmd
  retired : Nat
  issued  : Nat
  deriving DecidableEq, Repr

/-- Words that a record has read and has yet to write (R262, R264): at most 512 bytes of one chunk and one run (R271). -/
structure ChPiece where
  /-- bytes of the record before it -/
  start : Nat
  vals  : List (Option Word)
  /-- the cores that have yet to receive it -/
  left  : List Nat
  /-- its tokens are taken (R273) -/
  paid  : Bool
  deriving DecidableEq, Repr

/-- A record that a channel has started (R262, R264–R267). -/
structure ChRun where
  va      : Word
  words   : List Word
  /-- bytes read so far -/
  done    : Nat
  total   : Nat
  /-- planes whose source base is known, and the base of the last of them -/
  planes  : Nat
  plane   : Word
  /-- the cores that receive it -/
  members : List Nat
  pieces  : List ChPiece
  /-- completions of chunks that are made: the core and the chunk -/
  chunks  : List (Nat × Nat)
  /-- cores at which the final arrival of DONE 01 is made -/
  final   : List Nat
  landed  : Bool
  /-- its follow-on commands, if any, are held for delivery -/
  passed  : Bool
  /-- its word 0 is written back with OWN clear -/
  cleared : Bool
  /-- what destination words held before the record wrote them, by canonical address; none where poisoned (R262) -/
  before  : SMap (Option Word)
  /-- HBM lines that the record has poisoned (R263) -/
  stained : List Nat
  deriving DecidableEq, Repr

/-- A copy command in a channel's inbox (R258). -/
structure ChCmd where
  first : Word
  stamp : Word
  sup   : Bool
  pc    : Word
  value : Nat
  /-- still owned by a live activation of the channel's core -/
  owned : Bool
  /-- accesses of the core numbered below this go before its reads and writes (R279) -/
  after : Nat
  /-- the records of its chain that it has started, in the order of the chain (R267) -/
  runs  : List ChRun
  /-- follow-on commands delivered and not yet retired -/
  out   : Nat
  /-- cancelled by `ccan`, or a record of it has failed: no further record starts (R267, R270) -/
  cancelled : Bool
  deriving DecidableEq, Repr

/-- An undelivered follow-on command (R266). -/
structure Follow where
  core  : Nat
  w0    : Word
  w1    : Word
  w2    : Word
  w3    : Word
  stamp : Word
  pc    : Word
  sup   : Bool
  value : Nat
  /-- the record's address -/
  record : Word
  deriving DecidableEq, Repr

/-- A copy channel (R258, R259, R266, R276). -/
structure Channel where
  inbox    : List ChCmd
  held     : List Follow
  retired  : Nat
  issued   : Nat
  /-- commands carried with a suspended context (R276) -/
  carried  : List ChCmd
  carriedHeld : List Follow
  deriving DecidableEq, Repr

/-- Inline code running against the inbox, and the context it interrupts (R293). -/
structure Inline where
  outer : Ctx
  outerWait : Option Wait
  msg   : Message
  slot  : Nat
  sent  : Bool
  deriving DecidableEq, Repr

/-- A ready push waiting in the dispatcher (R315). -/
structure Push where
  pa    : Nat
  bank  : Nat
  deriving DecidableEq, Repr

/-- A die-queue slot received (R320): its canonical address, its words and its record. -/
structure Popped where
  key   : Nat
  words : List Word
  slot  : SlotRec
  deriving DecidableEq, Repr

/-- The dispatcher's own state (R289, R311–R321). -/
structure Disp where
  inbox     : List Message
  current   : Option Message
  targeted  : List Nat
  pushes    : List Push
  /-- the last victim tried; none: the next is core c + 1 (R319) -/
  stealLast : Option Nat
  tries     : Nat
  backoff   : Bool
  /-- a victim's answer has been asked for: the victim -/
  asking    : Option Nat
  /-- a pop of the dispatcher waits at the pergola root -/
  popping   : Bool
  /-- a die-queue slot received, as it was when its position was handed out -/
  popped    : Option Popped
  stage     : Option Nat
  deriving DecidableEq, Repr

/-- What is kept of a suspended activation beside its save area: engine causes not yet delivered (R216), the header, LEN
and KIND of the block of its saved pc, and what the core keeps of its saved words. -/
structure SuspCtx where
  causes : List EngineCause
  hdr    : Word
  len    : Nat
  kind   : Kind
  /-- the produce wait of a `qpush` that keeps its slot -/
  wait   : Option Wait
  kept   : Kept
  frameKept : Kept
  ckptKept  : Kept
  /-- the port FIFOs still begin with the words of its save area (R123) -/
  fifos  : Bool
  /-- it starts again from its entry instead of resuming: its retries (R220) -/
  fresh  : Option Nat
  deriving DecidableEq, Repr

def Kept.none : Kept := ⟨[], false⟩

def SuspCtx.none : SuspCtx :=
  ⟨[], 0, 0, .ordinary, Option.none, Kept.none, Kept.none, Kept.none, false, Option.none⟩

/-- A core. -/
structure Core where
  pid      : BitVec 4
  ctx      : Ctx
  fifoN    : List Word
  fifoE    : List Word
  fifoS    : List Word
  fifoW    : List Word
  ybud     : Word
  sysvec   : Word
  memctl   : Word
  tagto    : Word
  portto   : Word
  mxsave   : Word
  cmask    : BitVec 32
  drops    : Nat
  clsh     : Vector Word 32
  dord     : Word
  rring    : Vector Word 4
  rrpos    : Vector Word 4
  dqcfg    : Word
  dqpos    : Word
  steal    : Word
  act      : Option Act
  susp     : Option Act
  suspCtx  : SuspCtx
  flight   : List Access
  nextId   : Nat
  causes   : List EngineCause
  wait     : Option Wait
  /-- a cause waiting for pending loads before its entry (R214) -/
  trapping : Option CauseRec
  inl      : Option Inline
  /-- an inline message has ended and the activation has not retired an instruction since (R293) -/
  inlHold  : Bool
  /-- copies in the instruction buffer: canonical address of the word's home, and the word (R12) -/
  ibuf     : SMap (BitVec 32)
  mx       : Mx
  chan     : Channel
  disp     : Disp
  retired  : Nat
  deriving DecidableEq, Repr

/-! ## Cluster engine, router, die, stack -/

/-- A range entry (R29, R275): its four words. -/
structure Range where
  base   : Word
  limit  : Word
  offset : Word
  flags  : Word
  deriving DecidableEq, Repr

/-- A translation held in the buffer (R34). -/
structure Tlb where
  asid  : BitVec 16
  page  : Nat
  /-- log2 of the page's size -/
  size  : Nat
  pte   : Word
  gen   : Nat
  deriving DecidableEq, Repr

/-- How a walk came out (R30). -/
inductive WalkResult where
  | leaf (pte : Word) (size : Nat)
  | miss (level : Nat) (malformed : Bool)
  deriving DecidableEq, Repr

/-- A miss in the queue (R34). -/
structure Miss where
  /-- the cores whose instructions wait for it -/
  cores  : List Nat
  asid   : BitVec 16
  root   : Word
  va     : Word
  gen    : Nat
  result : Option WalkResult
  deriving DecidableEq, Repr

/-- An invalidation on its way to a cluster engine (R35, R224). -/
structure Inval where
  va    : Word
  log2  : Nat
  asid  : BitVec 16
  all   : Bool
  glob  : Bool
  arr   : Nat
  gen   : Nat
  stamp : Word
  deriving DecidableEq, Repr

/-- A migration entry: the four words of R385 and the leaf entry its clear goes to (R393, R394). -/
structure Mig where
  old     : Nat
  valid   : Bool
  new     : Nat
  present : Word
  ctx     : Word
  leaf    : Nat
  deriving DecidableEq, Repr

/-- A cluster engine (R274, R275, R34, R35, R271). -/
structure Cluster where
  uasid   : Word
  uroot   : Word
  sasid   : Word
  sroot   : Word
  urange  : Vector Range 32
  srange  : Vector Range 32
  wgt     : Vector Word 16
  sbrate  : Word
  sbburst : Word
  sblevel : Int
  astat   : BitVec 4
  cefault : Word
  deficit : Vector Nat 16
  /-- requests injected so far (R382) -/
  seq     : Nat
  tlb     : List Tlb
  misses  : List Miss
  invals  : List Inval
  gen     : Nat
  migs    : List Mig
  deriving DecidableEq, Repr

/-- A contribution to a reduction tree (R302): from a core of the cluster, or from a link. -/
structure Contrib where
  tree   : Nat
  isCore : Bool
  which  : Nat
  value  : WsPair
  stamp  : Word
  deriving DecidableEq, Repr

/-- The routers of a cluster: the control-plane tables by register offset (R299), and open reduction rounds. -/
structure Router where
  regs    : SMap Word
  waiting : List Contrib
  round   : List Contrib
  deriving DecidableEq, Repr

/-- A pop waiting at the pergola root (R320, R338). -/
structure Pop where
  core  : Nat
  part  : Nat
  qdie  : Bool
  deriving DecidableEq, Repr

/-- A scoreboard slot of a die (R347, R348). -/
structure Board where
  launch : Option Nat
  desc   : Nat
  bits   : List Nat
  closed : Bool
  held   : Bool
  deriving DecidableEq, Repr

/-- A die's dispatch registers and engines (R329, R348, R374, R410). -/
structure Die where
  /-- PGBASE, PADDR, PCAP and the Siard table, by register offset -/
  regs    : SMap Word
  pgpos   : Vector Word 16
  phalt   : BitVec 16
  pauto   : Word
  preq    : SMap (BitVec 16)
  boards  : Vector Board 8
  engine  : List Nat
  /-- launches of the loader that wait while the engine is full (R15, R336) -/
  backlog : List Nat
  seq     : Nat
  compl   : Nat
  pops    : List Pop
  deriving DecidableEq, Repr

/-- A near-memory command with its translations (R396, R397). -/
structure NmCmd where
  words  : List Word
  stamp  : Word
  core   : Nat
  part   : Nat
  pc     : Word
  value  : Nat
  y      : Nat
  x      : Nat
  reply  : Nat
  leaf   : Nat
  /-- words of the command whose address was translated with MIG set (R393) -/
  moving : List Nat
  vec    : List (BitVec 32)
  /-- a cause found before acceptance: code, address and TINFO -/
  bad    : Option CauseRec
  /-- the oldest generation of its translations (R35) -/
  gen    : Nat
  /-- accesses of the core numbered below this were issued before it (R215) -/
  after  : Nat
  deriving DecidableEq, Repr

/-- A near-memory context (R395). -/
structure NmCtx where
  inbox   : List NmCmd
  retired : Nat
  issued  : Nat
  started : Bool
  /-- the next line or row of the running command -/
  pos     : Nat
  /-- the running sum of NM_REDUCE in units of 2^-149, and the NaN or infinity that it has become -/
  acc     : Int
  special : Option WsPair
  skipped : Nat
  /-- the first poisoned line that the running command met under SKIPP (R402) -/
  skipVa  : Word
  /-- bytes that the running command has written (R400) -/
  wrote   : Nat
  /-- all writes of the running command are accepted -/
  done    : Bool
  flags   : BitVec 4
  skipTot : Nat
  deriving DecidableEq, Repr

/-- A line in a channel's write queue, and the bytes of it that queued writes cover, as a mask (R379, R381). -/
structure QLine where
  line : Nat
  mask : Nat
  deriving DecidableEq, Repr

/-- A memory stack engine (R378–R395). -/
structure Stack where
  scfg    : Word
  disturb : Word
  dseed   : Word
  actth   : Word
  astat   : BitVec 4
  corr    : Nat
  uncorr  : Nat
  einj    : Word
  sfault  : Word
  ctxs    : Vector NmCtx 8
  migs    : List Mig
  /-- lines in the write queue, by channel, oldest first (R379) -/
  wq      : SMap (List QLine)
  /-- activation counts by row, open row by bank, xorshift state by channel (R386, R387) -/
  counts  : SMap Nat
  openRow : SMap Nat
  rng     : SMap Word
  /-- the next row that a refresh of the bank refreshes (R388) -/
  refRow  : SMap Nat
  /-- channels out of service (R402) -/
  offline : List Nat
  /-- lines of the DRAM that hold an error not yet met, by address: uncorrectable where true (R389; log 61) -/
  errs    : SMap Bool
  deriving DecidableEq, Repr

/-! ## Launches, gangs and stages -/

/-- A member of a graph as snapshotted (R322). -/
structure GMember where
  words   : List Word
  preds   : Nat
  started : Bool
  retired : Bool
  key     : Nat
  deriving DecidableEq, Repr

/-- A barrier round (R206): the members that have arrived, with their tags, and those yet to leave. -/
structure Barrier where
  arrived : List (Nat × Word)
  leaving : List Nat
  /-- a member ended, or the tags differ: TINFO of BARRIER_MISMATCH -/
  broken  : List (Nat × Word)
  deriving DecidableEq, Repr

/-- A team of a group (R307). -/
structure Team where
  cores : List Nat
  live  : List Nat
  used  : Nat
  bar   : Barrier
  desc  : Nat
  /-- stopped members awaiting RESUME_TEAM (R222) -/
  stopped : Bool
  deriving DecidableEq, Repr

/-- Where a group stands (R349–R354). -/
inductive GroupPhase where
  | released | running | ended | retired
  deriving DecidableEq, Repr

/-- A group of a grid (R344–R353). -/
structure Group where
  index : Nat
  phase : GroupPhase
  used  : Nat
  teams : List Team
  bar   : Barrier
  desc  : Nat
  /-- cores and near-memory commands whose work for members ended by containment must be over (R351) -/
  dirty : List Nat
  dirtyNm : List NmIssued
  deriving DecidableEq, Repr

/-- Where a launch stands (R323, R325). -/
inductive LaunchPhase where
  | queued | serial | running | recorded | retired
  deriving DecidableEq, Repr

/-- A launch (R321–R325, R344). -/
structure Launch where
  idWord   : Word
  kind     : Nat
  prio     : Nat
  cp       : BitVec 2
  retry    : Nat
  used     : Nat
  drain    : Bool
  core     : Nat
  any      : Bool
  msix     : Option Nat
  part     : Nat
  home     : Nat
  stamp    : Word
  /-- the launching core and level, for translations at enqueue (R324) -/
  issuer   : Nat
  sup      : Bool
  target   : Word
  targetPa : Nat
  args     : List Word
  compl    : Option Nat
  signal   : Option Nat
  badCause : Option (Cause × Word)
  phase    : LaunchPhase
  live     : Nat
  /-- no member can start any longer -/
  closed   : Bool
  faults   : Nat
  first    : Option (Cause × Word)
  user     : Word
  failed   : Bool
  refused  : Bool
  parent   : Option (Nat × Nat)
  members  : List GMember
  serialized : Bool
  groups   : List Group
  gridWords : List Word
  slot     : Nat
  /-- arena addresses of the grid and graph-instance descriptors; 0 when absent -/
  gridDesc  : Nat
  graphDesc : Nat
  stage    : Option Nat
  /-- arena blocks of its snapshots: base and length (log 9) -/
  blocks   : List (Nat × Nat)
  /-- cores and near-memory commands whose work for members ended by containment must be over (R325) -/
  dirty    : List Nat
  dirtyNm  : List NmIssued
  deriving DecidableEq, Repr

/-- A twin or merge in progress (R366, R368). -/
structure Change where
  merge   : Bool
  entry   : Nat
  key     : Nat
  newCore : Nat
  queue   : Nat
  copied  : Bool
  started : Bool
  deriving DecidableEq, Repr

/-- An attached stage, keyed by the physical address of its descriptor (R361–R372). -/
structure Stage where
  launch  : Nat
  part    : Nat
  /-- the core and the level in whose space its addresses were resolved (R324) -/
  issuer  : Nat
  sup     : Bool
  inq     : Nat
  twq     : Nat
  /-- the descriptor as it was copied at attach (R323) -/
  words   : List Word
  /-- physical addresses of the slot arrays of its queues, by queue index (R324) -/
  slots   : SMap Nat
  change  : Option Change
  /-- the stamp of the last record each core bodied -/
  last    : SMap Word
  /-- who drains the held queue, in order: a core, and the position up to which it does (R368, R369) -/
  drains  : List (Nat × Nat)
  deriving DecidableEq, Repr

/-- A put at its stage home (R364, R365): its core, the descriptor's canonical address, the stamp and the record. -/
structure Put where
  core  : Nat
  desc  : Nat
  part  : Nat
  stamp : Word
  words : List Word
  deriving DecidableEq, Repr

/-! ## Kiosk, host, device -/

/-- A partition (R308, R411). -/
structure Partition where
  exists?  : Bool
  clusters : List Nat
  pceil    : Nat
  granules : Nat
  arena    : Nat
  arenaLen : Nat
  desc     : Nat
  /-- cores of removed clusters whose contexts a resize still moves (R411) -/
  moving   : List Nat
  /-- cores that have received a context and have not resumed it -/
  moved    : List Nat
  deriving DecidableEq, Repr

/-- An event record (R418), with the partition whose rings receive it; none for a device alert. -/
structure Event where
  w0   : Word
  w1   : Word
  w2   : Word
  w3   : Word
  part : Option Nat
  deriving DecidableEq, Repr

/-- Granules in quarantine (R36): the first, how many, the partition that had them, the generation at which they were
freed. -/
structure Quarantined where
  first : Nat
  count : Nat
  part  : Nat
  gen   : Nat
  deriving DecidableEq, Repr

/-- A doorbell rung and not yet answered (R416): its mailbox, the core that rang it (0x3FFF for the host), and MBCMD and
MBARG0–MBARG6 as the kiosk read them. -/
structure Door where
  mb   : Nat
  who  : Nat
  cmd  : Word
  args : List Word
  deriving DecidableEq, Repr

/-- The kiosk (R413–R418). -/
structure Kiosk where
  /-- mailbox registers: key 512 × mailbox + offset ÷ 8 -/
  mail     : SMap Word
  /-- requests under way, in the order of their doorbells -/
  doors    : List Door
  requests : List (Nat × Message)
  events   : List Event
  rings    : SMap (List Event)
  dropped  : SMap Nat
  routes   : SMap Word
  stage    : Nat
  joined   : List Nat
  hostFull : Bool
  siard    : Bool
  keyIds   : List (List Byte)
  quarantine : List Quarantined
  /-- runs of granules that may be given out again, and the first granule never given out -/
  freed    : List (Nat × Nat)
  nextGranule : Nat
  deriving DecidableEq, Repr

/-- The host's side of the link (R407–R409). -/
structure HostSide where
  lastRead : Word
  /-- MSI-X vectors that are not masked: function and vector -/
  unmasked : List (Nat × Nat)
  pending  : List (Nat × Nat)
  sent     : List (Nat × Nat)
  deriving DecidableEq, Repr

/-- The configuration blob (R420): disabled clusters (die × 192 + cluster), channels (stack × 32 + channel), links. -/
structure Blob where
  clusters : List Nat
  channels : List Nat
  links    : List Nat
  deriving DecidableEq, Repr

/-- A message on its way to a core's inbox (R284, R288, R291). -/
structure Flight where
  dest : Nat
  msg  : Message
  /-- the dispatch of the message has been passed over for age (R283) -/
  aged : Bool
  deriving DecidableEq, Repr

/-- Whose turn it is: a core's next step, or a step of another agent, made on behalf of a core. -/
inductive Turn where
  | core (c : Nat)
  | event (core : Nat) (i : Instr)
  deriving DecidableEq, Repr

/-- The device. -/
structure State where
  /-- bytes by canonical physical address; an unlisted byte reads 0 (log 2) -/
  mem      : List Host.Cell
  /-- tags of scratchpad words by address; an unlisted word is empty (log 2) -/
  tags     : SMap (BitVec 2)
  /-- poisoned HBM lines by address (R389) -/
  poison   : SMap Bool
  parked   : List Parked
  cores    : SMap Core
  clusters : SMap Cluster
  routers  : SMap Router
  dies     : SMap Die
  stackEngines : SMap Stack
  parts    : SMap Partition
  launches : SMap Launch
  nextKey  : Nat
  stages   : SMap Stage
  /-- puts that wait to be applied, in the order in which they came (R364) -/
  puts     : List Put
  /-- deque and die-queue slots that hold work, by canonical address (R317) -/
  slots    : SMap SlotRec
  /-- the launch that released a TCB (key + 1), and the stamp of its completing arrival, by address (R312, R314) -/
  tcbLaunch : SMap Nat
  tcbStamp : SMap Word
  /-- armed TCB injections by address, with the launches of the file, and of its launches' activations, that have not retired (R341) -/
  injects  : SMap (List Nat)
  /-- the partition (+ 1) whose put filled a stage's slot, by the slot's address (R374) -/
  origins  : SMap Nat
  msgs     : List Flight
  tgen     : Nat
  blob     : Blob
  kiosk    : Kiosk
  host     : HostSide
  links    : SMap Nat
  ns       : Nat
  cycles   : Nat
  tick     : Nat
  free     : Nat
  cur      : Nat
  turns    : List Turn
  deriving DecidableEq, Repr

/-! ## Reset -/

def Reg.reset : Reg := ⟨0, .dead, none⟩

def TrapRegs.reset : TrapRegs := ⟨0, 0, 0, 0, 0, 0, 0, false, false⟩

/-- Reset values of R233. -/
def MxRegs.reset : MxRegs :=
  { fmta := 0, fmtb := 0, scpa := 0, scpb := 0, scf := 0b001111, tsa := 0x3F800000, tsb := 0x3F800000,
    tdim := 0x4210, tof := 0b010, follow := false, flags := 0 }

def Ctx.reset : Ctx :=
  { trellis := [], regs := Vector.replicate 16 Reg.reset, pc := 0, hdr := 0, len := 0, kind := .ordinary, loops := [],
    fmt := 0, fps := 0, st := 0, ycnt := 0, gate := 0, bankLost := false, priv := true, gateloss := false,
    resumed := false, retries := 0, lteam := 0, lgroup := 0, lgrid := 0, lgraph := 0, lpart := 0, lsrc := 0,
    trap := TrapRegs.reset, mx := MxRegs.reset,
    latch := none, frameKept := Kept.none, ckptKept := Kept.none, spent := false }

def Accum.reset : Accum := ⟨.clean, [], 0⟩

def Mx.reset : Mx := { accs := Vector.replicate 4 Accum.reset, inbox := [], retired := 0, issued := 0 }

def Channel.reset : Channel :=
  { inbox := [], held := [], retired := 0, issued := 0, carried := [], carriedHeld := [] }

def Disp.reset : Disp :=
  { inbox := [], current := none, targeted := [], pushes := [], stealLast := none, tries := 0, backoff := false,
    asking := none, popping := false, popped := none, stage := none }

/-- Reset values of R126, R182, R212, R233, R286, R310. -/
def Core.reset : Core :=
  { pid := 0, ctx := Ctx.reset, fifoN := [], fifoE := [], fifoS := [], fifoW := [], ybud := 65536, sysvec := 0,
    memctl := 0, tagto := 0x4F, portto := 0x3F, mxsave := 0, cmask := 0, drops := 0,
    clsh := Vector.replicate 32 0x0200000000000000, dord := 0, rring := Vector.replicate 4 0,
    rrpos := Vector.replicate 4 0, dqcfg := 0, dqpos := 0, steal := 0x10010, act := none, susp := none, suspCtx := SuspCtx.none, flight := [],
    nextId := 0, causes := [], wait := none, trapping := none, inl := none, inlHold := false, ibuf := [], mx := Mx.reset,
    chan := Channel.reset, disp := Disp.reset, retired := 0 }

def Range.reset : Range := ⟨0, 0xFFF, 0, 0⟩

/-- Reset values of R275. -/
def Cluster.reset : Cluster :=
  { uasid := 0, uroot := 0, sasid := 0, sroot := 0, urange := Vector.replicate 32 Range.reset,
    srange := Vector.replicate 32 Range.reset, wgt := Vector.replicate 16 1, sbrate := 4400, sbburst := 64,
    sblevel := 4096, astat := 0, cefault := 0, deficit := Vector.replicate 16 0, seq := 0, tlb := [], misses := [],
    invals := [], gen := 0, migs := [] }

def Router.reset : Router := ⟨[], [], []⟩

def Board.reset : Board := ⟨none, 0, [], false, false⟩

def Die.reset : Die :=
  { regs := [], pgpos := Vector.replicate 16 0, phalt := 0, pauto := 0, preq := [],
    boards := Vector.replicate 8 Board.reset, engine := [], backlog := [], seq := 0, compl := 0, pops := [] }

def NmCtx.reset : NmCtx :=
  { inbox := [], retired := 0, issued := 0, started := false, pos := 0, acc := 0, special := none, skipped := 0, skipVa := 0,
    wrote := 0, done := false, flags := 0, skipTot := 0 }

/-- Reset values of R385. -/
def Stack.reset : Stack :=
  { scfg := 8, disturb := 10, dseed := 1, actth := 512, astat := 0, corr := 0, uncorr := 0, einj := 0, sfault := 0,
    ctxs := Vector.replicate 8 NmCtx.reset, migs := [], wq := [], counts := [], openRow := [], rng := [],
    refRow := [], offline := [], errs := [] }

def Partition.none : Partition := ⟨false, [], 0, 0, 0, 0, 0, [], []⟩

def Kiosk.reset : Kiosk :=
  { mail := [], doors := [], requests := [], events := [], rings := [], dropped := [], routes := [], stage := 1,
    joined := [], hostFull := false, siard := false, keyIds := [], quarantine := [], freed := [], nextGranule := 0 }

def HostSide.reset : HostSide := ⟨0, [], [], []⟩

/-- The device right after reset: every register at its reset value, no partition, no work, memory with nothing listed. -/
def State.reset : State :=
  { mem := [], tags := [], poison := [], parked := [], cores := [], clusters := [], routers := [], dies := [],
    stackEngines := [], parts := [], launches := [], nextKey := 0, stages := [], puts := [], slots := [], tcbLaunch := [], tcbStamp := [],
    injects := [], origins := [], msgs := [], tgen := 0, blob := ⟨[], [], []⟩, kiosk := Kiosk.reset, host := HostSide.reset,
    links := [], ns := 0, cycles := 0, tick := 0, free := 0, cur := 0, turns := [] }

/-! ## How a step can stop -/

/-- The reasons a step can stop with a fault. -/
inductive Fault where
  /-- The tape gives the turn to a core that does not exist (cluster field 192–255 or an id above 14 bits, R11): raised by
  `step` alone. Safe: no such core does anything. -/
  | noSuchCore
  deriving DecidableEq, Repr

/-- The reasons an instruction can be refused. -/
inductive Refusal where
  /-- The instruction has no meaning yet: raised by `exec` alone. Safe. -/
  | notModelled (mnemonic : String)
  deriving DecidableEq, Repr

/-- What a step of the device answers. -/
abbrev Out := Host.Outcome State Fault Refusal

end Sys2Proof.Machine
end

