-- ==== Sys2Proof/Machine/Sparse.lean ====
section
/-! DEFINITION. Sparse tables: reading, writing and their canonical form; and bit-field helpers of a word. -/

namespace Sys2Proof.Machine

/-- The value a table holds at a key; `d` where the key is unlisted. -/
def SMap.get {α : Type} (d : α) : SMap α → Nat → α
  | [], _ => d
  | (k', v) :: m, k => if k = k' then v else SMap.get d m k

/-- The table with a key's entry set, keys kept rising. -/
def SMap.put {α : Type} : SMap α → Nat → α → SMap α
  | [], k, v => [(k, v)]
  | (k', v') :: m, k, v =>
    if k < k' then (k, v) :: (k', v') :: m
    else if k = k' then (k, v) :: m
    else (k', v') :: SMap.put m k v

/-- The table with a key's entry removed. -/
def SMap.erase {α : Type} : SMap α → Nat → SMap α
  | [], _ => []
  | (k', v') :: m, k => if k = k' then m else (k', v') :: SMap.erase m k

/-- Writes a value, listing nothing where it is the default `d`: the canonical form is kept. -/
def SMap.set {α : Type} [DecidableEq α] (d : α) (m : SMap α) (k : Nat) (v : α) : SMap α :=
  if v = d then SMap.erase m k else SMap.put m k v

/-- Every key of the table is above `lo`, and keys strictly rise. -/
def SMap.risingFrom {α : Type} : Option Nat → SMap α → Bool
  | _, [] => true
  | none, (k, _) :: m => SMap.risingFrom (some k) m
  | some lo, (k, _) :: m => decide (lo < k) && SMap.risingFrom (some k) m

/-- The canonical form: keys strictly rise and no entry holds the default. -/
def SMap.wf {α : Type} [DecidableEq α] (d : α) (m : SMap α) : Bool :=
  SMap.risingFrom none m && m.all (fun p => !decide (p.2 = d))

/-- The first entry of a list that satisfies a test, with its position. -/
def findIdx {α : Type} (p : α → Bool) : List α → Nat → Option (Nat × α)
  | [], _ => none
  | x :: xs, n => if p x then some (n, x) else findIdx p xs (n + 1)

/-- The list with its n-th element replaced. -/
def setNth {α : Type} : List α → Nat → α → List α
  | [], _, _ => []
  | _ :: xs, 0, v => v :: xs
  | x :: xs, n + 1, v => x :: setNth xs n v

/-- The list without its n-th element. -/
def dropNth {α : Type} : List α → Nat → List α
  | [], _ => []
  | _ :: xs, 0 => xs
  | x :: xs, n + 1 => x :: dropNth xs n

/-- Element i of a vector; `d` outside it. -/
def vget {α : Type} {n : Nat} (d : α) (v : Vector α n) (i : Nat) : α := v.toArray.getD i d

/-- The vector with element i replaced; unchanged outside it. -/
def vset {α : Type} {n : Nat} (v : Vector α n) (i : Nat) (x : α) : Vector α n := v.setIfInBounds i x

/-! ## Bit fields -/

/-- Bits `lo` to `lo + len − 1` of a word, as a number. -/
def fld (w : Word) (lo len : Nat) : Nat := w.toNat / 2 ^ lo % 2 ^ len

/-- Bit `n` of a word. -/
def bit (w : Word) (n : Nat) : Bool := w.getLsbD n

/-- The word with bits `lo` to `lo + len − 1` replaced by the low bits of `v`. -/
def setFld (w : Word) (lo len v : Nat) : Word :=
  let m : Word := BitVec.ofNat 64 ((2 ^ len - 1) * 2 ^ lo)
  (w &&& ~~~m) ||| (BitVec.ofNat 64 (v % 2 ^ len * 2 ^ lo))

/-- A word with one bit. -/
def bit1 (b : Bool) (n : Nat) : Word := if b then BitVec.ofNat 64 (2 ^ n) else 0

/-- Sign extension of the low `n` bits of a number to an exact integer (R6). -/
def sextInt (v n : Nat) : Int :=
  let x := v % 2 ^ n
  if x < 2 ^ (n - 1) then (x : Int) else (x : Int) - (2 ^ n : Nat)

/-- The word that holds an integer modulo 2^64. -/
def wordOf (n : Nat) : Word := BitVec.ofNat 64 n
def wordOfInt (i : Int) : Word := BitVec.ofInt 64 i

/-- The low `n` bits of `v`, sign-extended to a word (R6). -/
def sext (v n : Nat) : Word := wordOfInt (sextInt v n)

/-- Floor of the base-2 logarithm of a number; 0 for 0. -/
def log2Up : Nat → Nat → Nat → Nat
  | 0, _, r => r
  | i + 1, x, r => if 2 ^ (r + 2 ^ i) ≤ x then log2Up i x (r + 2 ^ i) else log2Up i x r

/-- Floor of the base-2 logarithm of a number below 2^65536; 0 for 0. -/
def ilog2 (x : Nat) : Nat := log2Up 16 x 0

/-- The largest `r` built from the bits below `2^i` with `(base + r)² ≤ x`. -/
def isqrtUp : Nat → Nat → Nat → Nat
  | 0, _, r => r
  | i + 1, x, r => if (r + 2 ^ i) * (r + 2 ^ i) ≤ x then isqrtUp i x (r + 2 ^ i) else isqrtUp i x r

/-- Floor of the square root. -/
def isqrt (x : Nat) : Nat := isqrtUp (ilog2 x / 2 + 1) x 0

end Sys2Proof.Machine
end

