-- ==== Sys2Proof/Machine/Numbers.lean ====
section
/-! DEFINITION. Floating-point and scale formats, rounding, conversion and exact arithmetic (spec/05_numbers.md,
R97–R109; spec/08_core_packed.md R155–R162). A finite value is a sign, a natural significand and an exponent:
(−1)^s × m × 2^e, exactly. Every result is formed exactly and rounded once (R106). -/

namespace Sys2Proof.Machine

/-- How a format ends at the top of its range (R97). -/
inductive TopKind where
  /-- infinity and NaNs at the largest exponent -/
  | ieee
  /-- `e4m3`: one NaN of each sign, no infinity -/
  | oneNan
  /-- `e2m1`: every code a number -/
  | none
  deriving DecidableEq, Repr

/-- A floating-point format (R97): width, mantissa width, bias, top of the range. -/
structure Fmt where
  width : Nat
  man   : Nat
  bias  : Nat
  top   : TopKind
  deriving DecidableEq, Repr

def Fmt.f64 : Fmt := ⟨64, 52, 1023, .ieee⟩
def Fmt.f32 : Fmt := ⟨32, 23, 127, .ieee⟩
def Fmt.f16 : Fmt := ⟨16, 10, 15, .ieee⟩
def Fmt.bf16 : Fmt := ⟨16, 7, 127, .ieee⟩
def Fmt.e5m2 : Fmt := ⟨8, 2, 15, .ieee⟩
def Fmt.e4m3 : Fmt := ⟨8, 3, 7, .oneNan⟩
def Fmt.e2m1 : Fmt := ⟨4, 1, 1, .none⟩

/-- The exponent field's width. -/
def Fmt.expw (f : Fmt) : Nat := f.width - 1 - f.man

/-- The largest finite magnitude's code without the sign (R97). -/
def Fmt.maxCode (f : Fmt) : Nat :=
  match f.top with
  | .ieee => (2 ^ f.expw - 1) * 2 ^ f.man - 1
  | .oneNan => 2 ^ (f.width - 1) - 2
  | .none => 2 ^ (f.width - 1) - 1

/-- The canonical NaN (R97); +0 for `e2m1`, which has none (R109). -/
def Fmt.canonNan (f : Fmt) : Nat :=
  match f.top with
  | .ieee => (2 ^ f.expw - 1) * 2 ^ f.man + 2 ^ (f.man - 1)
  | .oneNan => 2 ^ (f.width - 1) - 1
  | .none => 0

/-- The code of a signed quantity given its magnitude's code. -/
def Fmt.signed (f : Fmt) (neg : Bool) (mag : Nat) : Nat := if neg then 2 ^ (f.width - 1) + mag else mag

/-- The smallest exponent of a unit in the last place: 1 − bias − m. -/
def Fmt.qmin (f : Fmt) : Int := 1 - (f.bias : Int) - (f.man : Int)

/-- A value of a format (R98, R99). -/
inductive Fp where
  | nan (signalling : Bool)
  | inf (neg : Bool)
  | fin (neg : Bool) (m : Nat) (e : Int)
  deriving DecidableEq, Repr

/-- The value that a code of a format has (R98–R100). -/
def Fmt.decode (f : Fmt) (code : Nat) : Fp :=
  let neg := code / 2 ^ (f.width - 1) % 2 == 1
  let e := code / 2 ^ f.man % 2 ^ f.expw
  let m := code % 2 ^ f.man
  if f.top == .ieee && e == 2 ^ f.expw - 1 then
    if m == 0 then .inf neg else .nan (m < 2 ^ (f.man - 1))
  else if f.top == .oneNan && code % 2 ^ (f.width - 1) == 2 ^ (f.width - 1) - 1 then .nan false
  else if e == 0 then .fin neg m f.qmin
  else .fin neg (2 ^ f.man + m) (f.qmin + ((e : Int) - 1))

/-- The sticky flags NV, DZ, OF, UF, NX in bits 0–4, as in FPS (R126). -/
abbrev Flags := BitVec 5

def flNV : Flags := 0b00001
def flDZ : Flags := 0b00010
def flOF : Flags := 0b00100
def flUF : Flags := 0b01000
def flNX : Flags := 0b10000

/-- A rounded result: its code and the flags it raises. -/
structure Rounded where
  code  : Nat
  flags : Flags
  deriving DecidableEq, Repr

/-- The rounding modes, coded as in F[3:2] (R54, R106): 0 rne, 1 rz, 2 rdn, 3 rup. Whether a magnitude with lower part
`n`, a remainder `r` of `d` units and sign `neg` moves to `n + 1`. -/
def roundsUp (mode : BitVec 2) (neg : Bool) (n r d : Nat) : Bool :=
  match mode.toNat with
  | 0 => decide (2 * r > d) || (decide (2 * r = d) && n % 2 == 1)
  | 1 => false
  | 2 => neg && decide (r ≠ 0)
  | _ => !neg && decide (r ≠ 0)

/-- `m × 2^e` rounded to a multiple of 2^q: the multiple, and whether the result is inexact. -/
def roundAt (mode : BitVec 2) (neg : Bool) (m : Nat) (e q : Int) : Nat × Bool :=
  if q ≤ e then (m * 2 ^ (e - q).toNat, false)
  else
    let d := 2 ^ (q - e).toNat
    let n := m / d
    let r := m % d
    (if roundsUp mode neg n r d then n + 1 else n, decide (r ≠ 0))

/-- The code an overflow delivers (R106, R107). -/
def Fmt.overflow (f : Fmt) (mode : BitVec 2) (sat neg : Bool) : Nat :=
  let toMax := sat || mode = 1#2 || (mode = 2#2 && !neg) || (mode = 3#2 && neg)
  if toMax then f.signed neg f.maxCode
  else match f.top with
    | .ieee => f.signed neg (f.maxCode + 1)
    | .oneNan => f.canonNan
    | .none => f.signed neg f.maxCode

/-- A finite non-zero value `(−1)^neg × m × 2^e` rounded once to a format (R106–R108). -/
def Fmt.round (f : Fmt) (mode : BitVec 2) (sat neg : Bool) (m : Nat) (e : Int) : Rounded :=
  if m = 0 then ⟨f.signed neg 0, 0⟩ else
  let top : Int := (ilog2 m : Int) + e
  let q0 := top - (f.man : Int)
  let q := max q0 f.qmin
  let (n, inexact) := roundAt mode neg m e q
  let code := ((n : Int) + (q - f.qmin) * (2 ^ f.man : Nat)).toNat
  if f.maxCode < code then ⟨f.overflow mode sat neg, flOF ||| flNX⟩
  else
    let (n0, _) := roundAt mode neg m e q0
    -- tiny: with no lower limit the magnitude stays below 2^(1 − bias)
    let tiny := decide ((n0 : Int) * 2 ^ (q0 - min q0 f.qmin).toNat
      < 2 ^ (f.qmin + (f.man : Int) - min q0 f.qmin).toNat)
    ⟨f.signed neg code, (if inexact then flNX else 0) ||| (if inexact && tiny then flUF else 0)⟩

/-- An infinite operand converted to a format (R109). -/
def Fmt.ofInf (f : Fmt) (sat neg : Bool) : Rounded :=
  match f.top with
  | .ieee => ⟨f.signed neg (if sat then f.maxCode else f.maxCode + 1), 0⟩
  | .oneNan => if sat then ⟨f.signed neg f.maxCode, 0⟩ else ⟨f.canonNan, flNV⟩
  | .none => ⟨f.signed neg f.maxCode, if sat then 0 else flNV⟩

/-- A NaN result of arithmetic: the canonical NaN, with NV when an operand signals or the operation is invalid (R99). -/
def Fmt.nanResult (f : Fmt) (invalid : Bool) : Rounded := ⟨f.canonNan, if invalid then flNV else 0⟩

/-- A value converted to a format (R109). `e2m1` has no NaN: +0 with NV. -/
def Fmt.convert (f : Fmt) (mode : BitVec 2) (sat : Bool) : Fp → Rounded
  | .nan sig => if f.top = .none then ⟨0, flNV⟩ else ⟨f.canonNan, if sig then flNV else 0⟩
  | .inf neg => f.ofInf sat neg
  | .fin neg m e => f.round mode sat neg m e

/-- The sign of an exact zero sum: of like-signed zeros their sign, else + except under rdn (R108). -/
def zeroSign (mode : BitVec 2) (n1 n2 : Bool) : Bool := if n1 == n2 then n1 else mode = 2#2

/-- A signed dyadic number `z × 2^e`. -/
structure Dyad where
  z : Int
  e : Int
  deriving DecidableEq, Repr

def Dyad.zero : Dyad := ⟨0, 0⟩

/-- `(−1)^neg × m × 2^e` as a dyadic number. -/
def Dyad.of (neg : Bool) (m : Nat) (e : Int) : Dyad := ⟨if neg then -(m : Int) else m, e⟩

/-- The exact sum. -/
def Dyad.add (x y : Dyad) : Dyad :=
  if x.z = 0 then y else if y.z = 0 then x else
  let e := min x.e y.e
  ⟨x.z * 2 ^ (x.e - e).toNat + y.z * 2 ^ (y.e - e).toNat, e⟩

/-- The exact product. -/
def Dyad.mul (x y : Dyad) : Dyad := ⟨x.z * y.z, x.e + y.e⟩

/-- The negation. -/
def Dyad.neg (x : Dyad) : Dyad := ⟨-x.z, x.e⟩

/-- A dyadic number rounded to a format; `zneg` is the sign that an exact zero takes. -/
def Fmt.ofDyad (f : Fmt) (mode : BitVec 2) (sat zneg : Bool) (x : Dyad) : Rounded :=
  if x.z = 0 then ⟨f.signed zneg 0, 0⟩ else f.round mode sat (decide (x.z < 0)) x.z.natAbs x.e

def Fp.isSnan : Fp → Bool
  | .nan s => s
  | _ => false

def Fp.isNan : Fp → Bool
  | .nan _ => true
  | _ => false

/-! ## The operations on one lane (R155–R162) -/

/-- a + b (R155). -/
def Fmt.add (f : Fmt) (mode : BitVec 2) (sat : Bool) (a b : Fp) : Rounded :=
  match a, b with
  | .nan s, y => f.nanResult (s || y.isSnan)
  | x, .nan s => f.nanResult (s || x.isSnan)
  | .inf n1, .inf n2 => if n1 == n2 then f.ofInf sat n1 else f.nanResult true
  | .inf n, _ => f.ofInf sat n
  | _, .inf n => f.ofInf sat n
  | .fin n1 m1 e1, .fin n2 m2 e2 =>
    f.ofDyad mode sat (zeroSign mode n1 n2) ((Dyad.of n1 m1 e1).add (Dyad.of n2 m2 e2))

/-- The value with its sign inverted. -/
def Fp.negate : Fp → Fp
  | .nan s => .nan s
  | .inf n => .inf (!n)
  | .fin n m e => .fin (!n) m e

/-- a − b (R155). -/
def Fmt.sub (f : Fmt) (mode : BitVec 2) (sat : Bool) (a b : Fp) : Rounded := f.add mode sat a b.negate

/-- a × b (R155). -/
def Fmt.mul (f : Fmt) (mode : BitVec 2) (sat : Bool) (a b : Fp) : Rounded :=
  match a, b with
  | .nan s, y => f.nanResult (s || y.isSnan)
  | x, .nan s => f.nanResult (s || x.isSnan)
  | .inf n1, .inf n2 => f.ofInf sat (xor n1 n2)
  | .inf n1, .fin n2 m _ => if m = 0 then f.nanResult true else f.ofInf sat (xor n1 n2)
  | .fin n1 m _, .inf n2 => if m = 0 then f.nanResult true else f.ofInf sat (xor n1 n2)
  | .fin n1 m1 e1, .fin n2 m2 e2 =>
    if m1 * m2 = 0 then ⟨f.signed (xor n1 n2) 0, 0⟩ else f.round mode sat (xor n1 n2) (m1 * m2) (e1 + e2)

/-- a × b + c, rounded once (R156). -/
def Fmt.fma (f : Fmt) (mode : BitVec 2) (sat : Bool) (a b c : Fp) : Rounded :=
  let snan := a.isSnan || b.isSnan || c.isSnan
  -- the exact product, where it is finite
  let prod : Option Fp :=
    match a, b with
    | .nan _, _ => none
    | _, .nan _ => none
    | .inf n1, .inf n2 => some (.inf (xor n1 n2))
    | .inf n1, .fin n2 m _ => if m = 0 then some (.nan true) else some (.inf (xor n1 n2))
    | .fin n1 m _, .inf n2 => if m = 0 then some (.nan true) else some (.inf (xor n1 n2))
    | .fin n1 m1 e1, .fin n2 m2 e2 => some (.fin (xor n1 n2) (m1 * m2) (e1 + e2))
  match prod with
  | none => f.nanResult snan
  | some (.nan _) => f.nanResult true
  | some p => if c.isNan then f.nanResult snan else f.add mode sat p c

/-- The significand with at least 130 bits, and the exponent that keeps the value. -/
def widen (m : Nat) (e : Int) : Nat × Int :=
  let k := 130 - ilog2 m
  (m * 2 ^ k, e - (k : Int))

/-- A quotient or root `n × 2^e` with something left over, as a dyadic value that rounds as the true value does. -/
def withRest (n : Nat) (e : Int) (rest : Bool) : Nat × Int := if rest then (2 * n + 1, e - 1) else (n, e)

/-- A division by zero (R155, R157): an infinity with DZ; in `e4m3` the canonical NaN, or the largest with `sat`. -/
def Fmt.divZero (f : Fmt) (sat neg : Bool) : Rounded := ⟨(f.ofInf sat neg).code, flDZ⟩

/-- a ÷ b (R155). -/
def Fmt.div (f : Fmt) (mode : BitVec 2) (sat : Bool) (a b : Fp) : Rounded :=
  match a, b with
  | .nan s, y => f.nanResult (s || y.isSnan)
  | x, .nan s => f.nanResult (s || x.isSnan)
  | .inf _, .inf _ => f.nanResult true
  | .inf n1, .fin n2 _ _ => f.ofInf sat (xor n1 n2)
  | .fin n1 _ _, .inf n2 => ⟨f.signed (xor n1 n2) 0, 0⟩
  | .fin n1 m1 e1, .fin n2 m2 e2 =>
    if m2 = 0 then (if m1 = 0 then f.nanResult true else f.divZero sat (xor n1 n2))
    else if m1 = 0 then ⟨f.signed (xor n1 n2) 0, 0⟩
    else
      let (m1', e1') := widen m1 e1
      let (n, e) := withRest (m1' / m2) (e1' - e2) (m1' % m2 != 0)
      f.round mode sat (xor n1 n2) n e

/-- √a (R157). -/
def Fmt.sqrt (f : Fmt) (mode : BitVec 2) (sat : Bool) : Fp → Rounded
  | .nan s => f.nanResult s
  | .inf n => if n then f.nanResult true else f.ofInf sat false
  | .fin neg m e =>
    if m = 0 then ⟨f.signed neg 0, 0⟩ else if neg then f.nanResult true else
    let (m1, e1) := widen m e
    let (m2, e2) := if e1 % 2 = 0 then (m1, e1) else (2 * m1, e1 - 1)
    let r := isqrt m2
    let (n, e') := withRest r (e2 / 2) (r * r != m2)
    f.round mode sat false n e'

/-- 1 ÷ a (R157). -/
def Fmt.rcp (f : Fmt) (mode : BitVec 2) (sat : Bool) (a : Fp) : Rounded := f.div mode sat (.fin false 1 0) a

/-- 1 ÷ √a (R157). -/
def Fmt.rsqrt (f : Fmt) (mode : BitVec 2) (sat : Bool) : Fp → Rounded
  | .nan s => f.nanResult s
  | .inf n => if n then f.nanResult true else ⟨f.signed false 0, 0⟩
  | .fin neg m e =>
    if m = 0 then f.divZero sat neg else if neg then f.nanResult true else
    let (m2, e2) := if e % 2 = 0 then (m, e) else (2 * m, e - 1)
    let k := 130 + ilog2 m2
    let r := isqrt (2 ^ (2 * k) / m2)
    let (n, e') := withRest r (-(k : Int) - e2 / 2) (r * r * m2 != 2 ^ (2 * k))
    f.round mode sat false n e'

/-- Precision, in bits, of the computation of 2^a. PRESUMED enough for every operand of every format (log 8). -/
def exp2Bits : Nat := 320

/-- The product of 2^(2^−i) over the set bits of a fraction, from the bit of weight 1/2 down, rounded down at
`exp2Bits`; `root` is 2^(2^−i). -/
def exp2Loop : Nat → Nat → Nat → Nat → Nat
  | 0, _, _, acc => acc
  | i + 1, fracBits, root, acc =>
    let acc' := if fracBits / 2 ^ i % 2 = 1 then acc * root / 2 ^ exp2Bits else acc
    exp2Loop i fracBits (isqrt (root * 2 ^ exp2Bits)) acc'

/-- 2^a (R157): exact for integral a; otherwise irrational, so never representable and never a tie. -/
def Fmt.exp2 (f : Fmt) (mode : BitVec 2) (sat : Bool) : Fp → Rounded
  | .nan s => f.nanResult s
  | .inf n => if n then ⟨f.signed false 0, 0⟩ else f.ofInf sat false
  | .fin neg m e =>
    let d := Dyad.of neg m e
    if 0 ≤ e then
      -- an integral exponent; a huge one is far outside every range
      let x : Int := d.z * 2 ^ (min e.toNat 20)
      let x := max (-1000000) (min 1000000 x)
      f.round mode sat false 1 x
    else
      let k := (-e).toNat
      let whole := d.z / (2 ^ k : Nat)
      let frac := (d.z % (2 ^ k : Nat)).toNat
      let whole := max (-1000000) (min 1000000 whole)
      if frac = 0 then f.round mode sat false 1 whole
      else
        -- the fraction's first 300 bits, rounded down
        let fb := if k ≤ 300 then frac * 2 ^ (300 - k) else frac / 2 ^ (k - 300)
        let r := exp2Loop 300 fb (isqrt (2 * 2 ^ exp2Bits * 2 ^ exp2Bits)) (2 ^ exp2Bits)
        f.round mode sat false (2 * r + 1) (whole - (exp2Bits : Int) - 1)

/-- The integral value a mode selects from `(−1)^neg × m × 2^e`, and whether it differs. -/
def integralOf (mode : BitVec 2) (neg : Bool) (m : Nat) (e : Int) : Nat × Bool := roundAt mode neg m e 0

/-- fround (R157): the sign is kept. -/
def Fmt.fround (f : Fmt) (mode : BitVec 2) (code : Nat) : Rounded :=
  match f.decode code with
  | .nan s => f.nanResult s
  | .inf _ => ⟨code, 0⟩
  | .fin neg m e =>
    if m = 0 then ⟨code, 0⟩ else
    let (n, inexact) := integralOf mode neg m e
    if !inexact then ⟨code, 0⟩ else ⟨(f.round 1#2 false neg n 0).code, flNX⟩

/-- a × 2^k (R158). A |k| beyond every format's range is cut, which changes no result. -/
def Fmt.scale (f : Fmt) (mode : BitVec 2) (sat : Bool) (k : Int) : Fp → Rounded
  | .nan s => f.nanResult s
  | .inf n => f.ofInf sat n
  | .fin neg m e =>
    if m = 0 then ⟨f.signed neg 0, 0⟩ else f.round mode sat neg m (e + max (-10000) (min 10000 k))

/-- a < b on values that are not NaN; −0 equals +0. -/
def Fp.lt (a b : Fp) : Bool :=
  match a, b with
  | .nan _, _ => false
  | _, .nan _ => false
  | .inf n1, .inf n2 => n1 && !n2
  | .inf n, _ => n
  | _, .inf n => !n
  | .fin n1 m1 e1, .fin n2 m2 e2 =>
    decide (((Dyad.of n1 m1 e1).add (Dyad.of n2 m2 e2).neg).z < 0)

/-- a = b on values that are not NaN; −0 equals +0. -/
def Fp.eq (a b : Fp) : Bool := !a.isNan && !b.isNan && !a.lt b && !b.lt a

def Fp.signBit : Fp → Bool
  | .nan _ => false
  | .inf n => n
  | .fin n _ _ => n

/-- Whether operand a is taken by minimumNumber before b: −0 below +0 (R155). -/
def Fp.minTakesA (a b : Fp) : Bool := a.lt b || (!b.lt a && (a.signBit || !b.signBit))

/-- minimumNumber and maximumNumber on codes (R155): the operand's own bits, or the canonical NaN with NV. -/
def Fmt.minMax (f : Fmt) (isMax : Bool) (ca cb : Nat) : Rounded :=
  match f.decode ca, f.decode cb with
  | .nan s1, .nan s2 => let _ := s1 && s2; f.nanResult true
  | .nan s, _ => if s then f.nanResult true else ⟨cb, 0⟩
  | _, .nan s => if s then f.nanResult true else ⟨ca, 0⟩
  | a, b =>
    let takeA := if isMax then b.minTakesA a || (a.eq b && !a.signBit) else a.minTakesA b
    ⟨if takeA then ca else cb, 0⟩

/-- The predicates of fcmp (R161), coded as PRED 0–5, with NV. -/
def fcmpHolds (pred : Nat) (a b : Fp) : Bool × Flags :=
  let un := a.isNan || b.isNan
  let snan := a.isSnan || b.isSnan
  let nv (q : Bool) : Flags := if q then flNV else 0
  match pred with
  | 0 => (!un && a.eq b, nv snan)
  | 1 => (un || !a.eq b, nv snan)
  | 2 => (!un && a.lt b, nv un)
  | 3 => (!un && !b.lt a, nv un)
  | 4 => (un, nv snan)
  | _ => (!un, nv snan)

/-- The class of a code (R162). -/
def Fmt.classOf (f : Fmt) (code : Nat) : Nat :=
  match f.decode code with
  | .nan s => if s then 8 else 9
  | .inf n => if n then 0 else 7
  | .fin neg m _ =>
    let sub := decide (m < 2 ^ f.man)
    if m = 0 then (if neg then 3 else 4)
    else if neg then (if sub then 2 else 1) else (if sub then 5 else 6)

/-- A value converted to an integer of `w` bits (R109). -/
def toInteger (w : Nat) (uns : Bool) (mode : BitVec 2) : Fp → Nat × Flags
  | .nan _ => (0, flNV)
  | .inf n =>
    let hi : Int := if uns then 2 ^ w - 1 else 2 ^ (w - 1) - 1
    let lo : Int := if uns then 0 else -(2 ^ (w - 1) : Nat)
    (((if n then lo else hi) % (2 ^ w : Nat)).toNat, flNV)
  | .fin neg m e =>
    let hi : Int := if uns then 2 ^ w - 1 else 2 ^ (w - 1) - 1
    let lo : Int := if uns then 0 else -(2 ^ (w - 1) : Nat)
    let (n, inexact) := integralOf mode neg m e
    let v : Int := if neg then -(n : Int) else n
    if v < lo then ((lo % (2 ^ w : Nat)).toNat, flNV)
    else if hi < v then ((hi % (2 ^ w : Nat)).toNat, flNV)
    else ((v % (2 ^ w : Nat)).toNat, if inexact then flNX else 0)

/-- An integer of `w` bits converted to a format (R109, R165). -/
def Fmt.ofInteger (f : Fmt) (w : Nat) (uns : Bool) (mode : BitVec 2) (v : Nat) : Rounded :=
  let i : Int := if uns then (v % 2 ^ w : Nat) else sextInt v w
  f.ofDyad mode false false ⟨i, 0⟩

/-! ## Formats by code (R55) and packed words (R105) -/

/-- The format that a code names and its elements per word (R55); none for 000. -/
def fmtOf (code : Nat) : Option Fmt :=
  match code with
  | 1 => some .f64
  | 2 => some .f32
  | 3 => some .bf16
  | 4 => some .f16
  | 5 => some .e4m3
  | 6 => some .e5m2
  | 7 => some .e2m1
  | _ => none

/-- Elements per word of a format (R55). -/
def Fmt.lanes (f : Fmt) : Nat := 64 / f.width

/-- Lane i of a packed word of lane width w (R105). -/
def lane (x : Word) (w i : Nat) : Nat := x.toNat / 2 ^ (w * i) % 2 ^ w

/-- A packed word from its lanes, lane 0 first (R105). -/
def packLanes (w : Nat) : List Nat → Nat
  | [] => 0
  | x :: xs => x % 2 ^ w + 2 ^ w * packLanes w xs

/-- The word that holds lanes of width w. -/
def ofLanes (w : Nat) (xs : List Nat) : Word := BitVec.ofNat 64 (packLanes w xs)

/-- The lanes of a word. -/
def lanesOf (w : Nat) (x : Word) : List Nat := (List.range (64 / w)).map (lane x w)

end Sys2Proof.Machine
end

