-- ==== Sys2Proof/Machine/Atomic.lean ====
section
/-! DEFINITION. The operations that an atomic applies at a home (spec/09_core_memory.md, R191, R193). -/

namespace Sys2Proof.Machine

/-- An operation code of R191 that is reserved with a size: 1111, and the `f64` operations at 32 bits. -/
def amoReserved (op : BitVec 4) (narrow : Bool) : Bool := op == 15#4 || (narrow && decide (12 ≤ op.toNat))

/-- An integer operation on `n`-bit values. -/
def amoInt (op : BitVec 4) (n old b : Nat) : Nat :=
  let lo := old % 2 ^ n
  let b := b % 2 ^ n
  match op.toNat with
  | 0 => (lo + b) % 2 ^ n
  | 1 => lo &&& b
  | 2 => lo ||| b
  | 3 => lo ^^^ b
  | 4 => if sextInt lo n ≤ sextInt b n then lo else b
  | 5 => if sextInt b n ≤ sextInt lo n then lo else b
  | 6 => min lo b
  | 7 => max lo b
  | _ => b

/-- A floating-point operation on one element: rne, never saturating, canonical NaNs (R193). -/
def amoFp (f : Fmt) (op old b : Nat) : Rounded :=
  match op with
  | 0 => f.add 0 false (f.decode old) (f.decode b)
  | 1 => f.minMax false old b
  | _ => f.minMax true old b

/-- The new value and the flags of an atomic of `size` bytes (R191): `fadd`, `fmin`, `fmax` work on `f32` lanes. -/
def amoNew (op : BitVec 4) (size : Nat) (old b : Nat) : Nat × Flags :=
  if op.toNat < 9 then (amoInt op (8 * size) old b, 0)
  else if op.toNat < 12 then
    let lo := amoFp Fmt.f32 (op.toNat - 9) (old % 2 ^ 32) (b % 2 ^ 32)
    if size = 4 then (lo.code, lo.flags)
    else
      let hi := amoFp Fmt.f32 (op.toNat - 9) (old / 2 ^ 32 % 2 ^ 32) (b / 2 ^ 32 % 2 ^ 32)
      (lo.code + hi.code * 2 ^ 32, lo.flags ||| hi.flags)
  else
    let r := amoFp Fmt.f64 (op.toNat - 12) (old % 2 ^ 64) (b % 2 ^ 64)
    (r.code, r.flags)

/-- The flags NV, OF, UF, NX of an atomic status word (R193, R275, R385). -/
def astatFlags (f : Flags) : BitVec 4 :=
  BitVec.ofBool (f.getLsbD 4) ++ BitVec.ofBool (f.getLsbD 3) ++ BitVec.ofBool (f.getLsbD 2) ++ BitVec.ofBool (f.getLsbD 0)

end Sys2Proof.Machine
end

