-- ==== Sys2Proof/Config.lean ====
section
/-! DEFINITION. What the manual leaves to an implementation, and the free values. None of these constants has a body,
so no proof can see its value and a claim holds whatever the value is. -/

namespace Sys2Proof.Config

/-- Cycles that the n-th step of the device takes (cycle counts never change a result, R145). Log 5. -/
opaque stepCycles : Nat → Nat

/-- Nanoseconds of device time that the n-th step takes (R406). Log 5. -/
opaque stepNs : Nat → Nat

/-- The n-th free word: a value the manual does not state. Log 4. -/
opaque freeWord : Nat → Word

/-- Whether the n-th fetch that finds a copy in the instruction buffer takes the copy (R12). Log 6. -/
opaque takesCopy : Nat → Bool

/-- Whether a 64 KiB page whose entries disagree is translated by the first entry of its set (R33). Log 7. -/
opaque firstOfSet : Nat → Bool

/-- The n-th word of ring-oscillator entropy (R386). Log 4. -/
opaque entropy : Nat → Word

/-- The n-th free choice among candidates (R94, R262, R411), taken modulo their number. Logs 18, 24, 27. -/
opaque pick : Nat → Nat

/-- Which members an inconsistent multicast delivers to (R301). Log 20. -/
opaque reaches : Nat → Bool

/-- Whether, at a moment, a peer does not export an external address, or the host no longer maps it (R410, R412). Log 80. -/
opaque extWithdrawn : Nat → Nat → Bool

/-- The Ed25519 public keys that the kiosk's configuration accepts (R92, R93). Log 10. -/
opaque acceptedKeys : List (List Byte)

/-- The private key of the device's identity (R421). Log 10. -/
opaque identityKey : List Byte

/-- The SHA-512 digest of the kiosk firmware (R421). Log 10. -/
opaque firmwareDigest : List Byte

/-- The SHA-512 digest of the configuration blob (R421). Log 10. -/
opaque configDigest : List Byte

/-- The kiosk firmware version that QUERY reports (R417). Log 10. -/
opaque firmwareVersion : Word

/-- Granules of the launch arena that the kiosk gives a partition (R411). Log 22. -/
opaque arenaGranules : Nat

end Sys2Proof.Config
end

