-- ==== Sys2Proof/Machine/Parts.lean ====
section
/-! DEFINITION. Reading and changing the parts of the device: cores, cluster engines, routers, dies, stacks, partitions,
launches and stages; the numbering of R7, R8 and R11; free values; and passing causes to the kiosk (R418). -/

namespace Sys2Proof.Machine

/-! ## Parts -/

def State.core (s : State) (c : Nat) : Core := SMap.get Core.reset s.cores c
def State.setCore (s : State) (c : Nat) (k : Core) : State := { s with cores := SMap.put s.cores c k }
def State.updCore (s : State) (c : Nat) (f : Core → Core) : State := s.setCore c (f (s.core c))

/-- The core whose turn it is. -/
def State.me (s : State) : Core := s.core s.cur
def State.updMe (s : State) (f : Core → Core) : State := s.updCore s.cur f

/-- The context of the running code of the core whose turn it is. -/
def State.ctx (s : State) : Ctx := s.me.ctx
def State.updCtx (s : State) (f : Ctx → Ctx) : State := s.updMe fun k => { k with ctx := f k.ctx }

def State.cluster (s : State) (c : Nat) : Cluster := SMap.get Cluster.reset s.clusters c
def State.updCluster (s : State) (c : Nat) (f : Cluster → Cluster) : State :=
  { s with clusters := SMap.put s.clusters c (f (s.cluster c)) }

def State.router (s : State) (c : Nat) : Router := SMap.get Router.reset s.routers c
def State.updRouter (s : State) (c : Nat) (f : Router → Router) : State :=
  { s with routers := SMap.put s.routers c (f (s.router c)) }

def State.die (s : State) (d : Nat) : Die := SMap.get Die.reset s.dies d
def State.updDie (s : State) (d : Nat) (f : Die → Die) : State :=
  { s with dies := SMap.put s.dies d (f (s.die d)) }

def State.stack (s : State) (n : Nat) : Stack := SMap.get Stack.reset s.stackEngines n
def State.updStack (s : State) (n : Nat) (f : Stack → Stack) : State :=
  { s with stackEngines := SMap.put s.stackEngines n (f (s.stack n)) }

def State.part (s : State) (p : Nat) : Partition := SMap.get Partition.none s.parts p
def State.updPart (s : State) (p : Nat) (f : Partition → Partition) : State :=
  { s with parts := SMap.put s.parts p (f (s.part p)) }

/-- The entry of a table, if it is listed. -/
def SMap.find {α : Type} : SMap α → Nat → Option α
  | [], _ => none
  | (k', v) :: m, k => if k = k' then some v else SMap.find m k

def State.launch? (s : State) (k : Nat) : Option Launch := SMap.find s.launches k
def State.setLaunch (s : State) (k : Nat) (l : Launch) : State := { s with launches := SMap.put s.launches k l }
def State.updLaunch (s : State) (k : Nat) (f : Launch → Launch) : State :=
  match s.launch? k with
  | some l => s.setLaunch k (f l)
  | none => s

def State.stage? (s : State) (k : Nat) : Option Stage := SMap.find s.stages k
def State.setStage (s : State) (k : Nat) (g : Stage) : State := { s with stages := SMap.put s.stages k g }
def State.updStage (s : State) (k : Nat) (f : Stage → Stage) : State :=
  match s.stage? k with
  | some g => s.setStage k (f g)
  | none => s

/-! ## Numbering -/

/-- The cluster of a core: die × 256 + cluster (R11). -/
def clusterOf (core : Nat) : Nat := core / 16

/-- The die of a core (R11). -/
def dieOf (core : Nat) : Nat := core / 4096

/-- A cluster's index in the configuration blob and in requests: die × 192 + cluster (R417, R420). -/
def blobIndex (cl : Nat) : Nat := cl / 256 * 192 + cl % 256

/-- The cluster that an index of R417 names. -/
def clusterOfIndex (i : Nat) : Nat := i / 192 * 256 + i % 192

/-- The cluster exists: cluster field values 192–255 name none (R11). -/
def clusterExists (cl : Nat) : Bool := decide (cl < 1024) && decide (cl % 256 < 192)

/-- The cluster exists and its cores are enabled (R10, R420). -/
def State.clusterLive (s : State) (cl : Nat) : Bool := clusterExists cl && !s.blob.clusters.contains (blobIndex cl)

/-- The core exists and is enabled. -/
def State.coreLive (s : State) (c : Nat) : Bool := s.clusterLive (clusterOf c)

/-- Clusters whose engines are live, in rising order (R35). -/
def State.liveClusters (s : State) : List Nat :=
  ((List.range 768).map clusterOfIndex).filter s.clusterLive

/-- LIVECE (R26): the number of live cluster engines. The blob lists each disabled cluster once. -/
def State.liveCe (s : State) : Nat := 768 - (s.blob.clusters.filter fun i => decide (i < 768)).length

/-- The mesh position of a cluster (R7, R11). -/
def meshX (cl : Nat) : Nat := cl / 256 % 2 * 16 + cl % 16
def meshY (cl : Nat) : Nat := cl / 512 * 12 + cl % 256 / 16

/-- The cluster at a mesh position. -/
def clusterAt (x y : Nat) : Nat := (y / 12 * 2 + x / 16) * 256 + y % 12 * 16 + x % 16

/-- The core that a port of a core faces; none at the mesh boundary (R11). -/
def neighbour (core : Nat) (p : Port) : Option Nat :=
  let cl := clusterOf core
  let col := core % 4
  let row := core % 16 / 4
  let x := meshX cl
  let y := meshY cl
  match p with
  | .n => if 0 < row then some (core - 4) else if 0 < y then some (clusterAt x (y - 1) * 16 + 12 + col) else none
  | .s => if row < 3 then some (core + 4) else if y < 23 then some (clusterAt x (y + 1) * 16 + col) else none
  | .w => if 0 < col then some (core - 1) else if 0 < x then some (clusterAt (x - 1) y * 16 + row * 4 + 3) else none
  | .e => if col < 3 then some (core + 1) else if x < 31 then some (clusterAt (x + 1) y * 16 + row * 4) else none

/-- The FIFO of the neighbour that a write to a port fills (R123). -/
def oppositePort : Port → Port
  | .n => .s
  | .e => .w
  | .s => .n
  | .w => .e

/-- The TINFO of PORT_TIMEOUT (R225). -/
def portIndex : Port → Nat
  | .n => 0
  | .e => 1
  | .s => 2
  | .w => 3

def Core.fifo (k : Core) : Port → List Word
  | .n => k.fifoN
  | .e => k.fifoE
  | .s => k.fifoS
  | .w => k.fifoW

def Core.setFifo (k : Core) (p : Port) (f : List Word) : Core :=
  match p with
  | .n => { k with fifoN := f }
  | .e => { k with fifoE := f }
  | .s => { k with fifoS := f }
  | .w => { k with fifoW := f }

/-- The cores of a partition, in rising order. -/
def State.partCores (s : State) (p : Nat) : List Nat :=
  ((s.part p).clusters.map fun cl => (List.range 16).map fun i => cl * 16 + i).flatten

/-- The core is an enabled core of the partition. -/
def State.inPart (s : State) (p core : Nat) : Bool :=
  s.coreLive core && (s.core core).pid.toNat == p &&
    ((s.part p).clusters.contains (clusterOf core) || !(s.part p).exists?)

/-- The neighbour that port traffic reaches: enabled and in the same partition (R123). -/
def State.portPeer (s : State) (core : Nat) (p : Port) : Option Nat :=
  match neighbour core p with
  | some c => if s.inPart (s.core core).pid.toNat c then some c else none
  | none => none

/-! ## Free values, causes passed on -/

/-- A free word (log 4). -/
def State.fresh (s : State) : Word × State := (Config.freeWord s.free, { s with free := s.free + 1 })

/-- A free word, or the dispatcher's, loader's or host's free choice below `n`. -/
def State.choose (s : State) (n : Nat) : Nat × State := (Config.pick s.free % n, { s with free := s.free + 1 })

/-- The least of a number and a field's greatest value. -/
def sat (max v : Nat) : Nat := min max v

/-- An event record for the kiosk (R418): kind, cause, core, partition, address, information. -/
def State.event (s : State) (kind : Nat) (c : Option Cause) (core : Option Nat) (part : Option Nat) (addr info : Word) :
    State :=
  let code := match c with
    | some c => c.code.toNat
    | none => 0
  let w0 := code + kind * 2 ^ 8 + (core.getD 0x3FFF) * 2 ^ 16 + (part.getD 0) % 16 * 2 ^ 30
  let ev : Event := ⟨BitVec.ofNat 64 w0, addr, info, BitVec.ofNat 64 s.ns, part⟩
  { s with kiosk := { s.kiosk with events := s.kiosk.events ++ [ev] } }

/-- A cause of a core's code or commands passed to the kiosk: event kind 1 (R418). -/
def State.toKiosk (s : State) (core : Nat) (c : Cause) (addr info : Word) : State :=
  s.event 1 (some c) (some core) (some (s.core core).pid.toNat) addr info

/-- A cause recorded in a cluster engine's CEFAULT and passed to the kiosk (R275, R277). -/
def State.ceFault (s : State) (core : Nat) (c : Cause) (addr info : Word) : State :=
  let s := s.updCluster (clusterOf core) fun k =>
    { k with cefault := setFld (setFld k.cefault 0 8 c.code.toNat) 8 24 (sat (2 ^ 24 - 1) (fld k.cefault 8 24 + 1)) }
  s.toKiosk core c addr info

/-- A cause recorded in a stack's SFAULT and passed to the kiosk (R385, R402). -/
def State.sFault (s : State) (stack : Nat) (core : Option Nat) (part : Option Nat) (c : Cause) (addr info : Word) :
    State :=
  let s := s.updStack stack fun k =>
    { k with sfault := setFld (setFld k.sfault 0 8 c.code.toNat) 8 24 (sat (2 ^ 24 - 1) (fld k.sfault 8 24 + 1)) }
  s.event 1 (some c) core part addr info

end Sys2Proof.Machine
end

