-- ==== Sys2Proof/Machine/Phys.lean ====
section
/-! DEFINITION. The physical map (spec/02_addresses.md, R20–R27), and the bytes, tags and poison that it holds. Memory,
tags and poison are keyed by a canonical address: the linear view of a scratchpad word, the stack-linear address of an HBM
byte, the address itself elsewhere. -/

namespace Sys2Proof.Machine

/-- What a physical address names (R20): a scratchpad byte, an HBM byte, a control-space byte, an external byte; `away`, an
external byte that will not be had, with the cause that an access to it meets (R410). -/
inductive Place where
  | spad (k : Nat)
  | hbm (k : Nat)
  | ctl (pa : Nat)
  | ext (pa : Nat)
  | away (pa : Nat) (why : Cause)
  | nowhere
  deriving DecidableEq, Repr

def spadBase : Nat := 0x200000000000
def hbmBase : Nat := 0x10000000000
def ctlBase : Nat := 0x300000000000
def extBase : Nat := 0x8000000000000
/-- Virtual addresses of the local aliases start here (R25). -/
def aliasBase : Nat := 0x00FF000000000000

/-- HBM channels that the configuration enables, in the order of R21: position c × 12 + s holds channel c of stack s. -/
def State.channelList (s : State) : List Nat :=
  (List.range 384).filter fun i => !s.blob.channels.contains (i % 12 * 32 + i / 12)

/-- The stack-linear address of stack `st`, channel `c`, granule `j` of the channel, byte `b` (R21). -/
def stackLinear (st c j b : Nat) : Nat := hbmBase + st * 0x1000000000 + (j * 32 + c) * 4096 + b

/-- The stack, channel and offset within the channel of a stack-linear address (R21, R378). -/
def stackOf (k : Nat) : Nat := (k - hbmBase) / 0x1000000000
def channelOf (k : Nat) : Nat := (k - hbmBase) % 0x1000000000 / 4096 % 32
def chanOffset (k : Nat) : Nat := (k - hbmBase) % 0x1000000000 / 131072 * 4096 + k % 4096

/-- The canonical address of a scratchpad offset: `lin` the word in the linear view for a row of `n` words (R24). -/
def unskew (n off : Nat) : Nat :=
  let w := off / 8
  (w / n * n + (w / n + w % n) % n) * 8 + off % 8

/-- The place of a scratchpad address (R23, R24). -/
def State.spadPlace (s : State) (pa : Nat) : Place :=
  let rel := pa - spadBase
  let cl := rel / 2 ^ 26
  let unit := rel / 2 ^ 21 % 32
  let off := rel % 2 ^ 21
  let base := spadBase + cl * 2 ^ 26
  if !s.clusterLive cl then .nowhere
  else if unit < 16 then
    if off < 0x20000 then .spad (base + unit * 2 ^ 21 + off)
    else if 0x100000 ≤ off ∧ off < 0x120000 then .spad (base + unit * 2 ^ 21 + unskew 16 (off - 0x100000))
    else .nowhere
  else if unit = 16 then .spad (base + 16 * 2 ^ 21 + off)
  else if unit = 17 then (if off < 0x10000 then .spad (base + 17 * 2 ^ 21 + off) else .nowhere)
  else if unit = 18 then .spad (base + 16 * 2 ^ 21 + unskew 64 off)
  else .nowhere

/-- A Siard table entry of a die is valid (R27, R410). -/
def State.siardEntry (s : State) (die n : Nat) : Word := SMap.get 0 (s.die die).regs (0x6000 + 8 * (n - 1))

/-- The link that a request for a target takes: the lowest-numbered working one in LINKS (R410). -/
def State.linkFor (s : State) (die n : Nat) : Option Nat :=
  (List.range 16).find? fun k => bit (s.siardEntry die n) (16 + k) && SMap.get 0 s.links k != 0

/-- A peer's byte (R410): a request that no working link takes goes unanswered, and an offset that the peer does not export
fails there (log 80). -/
def State.peerPlace (s : State) (die n pa : Nat) : Place :=
  if (s.linkFor die n).isNone then .away pa .extTimeout
  else if Config.extWithdrawn s.tick pa then .away pa .noMemory
  else .ext pa

/-- The place that a physical address names, for a core of die `die` (R20–R27). Control space is decided by its
registers. -/
def State.place (s : State) (die pa : Nat) : Place :=
  if pa < 0x9000000000 then
    -- interleaved HBM (R21)
    let n := pa / 4096
    if s.blob.channels.isEmpty then .hbm (stackLinear (n % 12) (n / 12 % 32) (n / 384) (pa % 4096))
    else
      let cs := s.channelList
      if n < 393216 * cs.length then
        let i := cs.getD (n % cs.length) 0
        .hbm (stackLinear (i % 12) (i / 12) (n / cs.length) (pa % 4096))
      else .nowhere
  else if hbmBase ≤ pa ∧ pa < hbmBase + 12 * 0x1000000000 then
    if (pa - hbmBase) % 0x1000000000 < 48 * 2 ^ 30 ∧ !s.blob.channels.contains (stackOf pa * 32 + channelOf pa) then .hbm pa
    else .nowhere
  else if spadBase ≤ pa ∧ pa < spadBase + 2 ^ 36 then s.spadPlace pa
  else if ctlBase ≤ pa ∧ pa < ctlBase + 2 ^ 44 then .ctl pa
  else if extBase ≤ pa ∧ pa < 2 * extBase then
    let t := pa / 2 ^ 40 % 2048
    if t = 0 then .ext pa else if bit (s.siardEntry die t) 0 then s.peerPlace die t pa else .nowhere
  else .nowhere

/-- The scratchpad unit of a canonical scratchpad address (R23). -/
def unitOf (k : Nat) : Nat := (k - spadBase) / 2 ^ 21 % 32

/-- The cluster of a canonical scratchpad address. -/
def spadCluster (k : Nat) : Nat := (k - spadBase) / 2 ^ 26

/-- The private scratchpad of a core, as a physical address (R23). -/
def privBase (core : Nat) : Nat := spadBase + clusterOf core * 2 ^ 26 + core % 16 * 2 ^ 21

/-- The shared scratchpad of a cluster (R23). -/
def sharedBase (cl : Nat) : Nat := spadBase + cl * 2 ^ 26 + 16 * 2 ^ 21

/-- The save area of a core in its cluster's shadow store (R131). -/
def saveArea (core : Nat) : Nat := spadBase + clusterOf core * 2 ^ 26 + 17 * 2 ^ 21 + core % 16 * 0x1000

/-- The physical address that a local alias of a core names; none outside the aliased ranges (R25). -/
def aliasTarget (core va : Nat) : Option Nat :=
  let o := va - aliasBase
  if o < 0x20000 then some (privBase core + o)
  else if 0x100000 ≤ o ∧ o < 0x120000 then some (privBase core + o)
  else if 0x200000 ≤ o ∧ o < 0x400000 then some (sharedBase (clusterOf core) + (o - 0x200000))
  else if 0x400000 ≤ o ∧ o < 0x600000 then some (sharedBase (clusterOf core) + 2 * 2 ^ 21 + (o - 0x400000))
  else none

/-- The address is in the alias region (R25). -/
def isAliasRegion (va : Nat) : Bool := va / 2 ^ 48 == 0xFF

/-- The local alias of an offset of the private scratchpad. -/
def privAlias (off : Nat) : Word := BitVec.ofNat 64 (aliasBase + off)

/-! ## Bytes, tags, poison -/

/-- What an unlisted byte reads as (log 2). -/
def unlistedByte : Byte := 0

abbrev Memory := List Host.Cell

/-- The canonical form of memory: addresses strictly rise and no entry is the unlisted byte. -/
abbrev Memory.wf (m : Memory) : Bool := SMap.wf unlistedByte m

def readByte (m : Memory) (a : Nat) : Byte := SMap.get unlistedByte m a
def writeByte (m : Memory) (a : Nat) (b : Byte) : Memory := SMap.set unlistedByte m a b

/-- `n` bytes from `a`, little-endian (R4). -/
def readBytes (m : Memory) (a : Nat) : Nat → Nat
  | 0 => 0
  | n + 1 => (readByte m a).toNat + 256 * readBytes m (a + 1) n

/-- Stores the low `n` bytes of `v` from `a`, little-endian. -/
def writeBytes (m : Memory) (a : Nat) : Nat → Nat → Memory
  | 0, _ => m
  | n + 1, v => writeBytes (writeByte m a (BitVec.ofNat 8 v)) (a + 1) n (v / 256)

/-- The low `8 × n` bits of a word. -/
def lowBytes (n : Nat) (w : Word) : Nat := w.toNat % 256 ^ n

def tagEmpty : BitVec 2 := 0
def tagFull : BitVec 2 := 1
def tagArrival : BitVec 2 := 2
def tagPoison : BitVec 2 := 3

/-- The stored tag of the scratchpad word that holds a byte (R177). -/
def State.tagAt (s : State) (k : Nat) : BitVec 2 := SMap.get tagEmpty s.tags (k / 8 * 8)
def State.setTag (s : State) (k : Nat) (t : BitVec 2) : State :=
  { s with tags := SMap.set tagEmpty s.tags (k / 8 * 8) t }

/-- The HBM line that holds a byte is poisoned (R389). -/
def State.poisoned (s : State) (k : Nat) : Bool := SMap.get false s.poison (k / 64 * 64)
def State.setPoison (s : State) (k : Nat) (b : Bool) : State :=
  { s with poison := SMap.set false s.poison (k / 64 * 64) b }

/-- The tag as an access finds it: the stored tag in scratchpad, full or poisoned elsewhere (R177). -/
def State.tagOf (s : State) : Place → BitVec 2
  | .spad k => s.tagAt k
  | .hbm k => if s.poisoned k then tagPoison else tagFull
  | _ => tagFull

/-- A word in scratchpad, by canonical address. -/
def State.word (s : State) (k : Nat) : Word := BitVec.ofNat 64 (readBytes s.mem (k / 8 * 8) 8)

/-- Writes `n` bytes of memory; tags are not touched. -/
def State.write (s : State) (k n : Nat) (v : Word) : State := { s with mem := writeBytes s.mem k n v.toNat }

/-- A 64-bit store by the hardware itself into scratchpad: the bits and tag 01. -/
def State.putWord (s : State) (k : Nat) (v : Word) : State := (s.write k 8 v).setTag k tagFull

end Sys2Proof.Machine
end

