-- ==== Sys2Proof/Machine/Registers.lean ====
section
/-! DEFINITION. The registers of control space (spec/02_addresses.md R26, R423; 14 R274–R275; 16 R299; 17 R329; 19 R348;
21 R374; 23 R384–R385; 25 R410, R415): their reads, and their writes by a core at S and by the kiosk. -/

namespace Sys2Proof.Machine

/-- The block of control space that an address selects, its selectors and its offset (R26). -/
inductive Block where
  | router (cl plane off : Nat)
  | engine (cl off : Nat)
  | stack (n off : Nat)
  | mailbox (m off : Nat)
  | die (d off : Nat)
  | xlat (off : Nat)
  | none
  deriving DecidableEq, Repr

/-- The block that an address selects. Bits that are neither kind, selector nor offset are not decoded, so such addresses
name the same register (DESIGN CHOICE, log 68: R26 does not say). -/
def blockOf (pa : Nat) : Block :=
  let off := pa % 2 ^ 26
  match pa / 2 ^ 40 % 16 with
  | 0 => .router (pa / 2 ^ 28 % 1024) (pa / 2 ^ 26 % 4) off
  | 1 => .engine (pa / 2 ^ 28 % 1024) off
  | 2 => .stack (pa / 2 ^ 32 % 16) off
  | 3 => .mailbox (pa / 2 ^ 28 % 256) off
  | 4 => .die (pa / 2 ^ 36 % 4) off
  | 5 => .xlat off
  | _ => .none

/-- Number of a register in an array at `base` with `n` entries of `stride` bytes: index and byte within the entry. -/
def arrayAt (off base stride n : Nat) : Option (Nat × Nat) :=
  if base ≤ off ∧ off < base + stride * n then some ((off - base) / stride, (off - base) % stride) else none

/-- A word with only the bits of a mask. -/
def keep (w : Word) (m : Nat) : Word := w &&& BitVec.ofNat 64 m

/-! ## Router tables (R299) -/

/-- The fixed entries of classes 24–31: XY, and the priority (R299). -/
def fixedClass (n : Nat) : Word :=
  match n with
  | 24 => 3 * 8
  | 26 => 3 * 8
  | 31 => 3 * 8
  | 25 => 2 * 8
  | 28 => 2 * 8
  | 29 => 2 * 8
  | _ => 1 * 8

/-- The populated bits of a router register; none where nothing is populated. -/
def routerMask (plane off : Nat) : Option Nat :=
  if off % 8 ≠ 0 then none
  else if plane = 2 ∧ off < 0x100 then some 0x1F
  else if (plane = 2 ∨ plane = 0) ∧ 0x10000 ≤ off ∧ off < 0x18000 then some 0xFFFFFFFF
  else if plane = 2 ∧ 0x20000 ≤ off ∧ off < 0x21000 then
    some (if off % 16 = 0 then 0xFFFFFF else 0xFFFFFFFFFFFFF)
  else none

def routerKey (plane off : Nat) : Nat := plane * 2 ^ 26 + off

def routerRead (r : Router) (plane off : Nat) : Word :=
  if plane = 2 ∧ 24 * 8 ≤ off ∧ off < 32 * 8 then fixedClass (off / 8) else SMap.get 0 r.regs (routerKey plane off)

/-- A multicast group's entry in a router (R299). -/
def State.mcgEntry (s : State) (cl plane g : Nat) : Word := routerRead (s.router cl) plane (0x10000 + 8 * g)

/-- The two words of a reduction tree's entry in a control-plane router (R299). -/
def State.rtree (s : State) (cl t : Nat) : Word × Word :=
  (routerRead (s.router cl) 2 (0x20000 + 16 * t), routerRead (s.router cl) 2 (0x20000 + 16 * t + 8))

/-! ## The cluster engine (R274, R275) -/

def Range.wordAt (r : Range) : Nat → Word
  | 0 => r.base
  | 1 => r.limit
  | 2 => r.offset
  | _ => r.flags

/-- Range words as they read: BASE [11:0] read 0, LIMIT [11:0] read 0xFFF (R275). -/
def Range.setWord (r : Range) (i : Nat) (v : Word) : Range :=
  match i with
  | 0 => { r with base := keep v 0xFFFFFFFFFFFFF000 }
  | 1 => { r with limit := v ||| 0xFFF }
  | 2 => { r with offset := keep v 0xFFFFFFFFFFFFF }
  | _ => { r with flags := keep v 0xFFFF000F }

def engineRead (k : Cluster) (off : Nat) : Option Word :=
  if off % 8 ≠ 0 then none
  else if off = 0x0 then some k.uasid
  else if off = 0x8 then some k.uroot
  else if off = 0x10 then some k.sasid
  else if off = 0x18 then some k.sroot
  else if off = 0x2100 then some k.sbrate
  else if off = 0x2108 then some k.sbburst
  else if off = 0x2110 then some ((BitVec.ofInt 32 k.sblevel).zeroExtend 64)
  else if off = 0x2200 then some (k.astat.zeroExtend 64)
  else if off = 0x2300 then some k.cefault
  else
    match arrayAt off 0x1000 32 32, arrayAt off 0x1400 32 32, arrayAt off 0x2000 8 16 with
    | some (n, b), _, _ => some ((vget Range.reset k.urange n).wordAt (b / 8))
    | _, some (n, b), _ => some ((vget Range.reset k.srange n).wordAt (b / 8))
    | _, _, some (n, _) => some (vget 1 k.wgt n)
    | _, _, _ => none

/-- The written bits of a register: the store's bits where the mask has them, the present ones elsewhere. -/
def merge (old mask v : Word) : Word := (old &&& ~~~mask) ||| (v &&& mask)

/-- Sticky flags after a write: a 1 clears (R275, R385). -/
def clearFlags (old : BitVec 4) (v : Word) : BitVec 4 := old &&& ~~~(v.truncate 4)

/-- A store by a core at S to a cluster engine's register (R274, R423). -/
def engineWrite (k : Cluster) (off : Nat) (mask v : Word) : Cluster :=
  if off = 0x0 then { k with uasid := keep (merge k.uasid mask v) 0xFFFF }
  else if off = 0x8 then { k with uroot := keep (merge k.uroot mask v) 0xFFFFFFFFFF000 }
  else if off = 0x10 then { k with sasid := keep (merge k.sasid mask v) 0xFFFF }
  else if off = 0x18 then { k with sroot := keep (merge k.sroot mask v) 0xFFFFFFFFFF000 }
  else if off = 0x2200 then { k with astat := clearFlags k.astat (v &&& mask) }
  else if off = 0x2300 then (if v &&& mask = 0 then { k with cefault := 0 } else k)
  else
    match arrayAt off 0x1000 32 32, arrayAt off 0x1400 32 32, arrayAt off 0x2000 8 16 with
    | some (n, b), _, _ =>
      let r := vget Range.reset k.urange n
      { k with urange := vset k.urange n (r.setWord (b / 8) (merge (r.wordAt (b / 8)) mask v)) }
    | _, some (n, b), _ =>
      let r := vget Range.reset k.srange n
      { k with srange := vset k.srange n (r.setWord (b / 8) (merge (r.wordAt (b / 8)) mask v)) }
    | _, _, some (n, _) =>
      let w := keep (merge (vget 1 k.wgt n) mask v) 0xF
      if w = 0 then k else { k with wgt := vset k.wgt n w }
    | _, _, _ => k

/-- The kiosk's store to a cluster engine's store-budget register (R273, R274). -/
def engineKiosk (k : Cluster) (off : Nat) (v : Word) : Cluster :=
  if off = 0x2100 then { k with sbrate := keep v 0xFFFF }
  else if off = 0x2108 then (if keep v 0xFFFF = 0 then k else { k with sbburst := keep v 0xFFFF })
  else k

/-! ## The memory stack engine (R384, R385) -/

/-- NMSTAT of a context (R385). -/
def NmCtx.stat (c : NmCtx) : Word :=
  BitVec.ofNat 64 (c.inbox.length % 32 + (if c.started then 32 else 0) + c.flags.toNat * 64
    + sat (2 ^ 32 - 1) c.skipTot * 2 ^ 16)

/-- A word of a migration entry (R385). -/
def Mig.wordAt (m : Mig) : Nat → Word
  | 0 => BitVec.ofNat 64 (m.old * 4096)
  | 1 => BitVec.ofNat 64 (m.new * 4096 + if m.valid then 1 else 0)
  | 2 => m.present
  | _ => m.ctx

def stackRead (k : Stack) (off : Nat) : Option Word :=
  if off % 8 ≠ 0 then none
  else if off = 0x0 then some k.scfg
  else if off = 0x8 then some k.disturb
  else if off = 0x10 then some k.dseed
  else if off = 0x18 then some k.actth
  else if off = 0x20 then some (k.astat.zeroExtend 64)
  else if off = 0x28 then some (BitVec.ofNat 64 (k.corr % 2 ^ 32 + k.uncorr % 2 ^ 32 * 2 ^ 32))
  else if off = 0x30 then some k.einj
  else if off = 0x38 then some k.sfault
  else
    match arrayAt off 0x100 8 8, arrayAt off 0x200 8 8, arrayAt off 0x10000 32 64 with
    | some (c, _), _, _ => some (BitVec.ofNat 64 (vget NmCtx.reset k.ctxs c).retired)
    | _, some (c, _), _ => some (vget NmCtx.reset k.ctxs c).stat
    | _, _, some (m, b) =>
      some (match k.migs[m]? with
        | some e => e.wordAt (b / 8)
        | none => 0)
    | _, _, _ => none

def Stack.writeEinj (k : Stack) (v : Word) : Stack := { k with einj := keep v 0xFFFFFFFFFFFC1 }

/-- A store by a core at S to a stack's register (R384, R385, R423). -/
def stackWrite (k : Stack) (off : Nat) (mask v : Word) : Stack :=
  if off = 0x20 then { k with astat := clearFlags k.astat (v &&& mask) }
  else if off = 0x28 then (if v &&& mask = 0 then { k with corr := 0, uncorr := 0 } else k)
  else if off = 0x30 then k.writeEinj (merge k.einj mask v)
  else if off = 0x38 then (if v &&& mask = 0 then { k with sfault := 0 } else k)
  else
    match arrayAt off 0x200 8 8 with
    | some (c, _) =>
      let x := vget NmCtx.reset k.ctxs c
      { k with ctxs := vset k.ctxs c { x with flags := clearFlags x.flags ((v &&& mask) >>> 6) } }
    | none => k

/-- A write of DISTURB (R385, R386): a reserved K is ignored; SEEDED loads every channel's state from SEED. -/
def Stack.writeDisturb (k : Stack) (v : Word) : Stack :=
  let v := keep v 0x3F
  if fld v 0 5 < 6 ∨ 16 < fld v 0 5 then k
  else if bit v 5 then { k with disturb := v, rng := (List.range 32).map fun c => (c, k.dseed) }
  else { k with disturb := v }

/-- The kiosk's store to a stack's register (R384, R385). -/
def stackKiosk (k : Stack) (off : Nat) (v : Word) : Stack :=
  if off = 0x0 then
    (if fld v 0 5 = 0 ∨ 16 < fld v 0 5 then k else { k with scfg := keep v 0x1F })
  else if off = 0x8 then k.writeDisturb v
  else if off = 0x10 then (if v = 0 then k else { k with dseed := v })
  else if off = 0x18 then (if fld v 0 16 < 64 then k else { k with actth := keep v 0xFFFF })
  else k

/-! ## Mailboxes (R415) -/

def mailKey (m off : Nat) : Nat := 512 * m + off / 8

def State.mail (s : State) (m off : Nat) : Word := SMap.get 0 s.kiosk.mail (mailKey m off)
def State.setMail (s : State) (m off : Nat) (v : Word) : State :=
  { s with kiosk := { s.kiosk with mail := SMap.set 0 s.kiosk.mail (mailKey m off) v } }

/-- The mailbox exists (R415). -/
def mailboxExists (m : Nat) : Bool := decide (m ≤ 16) || (decide (32 ≤ m) && decide (m < 48))

/-- MBSTAGE (R415). -/
def State.mbStage (s : State) : Word :=
  BitVec.ofNat 64 (s.kiosk.stage % 4 + (s.kiosk.joined.filter fun i => decide (i < 12)).foldl (fun a i => a ||| 2 ^ (4 + i)) 0
    + (if s.kiosk.hostFull then 2 ^ 16 else 0) + (if s.kiosk.siard then 2 ^ 17 else 0))

/-- MBEVENT (R415). -/
def State.mbEvent (s : State) (m : Nat) : Word :=
  BitVec.ofNat 64 ((SMap.get [] s.kiosk.rings m).length + sat (2 ^ 32 - 1) (SMap.get 0 s.kiosk.dropped m) * 2 ^ 32)

/-- A mailbox register as its requester reads it (R415). -/
def State.mailRead (s : State) (m off : Nat) : Word :=
  if !mailboxExists m then 0
  else if off = 0x80 then s.mbStage
  else if off = 0x90 then s.mbEvent m
  else if off = 0x88 ∨ (0x98 ≤ off ∧ off < 0x100) then 0
  else s.mail m off

/-- MBARG0–MBARG6. -/
def State.mailArgs (s : State) (m : Nat) : List Word := (List.range 7).map fun i => s.mail m (8 * (i + 1))

/-- A requester's store to a mailbox register (R415, R416). A doorbell sets BUSY at once, and MBCMD and
the arguments are read; one written while BUSY is 1 is ignored. `who` is the core that rings, 0x3FFF for the host. -/
def State.mailWrite (s : State) (m off : Nat) (mask v : Word) (who : Nat) : State :=
  if !mailboxExists m then s
  else if off = 0x88 then
    if bit (s.mail m 0x40) 17 then s
    else
      let s := s.setMail m 0x40 ((s.mail m 0x40 &&& ~~~0x10000#64) ||| 0x20000#64)
      { s with kiosk := { s.kiosk with doors := s.kiosk.doors ++ [⟨m, who, s.mail m 0, s.mailArgs m⟩] } }
  else if off = 0 then s.setMail m off (keep (merge (s.mail m off) mask v) 0xFFFFFFFF0000FFFF)
  else if off < 0x40 ∨ 0x100 ≤ off then s.setMail m off (merge (s.mail m off) mask v)
  else s

/-! ## The dispatch engine of a die (R329, R348, R374, R410) -/

/-- PHALTED (R329): bit p is set when partition p is halted and every core of it on the die has saved its context. -/
def State.phalted (s : State) (d : Nat) : BitVec 16 :=
  BitVec.ofNat 16 <| ((List.range 16).filter fun p => (s.die d).phalt.getLsbD p &&
    ((s.partCores p).filter fun c => dieOf c == d).all fun c => (s.core c).act.isNone).foldl (fun a p => a ||| 2 ^ p) 0

/-- A releasable group waits behind the gate of a slot (R348, R349): kept by the launch engine in `held`. -/
def dieRead (s : State) (d off : Nat) : Option Word :=
  let k := s.die d
  if off % 8 ≠ 0 then none
  else if off = 0x2000 then some (k.phalt.zeroExtend 64)
  else if off = 0x2008 then some ((s.phalted d).zeroExtend 64)
  else if off = 0x2010 then some k.pauto
  else
    match arrayAt off 0x1000 32 16, arrayAt off 0x3000 8 192, arrayAt off 0x4000 16 8 with
    | some (p, b), _, _ => if b = 0 then some (SMap.get 0 k.regs off) else if b = 8 then some (vget 0 k.pgpos p) else none
    | _, some (c, _), _ => some ((SMap.get 0 k.preq c).zeroExtend 64)
    | _, _, some (i, b) =>
      let g := vget Board.reset k.boards i
      if b = 0 then some (BitVec.ofNat 64 ((if g.launch.isSome then 1 else 0) + g.desc / 64 * 64))
      else some (bit1 g.closed 0 ||| bit1 g.held 1)
    | _, _, _ =>
      match arrayAt off 0x5000 16 64, arrayAt off 0x6000 8 2047 with
      | some _, _ => if d = 0 then some (SMap.get 0 k.regs off) else none
      | _, some _ => some (SMap.get 0 k.regs off)
      | _, _ => none

/-- A store by a core at S: only PGBASE is writable (R329, R423). -/
def dieWrite (k : Die) (off : Nat) (mask v : Word) : Die :=
  match arrayAt off 0x1000 32 16 with
  | some (_, 0) =>
    { k with regs := SMap.set 0 k.regs off (keep (merge (SMap.get 0 k.regs off) mask v) 0xFFFFFFFFFFFDF) }
  | _ => k

/-- The kiosk's store to a register of a die without behaviour of its own. -/
def dieKiosk (k : Die) (d off : Nat) (v : Word) : Die :=
  if off = 0x2000 then { k with phalt := v.truncate 16 }
  else if off = 0x2010 then { k with pauto := keep v 0x7F }
  else
    match arrayAt off 0x3000 8 192, arrayAt off 0x5000 16 64, arrayAt off 0x6000 8 2047 with
    | some (c, _), _, _ => { k with preq := SMap.set 0 k.preq c (v.truncate 16) }
    | _, some (_, b), _ =>
      if d = 0 then { k with regs := SMap.set 0 k.regs off (keep v (if b = 0 then 0xFFFFFFFFFFFC0 else 0x1FFFFFFFF)) } else k
    | _, _, some _ => { k with regs := SMap.set 0 k.regs off (keep v 0xFFFFFFF0001) }
    | _, _, _ => k

/-! ## Control space as a whole -/

/-- QGEN (R36): the smallest generation that an access in flight carries, or TGEN. In flight are the accesses of the cores,
those parked at a home, and the commands of the near-memory engines with their translations (R35, R396). -/
def State.qgen (s : State) : Nat :=
  let cores := s.cores.foldl (fun g kc => kc.2.flight.foldl (fun g a => min g a.gen) g) s.tgen
  let parked := s.parked.foldl (fun g p => min g p.gen) cores
  s.stackEngines.foldl (fun g ks => ks.2.ctxs.toList.foldl (fun g c => c.inbox.foldl (fun g m => min g m.gen) g) g) parked

/-- The value of a control-space register; none where nothing is populated (R26). To a core, the registers of mailboxes
0–16, which it cannot reach (R415), are not populated (DEDUCED, log 68). -/
def State.ctlRead (s : State) (pa : Nat) : Option Word :=
  match blockOf pa with
  | .router cl plane off =>
    if clusterExists cl && (routerMask plane off).isSome then some (routerRead (s.router cl) plane off) else none
  | .engine cl off => if clusterExists cl then engineRead (s.cluster cl) off else none
  | .stack n off => if n < 12 then stackRead (s.stack n) off else none
  | .mailbox m off => if m ≤ 16 ∨ off % 8 ≠ 0 ∨ 0x1000 ≤ off then none else some (s.mailRead m off)
  | .die d off => dieRead s d off
  | .xlat off =>
    if off = 0 then some (BitVec.ofNat 64 s.tgen)
    else if off = 8 then some (BitVec.ofNat 64 s.qgen)
    else if off = 16 then some (BitVec.ofNat 64 s.liveCe) else none
  | .none => none

/-- A store by core `who` at S (R423): a register it may not write is unchanged. -/
def State.ctlWrite (s : State) (pa : Nat) (mask v : Word) (who : Nat) : State :=
  match blockOf pa with
  | .router cl plane off =>
    match routerMask plane off with
    | some m =>
      if plane = 2 ∧ 24 * 8 ≤ off ∧ off < 32 * 8 then s
      else s.updRouter cl fun r =>
        { r with regs := SMap.set 0 r.regs (routerKey plane off) (keep (merge (routerRead r plane off) mask v) m) }
    | none => s
  | .engine cl off => s.updCluster cl fun k => engineWrite k off mask v
  | .stack n off => s.updStack n fun k => stackWrite k off mask v
  | .mailbox m off => s.mailWrite m off mask v who
  | .die d off => s.updDie d fun k => dieWrite k off mask v
  | .xlat _ => s
  | .none => s

/-- The kiosk's store through its own port to a register that it or S may write and that has no behaviour of its own (R423, R403). -/
def State.ctlKiosk (s : State) (pa : Nat) (v : Word) : State :=
  match blockOf pa with
  | .engine cl off => s.updCluster cl fun k => engineWrite (engineKiosk k off v) off (BitVec.allOnes 64) v
  | .stack n off => s.updStack n fun k => stackWrite (stackKiosk k off v) off (BitVec.allOnes 64) v
  | .die d off => s.updDie d fun k => dieWrite (dieKiosk k d off v) off (BitVec.allOnes 64) v
  | _ => s.ctlWrite pa (BitVec.allOnes 64) v 0x3FFF

end Sys2Proof.Machine
end

