-- ==== Sys2Proof/Machine/Dram.lean ====
section
/-! DEFINITION. What the memory stacks keep beside data (spec/23_stacks.md, R378–R394, R402): write queues, open rows and
activation counts, neighbour refresh, uncorrectable errors, channels out of service, and the pull of a migrating line. -/

namespace Sys2Proof.Machine

/-- Bank and row of an offset within a channel (R378). -/
def bankOf (o : Nat) : Nat := o / 1024 % 64
def rowOf (o : Nat) : Nat := o / 65536

def bankKey (chan bank : Nat) : Nat := chan * 64 + bank
def rowKey (chan bank row : Nat) : Nat := bankKey chan bank * 24576 + row

/-- A refresh of the two neighbours of a row clears their counts (R386, R387). -/
def clearNeighbours (bk row : Nat) (m : SMap Nat) : SMap Nat :=
  let up := if row + 1 < 24576 then SMap.set 0 m (bk * 24576 + row + 1) 0 else m
  if 0 < row then SMap.set 0 up (bk * 24576 + row - 1) 0 else up

/-- One step of the xorshift state (R386). -/
def xorshift (x : Word) : Word :=
  let x := x ^^^ (x <<< 13)
  let x := x ^^^ (x >>> 7)
  x ^^^ (x <<< 17)

/-- The bank's open row closes, and its count of activates rises (R387). -/
def Stack.precharge (st : Stack) (bk : Nat) : Stack :=
  match SMap.find st.openRow bk with
  | none => st
  | some r =>
    let rk := bk * 24576 + r
    { st with openRow := SMap.erase st.openRow bk, counts := SMap.set 0 st.counts rk (sat 65535 (SMap.get 0 st.counts rk + 1)) }

/-- An activate of a row where the bank has another row open, which closes (R386, R387): the channel draws a random word,
and a neighbour refresh clears the counts of the row that caused it and of its neighbours. -/
def State.activate (s : State) (k : Nat) : State :=
  let n := stackOf k
  let ch := channelOf k
  let o := chanOffset k
  let bk := bankKey ch (bankOf o)
  let st := s.stack n
  if SMap.find st.openRow bk = some (rowOf o) then s
  else
    let st := st.precharge bk
    let seeded := bit st.disturb 5
    let state := xorshift (SMap.get st.dseed st.rng ch)
    let x := if seeded then state else Config.entropy s.free
    let refreshed := decide (x.toNat % 2 ^ fld st.disturb 0 5 = 0)
    let st := { st with
      openRow := SMap.put st.openRow bk (rowOf o)
      counts := if refreshed then SMap.set 0 (clearNeighbours bk (rowOf o) st.counts) (rowKey ch (bankOf o) (rowOf o)) 0
        else st.counts
      rng := if seeded then SMap.put st.rng ch state else st.rng }
    let s := { s with stackEngines := SMap.put s.stackEngines n st }
    if seeded then s else { s with free := s.free + 1 }

/-! ## ECC (R389, R391) -/

/-- The channel of an HBM address has been taken out of service (R402). -/
def State.offline (s : State) (k : Nat) : Bool := (s.stack (stackOf k)).offline.contains (channelOf k)

/-- An armed injection names the line (R391). -/
def State.injectedAt (s : State) (k : Nat) : Bool :=
  let v := (s.stack (stackOf k)).einj
  bit v 0 && decide (fld v 6 46 * 64 = k / 64 * 64)

/-- The error that a read of a line meets: uncorrectable where true; an injected one is (R389, R391; log 61). -/
def State.errorAt (s : State) (k : Nat) : Option Bool :=
  if s.injectedAt k then some true else SMap.find (s.stack (stackOf k)).errs (k / 64 * 64)

/-- ECC meets a line (R389): a correctable error is corrected and counted; an uncorrectable one poisons the line and is
counted. -/
def State.eccLine (s : State) (k : Nat) (error : Option Bool) : State :=
  match error with
  | none => s
  | some bad =>
    let s := s.updStack (stackOf k) fun st =>
      { st with
        errs := SMap.erase st.errs (k / 64 * 64)
        uncorr := if bad then sat (2 ^ 32 - 1) (st.uncorr + 1) else st.uncorr
        corr := if bad then st.corr else sat (2 ^ 32 - 1) (st.corr + 1) }
    if bad then s.setPoison k true else s

/-- A whole line written anew: neither poison nor an error of the DRAM remains (R390; log 61). -/
def State.cleanLine (s : State) (k : Nat) : State :=
  let s := s.setPoison k false
  match SMap.find (s.stack (stackOf k)).errs (k / 64 * 64) with
  | none => s
  | some _ => s.updStack (stackOf k) fun st => { st with errs := SMap.erase st.errs (k / 64 * 64) }

/-- A device alert of a stack (R402, R418): SFAULT, and an event of kind 6, which belongs to no partition. -/
def State.alert (s : State) (stack : Nat) (c : Cause) (addr info : Word) : State :=
  let s := s.updStack stack fun k =>
    { k with sfault := setFld (setFld k.sfault 0 8 c.code.toNat) 8 24 (sat (2 ^ 24 - 1) (fld k.sfault 8 24 + 1)) }
  s.event 6 (some c) none none addr info

/-! ## Write queues (R379–R381) -/

/-- The write queue of a line's channel. -/
def State.writeQueue (s : State) (k : Nat) : List QLine := SMap.get [] (s.stack (stackOf k)).wq (channelOf k)

/-- The queued writes to a line. -/
def State.queuedLine (s : State) (k : Nat) : Option QLine := (s.writeQueue k).find? fun q => decide (q.line = k / 64 * 64)

/-- The channel's write queue of 64 lines is full: a write to a line that it does not hold waits (R379). -/
def State.wqFull (s : State) : Place → Bool
  | .hbm k => decide (64 ≤ (s.writeQueue k).length) && (s.queuedLine k).isNone
  | _ => false

def State.setQueue (s : State) (k : Nat) (q : List QLine) : State :=
  s.updStack (stackOf k) fun st => { st with wq := SMap.set [] st.wq (channelOf k) q }

/-- A queued line reaches its bank: its row opens, and ECC meets an error that the bank held (R389; log 61). The poison
that a write-back finds has no requester (R418). -/
def State.writeBack (s : State) (k : Nat) : State :=
  let s := s.activate k
  let error := SMap.find (s.stack (stackOf k)).errs (k / 64 * 64)
  let s := s.eccLine k error
  if error = some true then s.alert (stackOf k) .scrubPoison (wordOf k) (wordOf (channelOf k)) else s

/-- The oldest line of a channel's queue reaches its bank. -/
def State.drainOldest (s : State) (k : Nat) : State :=
  match s.writeQueue k with
  | [] => s
  | q :: rest => (s.setQueue k rest).writeBack q.line

/-- The queue drains, oldest first, until it no longer holds a line. -/
def State.drainLine (k : Nat) : Nat → State → State
  | 0, s => s
  | n + 1, s => if (s.queuedLine k).isSome then State.drainLine k n (s.drainOldest k) else s

/-- Bytes of a line, as a mask. -/
def byteMask (off n : Nat) : Nat := (2 ^ n - 1) * 2 ^ off

/-- A write of `n` bytes within a line is accepted at its home: its line is in the channel's write queue (R379). A write
that the device makes within a step while the queue is full waits within that step for the oldest line to drain. -/
def State.enqueueWrite (s : State) (k n : Nat) : State :=
  match s.queuedLine k with
  | some q =>
    s.setQueue k ((s.writeQueue k).map fun x =>
      if x.line = q.line then { x with mask := x.mask ||| byteMask (k % 64) n } else x)
  | none =>
    let s := if 64 ≤ (s.writeQueue k).length then s.drainOldest k else s
    s.setQueue k (s.writeQueue k ++ [⟨k / 64 * 64, byteMask (k % 64) n⟩])

/-- A read of `n` bytes within a line (R381, R389, R391): forwarded from the queue where queued writes cover every byte
that it asks for; else from the bank, once the queued writes to any of them have drained. ECC meets the line, an injection
so met disarms, and a corrected line goes to the queue to be written back. -/
def State.readLine (s : State) (k n : Nat) : State :=
  let want := byteMask (k % 64) n
  let mask := match s.queuedLine k with
    | some q => q.mask &&& want
    | none => 0
  let hit := decide (mask = want)
  let s := if hit ∨ mask = 0 then s else State.drainLine k 64 s
  let s := if hit then s else s.activate k
  let armed := s.injectedAt k
  let error := if armed then some true else if hit then none else s.errorAt k
  let s := if armed then s.updStack (stackOf k) fun st => { st with einj := setFld st.einj 0 1 0 } else s
  let s := s.eccLine k error
  if error = some false then s.enqueueWrite (k / 64 * 64) 64 else s

/-- A cause met at a home: the cause and its TINFO. -/
abbrev HomeErr := Cause × Word

/-- The cause of an access to an external byte that will not be had (R402, R410): EXT_TIMEOUT names the target of R27. -/
def awayErr (pa : Nat) (why : Cause) : HomeErr := (why, if why = .extTimeout then BitVec.ofNat 64 (pa / 2 ^ 40 % 2048) else 0)

/-- Reads `n` bytes at their home, whatever the tag but poison (R178, R390). -/
def State.homeRead (s : State) (pl : Place) (n : Nat) : Except HomeErr (Word × State) :=
  match pl with
  | .spad k => if s.tagAt k = tagPoison then .error (.memPoison, 0) else .ok (BitVec.ofNat 64 (readBytes s.mem k n), s)
  | .hbm k =>
    if s.offline k then .error (.stackOffline, BitVec.ofNat 64 (stackOf k)) else
    let s := s.readLine k n
    if s.poisoned k then .error (.memPoison, 0) else .ok (BitVec.ofNat 64 (readBytes s.mem k n), s)
  | .ctl pa =>
    match s.ctlRead (pa / 8 * 8) with
    | some w => .ok (BitVec.ofNat 64 (w.toNat / 256 ^ (pa % 8) % 256 ^ n), s)
    | none => .error (.noMemory, 0)
  | .ext pa => .ok (BitVec.ofNat 64 (readBytes s.mem pa n), s)
  | .away pa c => .error (awayErr pa c)
  | .nowhere => .error (.noMemory, 0)

/-- A read that leaves poison behind even where it fails: the state after an attempted read of `n` bytes. -/
def State.afterRead (s : State) (pl : Place) (n : Nat) : State :=
  match pl with
  | .hbm k => if s.offline k then s else s.readLine k n
  | _ => s

/-! ## Migration (R392–R394) -/

/-- A page, as the canonical granule number of a place. -/
def granuleOf : Place → Option Nat
  | .spad k => some (k / 4096)
  | .hbm k => some (k / 4096)
  | _ => none

/-- The migration entries of the engine that holds a place (R385, R394). -/
def State.migsOf (s : State) : Place → List Mig
  | .hbm k => (s.stack (stackOf k)).migs
  | .spad k => (s.cluster (spadCluster k)).migs
  | _ => []

def State.setMigs (s : State) (pl : Place) (m : List Mig) : State :=
  match pl with
  | .hbm k => s.updStack (stackOf k) fun st => { st with migs := m }
  | .spad k => s.updCluster (spadCluster k) fun c => { c with migs := m }
  | _ => s

/-- The valid entry that covers a place and lacks its line: its position, itself, and the line (R393). -/
def State.absentLine (s : State) (pl : Place) : Option (Nat × Mig × Nat) :=
  match granuleOf pl with
  | none => none
  | some g =>
    match findIdx (fun m : Mig => m.valid && decide (m.new = g)) (s.migsOf pl) 0 with
    | some (i, m) =>
      let line := (match pl with | .spad k => k | .hbm k => k | _ => 0) % 4096 / 64
      if bit m.present line then none else some (i, m, line)
    | none => none

/-- Marks a line of an entry present. -/
def State.markPresent (s : State) (pl : Place) (i line : Nat) : State :=
  s.setMigs pl ((s.migsOf pl).mapIdx fun j m =>
    if j = i then { m with present := m.present ||| bit1 true line } else m)

/-- Installs 64 bytes of a line: bytes, and full tags in scratchpad, or an HBM line without poison (R390, R393; log 28). -/
def State.installLine (s : State) (pl : Place) (v : Nat) : State :=
  match pl with
  | .spad k =>
    let k := k / 64 * 64
    (List.range 8).foldl (fun s i => s.putWord (k + 8 * i) (BitVec.ofNat 64 (v / 2 ^ (64 * i)))) s
  | .hbm k => ({ s with mem := writeBytes s.mem (k / 64 * 64) 64 v }).cleanLine k
  | _ => s

/-- A line of HBM is about to be written whole: an absent line of a migrating granule needs no pull, and neither poison nor
an error remains (R390, R393). -/
def State.renewLine (s : State) (migrating : Bool) (k : Nat) : State :=
  let s := if !migrating then s else match s.absentLine (.hbm k) with
    | some (i, _, line) => s.markPresent (.hbm k) i line
    | none => s
  s.cleanLine k

/-- Marks the line of a place poisoned: its HBM line, or its eight words. -/
def State.poisonLine (s : State) (pl : Place) : State :=
  match pl with
  | .spad k => (List.range 8).foldl (fun s i => s.setTag (k / 64 * 64 + 8 * i) tagPoison) s
  | .hbm k => s.setPoison k true
  | _ => s

/-- The line of a place is poisoned in any part. -/
def State.linePoison (s : State) : Place → Bool
  | .spad k => (List.range 8).any fun i => s.tagAt (k / 64 * 64 + 8 * i) == tagPoison
  | .hbm k => s.poisoned k
  | _ => false

/-- The 64 bytes of the line of a place. -/
def State.lineBytes (s : State) : Place → Nat
  | .spad k => readBytes s.mem (k / 64 * 64) 64
  | .hbm k => readBytes s.mem (k / 64 * 64) 64
  | .ext pa => readBytes s.mem (pa / 64 * 64) 64
  | _ => 0

/-- Why nothing can be pulled from a place: a pull of a page that its host no longer maps fails too (R393, R412). -/
def State.barred (s : State) : Place → Option Cause
  | .spad _ => none
  | .hbm k => if s.offline k then some .stackOffline else none
  | .ext pa => if Config.extWithdrawn s.tick pa then some .noMemory else none
  | .away _ c => some c
  | .ctl _ => some .noMemory
  | .nowhere => some .noMemory

/-- Pulls an absent line of a migrating granule from the old granule (R393): poison is installed as poison, and
the tags of a scratchpad line move with it; any other failure is MIG_FAULT with the old home's cause. `die` resolves the old address. -/
def State.pullLine (s : State) (die : Nat) (pl : Place) (i : Nat) (m : Mig) (line : Nat) : Except HomeErr State :=
  let old := s.place die (m.old * 4096 + line * 64)
  match s.barred old with
  | some c => .error (.migFault, c.code.zeroExtend 64)
  | none =>
    let s := s.afterRead old 64
    let s := s.installLine pl (s.lineBytes old)
    let s := match pl, old with
      | .spad k, .spad k' =>
        (List.range 8).foldl (fun (s : State) j => s.setTag (k / 64 * 64 + 8 * j) (s.tagAt (k' / 64 * 64 + 8 * j))) s
      | _, _ => if s.linePoison old then s.poisonLine pl else s
    .ok (s.markPresent pl i line)

/-- The line that an access needs is made present: pulled where it is absent (R393). -/
def State.settleLine (s : State) (die : Nat) (migrating : Bool) (pl : Place) : Except HomeErr State :=
  if !migrating then .ok s else
  match s.absentLine pl with
  | none => .ok s
  | some (i, m, line) => s.pullLine die pl i m line

end Sys2Proof.Machine
end

