-- ==== Sys2Proof/Machine/Xlate.lean ====
section
/-! DEFINITION. Translation of virtual addresses (spec/02_addresses.md, R25, R28–R35): local aliases, range entries, the
translation buffer, the walk, and the checks of the physical map. -/

namespace Sys2Proof.Machine

/-- A right, coded as TINFO of XLATE_PERM gives it (R225). -/
inductive Right where
  | r | w | x
  deriving DecidableEq, Repr

def Right.code : Right → Nat
  | .r => 1
  | .w => 2
  | .x => 4

/-- A successful translation: the place, its physical address, device-strong order, MIG, the generation, the source as
`xprobe` codes it (1 range, 2 page, 3 alias), the rights and the ATTR field. -/
structure Xlated where
  pa     : Nat
  place  : Place
  strong : Bool
  mig    : Bool
  gen    : Nat
  source : Nat
  rights : Nat
  attr   : Nat
  deriving DecidableEq, Repr

/-- The part of an access at a translated address. -/
def Xlated.part (x : Xlated) : PartAt := ⟨x.pa, x.strong, x.mig⟩

inductive XRes where
  | ok (x : Xlated)
  | fault (c : Cause) (info : Word)
  /-- no range entry and no buffered translation: a walk is needed -/
  | miss
  deriving DecidableEq, Repr

/-- The address space of a level: ASID, root and range entries (R28, R29). -/
def Cluster.space (k : Cluster) (sup : Bool) : BitVec 16 × Word × Vector Range 32 :=
  if sup then (k.sasid.truncate 16, k.sroot, k.srange) else (k.uasid.truncate 16, k.uroot, k.urange)

/-- The range entry matches (R29). -/
def Range.hits (r : Range) (asid : BitVec 16) (va : Word) : Bool :=
  bit r.flags 0 && (r.flags.extractLsb' 16 16 == asid) && decide (r.base.toNat ≤ va.toNat) && decide (va.toNat ≤ r.limit.toNat)

/-- R, W, X of a range entry or a page-table entry (bits 1–3 of both). -/
def rightsOf (w : Word) : Nat := fld w 1 3

/-- The rights include a right. -/
def allows (rights : Nat) (r : Right) : Bool := rights &&& r.code != 0

def permInfo (r : Right) : Word := BitVec.ofNat 64 r.code

/-- The checks of the physical map after translation (R20, R23, R26): level, population, and the translation block's
registers, which cannot be stored to. -/
def State.checkPlace (s : State) (sup : Bool) (right : Right) (x : Xlated) : XRes :=
  match x.place with
  | .nowhere => .fault .noMemory 0
  | .spad k => if unitOf k = 17 ∧ !sup then .fault .xlatePerm (permInfo right) else .ok x
  | .ctl pa =>
    if !sup then .fault .xlatePerm (permInfo right)
    else if (s.ctlRead (pa / 8 * 8)).isNone then .fault .noMemory 0
    else match blockOf pa, right with
      | .xlat _, .w => .fault .xlatePerm (permInfo right)
      | _, _ => .ok { x with strong := true }
  | _ => .ok x

/-- A leaf applied to an address. -/
def leafAddress (pte : Word) (size : Nat) (va : Word) : Nat := fld pte 12 40 * 4096 / 2 ^ size * 2 ^ size + va.toNat % 2 ^ size

/-- The buffered translation of an address in a space (R31 G, R34). -/
def Cluster.lookup (k : Cluster) (asid : BitVec 16) (va : Word) : Option Tlb :=
  k.tlb.find? fun t => (t.asid == asid || bit t.pte 7) && decide (va.toNat / 2 ^ t.size = t.page)

/-- Translation for core `core` at a level (R25, R28–R30), with no rights or population checks applied. -/
def State.lookupVa (s : State) (core : Nat) (sup : Bool) (va : Word) : XRes :=
  let cl := clusterOf core
  let k := s.cluster cl
  let die := dieOf core
  if va.toNat / 2 ^ 56 ≠ 0 then .fault .noMemory 0
  else if isAliasRegion va.toNat then
    match aliasTarget core va.toNat with
    | some pa => .ok ⟨pa, s.place die pa, false, false, k.gen, 3, 7, 0⟩
    | none => .fault .noMemory 0
  else
    let (asid, _, ranges) := k.space sup
    match ranges.toList.find? fun r => r.hits asid va with
    | some r =>
      let pa := (va.toNat + r.offset.toNat) % 2 ^ 52
      .ok ⟨pa, s.place die pa, false, false, k.gen, 1, rightsOf r.flags, 0⟩
    | none =>
      match k.lookup asid va with
      | some t =>
        let pa := leafAddress t.pte t.size va
        .ok ⟨pa, s.place die pa, fld t.pte 8 2 == 1, bit t.pte 5, t.gen, 2, rightsOf t.pte, fld t.pte 8 2⟩
      | none => .miss

/-- Translation without a walk: the right and the checks of the physical map applied. -/
def State.translateHit (s : State) (core : Nat) (sup : Bool) (va : Word) (right : Right) : XRes :=
  match s.lookupVa core sup va with
  | .ok x =>
    if x.source ≠ 3 && !allows x.rights right then .fault .xlatePerm (permInfo right) else s.checkPlace sup right x
  | r => r

/-! ## The walk (R30–R33) -/

/-- The levels of the table: level, lowest VA bit, number of VA bits (R30). -/
def walkLevels : List (Nat × Nat × Nat) := [(4, 48, 8), (3, 39, 9), (2, 30, 9), (1, 21, 9), (0, 12, 9)]

/-- The entry at a table address, where tables may lie (R30). A table word that is poisoned, or in a channel out of service,
is taken as malformed. -/
def State.tableEntry (s : State) (die pa : Nat) : Option Word :=
  match s.place die pa with
  | .hbm k => if s.poisoned k ∨ s.offline k then none else some (s.word k)
  | .spad k => if unitOf k = 16 ∧ s.tagAt k ≠ tagPoison then some (s.word k) else none
  | _ => none

/-- The 16 entries of a 64 KiB page agree (R33). -/
def State.setAgrees (s : State) (die first : Nat) : Bool :=
  match s.tableEntry die first with
  | none => false
  | some f =>
    bit f 6 && fld f 12 4 == 0 &&
    (List.range 16).all fun i =>
      match s.tableEntry die (first + 8 * i) with
      | some e => e == setFld f 12 40 (fld f 12 40 + i)
      | none => false

/-- The state after a table word is read (R389, R391). -/
def State.tableRead (s : State) (die pa : Nat) : State := s.afterRead (s.place die pa) 8

/-- The state after the 16 entries of a 64 KiB set are read, where a leaf names it (R33). -/
def State.setRead (s : State) (die addr : Nat) (e : Word) : State :=
  if bit e 6 then (List.range 16).foldl (fun (s : State) i => s.tableRead die (addr / 128 * 128 + 8 * i)) s else s

/-- A level-0 leaf, or the first of its 64 KiB set where the set disagrees and the translation takes it (R33, log 7). -/
def State.contLeaf (s : State) (die : Nat) (addr : Nat) (e : Word) : Word :=
  if !bit e 6 then e else
  let i := addr / 8 % 16
  let first := addr - 8 * i
  if s.setAgrees die first then e
  else if Config.firstOfSet s.tick then
    match s.tableEntry die first with
    | some f => if bit f 0 ∧ bit f 4 ∧ fld f 10 2 = 0 ∧ fld f 8 2 ≠ 3 then setFld f 12 40 (fld f 12 40 + i) else e
    | none => e
  else e

/-- The walk from a table through the levels that remain (R30). The failures are looked for in the order in which R30 lists
them, so an entry with V clear and reserved bits set leaves TINFO[3] clear (DESIGN CHOICE, log 69). The reads of table words
leave behind what reads of their lines do. -/
def State.walkFrom (die : Nat) (va : Word) : List (Nat × Nat × Nat) → Nat → State → WalkResult × State
  | [], _, s => (.miss 0 false, s)
  | (lvl, lo, n) :: rest, table, s =>
    let addr := table + 8 * fld va lo n
    let s := s.tableRead die addr
    match s.tableEntry die addr with
    | none => (.miss lvl true, s)
    | some e =>
      let leaf := bit e 4
      if !bit e 0 then (.miss lvl false, s)
      else if leaf ∧ 3 ≤ lvl then (.miss lvl false, s)
      else if !leaf ∧ lvl = 0 then (.miss lvl false, s)
      else if fld e 10 2 ≠ 0 ∨ fld e 8 2 = 3 then (.miss lvl true, s)
      else if leaf then
        if fld e 12 40 * 4096 % 2 ^ lo ≠ 0 then (.miss lvl true, s)
        else if lvl = 0 then
          let s := s.setRead die addr e
          (.leaf (s.contLeaf die addr e) lo, s)
        else (.leaf e lo, s)
      else State.walkFrom die va rest (fld e 12 40 * 4096) s

def State.walk (s : State) (die : Nat) (root va : Word) : WalkResult × State :=
  State.walkFrom die va walkLevels root.toNat s

/-- TINFO of XLATE_MISS (R225). -/
def missInfo (lvl : Nat) (malformed : Bool) : Word := BitVec.ofNat 64 (lvl + if malformed then 8 else 0)

/-- Entries of the translation buffer (R34). -/
def tlbEntries : Nat := 1024

/-- A walk's leaf placed in the buffer of a cluster engine (R34). In a full buffer it takes the place of the entry that
`victim` picks (R34 does not say which; log 69). -/
def Cluster.fill (k : Cluster) (victim : Nat) (asid : BitVec 16) (va : Word) (pte : Word) (size : Nat) : Cluster :=
  let old := k.tlb.filter fun t => !(t.asid == asid && t.page == va.toNat / 2 ^ size && t.size == size)
  let kept := if old.length < tlbEntries then old else dropNth old (victim % tlbEntries)
  { k with tlb := ⟨asid, va.toNat / 2 ^ size, size, pte, k.gen⟩ :: kept }

/-- The entry of a full buffer that a leaf replaces at this step (log 69). -/
def State.victimEntry (s : State) : Nat := Config.pick s.tick

/-- Translation for an instruction or fetch of a core: where the buffer misses, the result of a walk made for it that
found no leaf (R30, R34). -/
def State.translate (s : State) (core : Nat) (sup : Bool) (va : Word) (right : Right) : XRes :=
  match s.translateHit core sup va right with
  | .miss =>
    match (s.cluster (clusterOf core)).misses.find? fun m =>
        m.cores.contains core && decide (m.va.toNat / 4096 = va.toNat / 4096) && m.result.isSome with
    | some m => match m.result with
      | some (.miss lvl bad) => .fault .xlateMiss (missInfo lvl bad)
      | _ => .miss
    | none => .miss
  | r => r

/-- A miss waits in the queue for its walk: one whose walk has found no leaf stays only until its cores have seen that. -/
def Miss.waits (m : Miss) : Bool := m.result.isNone

/-- Misses in the queue of a cluster engine (R34). -/
def Cluster.missCount (k : Cluster) : Nat := (k.misses.filter Miss.waits).length

/-- The walk of a miss serves a page of a space (R34). -/
def Miss.serves (m : Miss) (asid : BitVec 16) (root va : Word) : Bool :=
  m.waits && m.asid == asid && m.root == root && decide (m.va.toNat / 4096 = va.toNat / 4096)

/-- A miss of a core's instruction enters the queue of 64, merged with a miss to the same page; a full queue stalls
(R34). -/
def State.queueMiss (s : State) (core : Nat) (sup : Bool) (va : Word) : State :=
  let k := s.cluster (clusterOf core)
  let (asid, root, _) := k.space sup
  if k.misses.any (fun m => m.serves asid root va) then
    s.updCluster (clusterOf core) fun k =>
      { k with
        misses := k.misses.map fun m =>
          if m.serves asid root va && !(m.cores.contains core) then { m with cores := m.cores ++ [core] } else m }
  else if 64 ≤ k.missCount then s
  else s.updCluster (clusterOf core) fun k => { k with misses := k.misses ++ [⟨[core], asid, root, va, k.gen, none⟩] }

/-- Translation by an engine. Where the buffer misses, the miss enters the queue and its walk is made within the engine's
own step (DEDUCED, log 69: R34 bounds only how long that takes). -/
def State.translateNow (s : State) (core : Nat) (sup : Bool) (va : Word) (right : Right) : XRes × State :=
  match s.translateHit core sup va right with
  | .miss =>
    let k := s.cluster (clusterOf core)
    let (asid, root, _) := k.space sup
    match s.walk (dieOf core) root va with
    | (.miss lvl m, s) => (.fault .xlateMiss (missInfo lvl m), s)
    | (.leaf pte size, s) =>
      let s := s.updCluster (clusterOf core) fun k => k.fill s.victimEntry asid va pte size
      (s.translateHit core sup va right, s)
  | r => (r, s)

/-- The word that `xprobe` returns (R224): zero where a load would fault. -/
def probeWord : XRes → Word
  | .ok x =>
    BitVec.ofNat 64 (1 + x.rights * 2 + (if x.mig then 32 else 0) + x.attr * 256 + x.source * 1024
      + x.pa / 4096 * 4096)
  | _ => 0

/-! ## Extents resolved for an engine (R324) -/

/-- An extent of `n` bytes stays in the range entry, the leaf or the alias window of its first byte. -/
def State.extentHolds (s : State) (core : Nat) (sup : Bool) (va : Word) (n source : Nat) : Bool :=
  let k := s.cluster (clusterOf core)
  let (asid, _, ranges) := k.space sup
  let last := va.toNat + n - 1
  if source = 1 then
    match ranges.toList.find? fun r => r.hits asid va with
    | some r => decide (last ≤ r.limit.toNat)
    | none => false
  else if source = 2 then
    match k.lookup asid va with
    | some t => decide (last / 2 ^ t.size = t.page)
    | none => false
  else aliasTarget core last == (aliasTarget core va.toNat).map fun p => p + n - 1

/-- The core cause that the first part of an extent meets, page by page from an address on. -/
def State.partFault (core : Nat) (sup : Bool) (right : Right) : List Word → State → Option Cause × State
  | [], s => (none, s)
  | va :: rest, s =>
    match s.translateNow core sup va right with
    | (.ok _, s) => State.partFault core sup right rest s
    | (.fault c _, s) => (some c, s)
    | (.miss, s) => (some .xlateMiss, s)

/-- An extent resolved to a physical address, or the core cause that its translation met: that of its first part which
fails, or 0x50 where the parts leave the range entry or the leaf of the first (R324). -/
def State.resolve (s : State) (core : Nat) (sup : Bool) (va : Word) (n : Nat) (right : Right) : Except Cause Nat × State :=
  match s.translateNow core sup va right with
  | (.ok x, s) =>
    let first := va.toNat / 4096
    let pages := (List.range ((va.toNat + n - 1) / 4096 - first)).map fun i => wordOf (4096 * (first + 1 + i))
    match State.partFault core sup right pages s with
    | (some c, s) => (.error c, s)
    | (none, s) => if s.extentHolds core sup va n x.source then (.ok x.pa, s) else (.error .xlateMiss, s)
  | (.fault c _, s) => (.error c, s)
  | (.miss, s) => (.error .xlateMiss, s)

end Sys2Proof.Machine
end

