-- ==== Sys2Proof/Machine/Home.lean ====
section
/-! DEFINITION. What a home does (spec/02_addresses.md R37–R39; spec/09_core_memory.md R177–R201; spec/17 R315, R337):
stores, atomics and arrivals applied in one step, the defer queues, and the ready push of a completed dependence word. -/

namespace Sys2Proof.Machine

/-! ## Parked accesses (R178, R179) -/

/-- What a home answers a tagged or watching access: nothing yet, an end, or a value with the state after it. -/
inductive Answer where
  | wait
  | fail (c : Cause) (info : Word)
  | done (v : Word) (s : State)
  deriving DecidableEq, Repr

def tagInfo (t : BitVec 2) : Word := t.zeroExtend 64

/-- A tagged access, or a watch of a word, tried at a place (R177, R178, R203, R204). -/
def State.tryParked (s : State) (pl : Place) (op : ParkOp) : Answer :=
  match pl with
  | .spad k =>
    let t := s.tagAt k
    let w := s.word k
    match op with
    | .wfull n =>
      if t = tagEmpty then .wait
      else if t = tagFull then .done (BitVec.ofNat 64 (readBytes s.mem k n)) s
      else if t = tagArrival then .fail .tagMismatch (tagInfo t) else .fail .memPoison 0
    | .consume n =>
      if t = tagEmpty then .wait
      else if t = tagFull then .done (BitVec.ofNat 64 (readBytes s.mem k n)) (s.setTag k tagEmpty)
      else if t = tagArrival then .fail .tagMismatch (tagInfo t) else .fail .memPoison 0
    | .produce n v =>
      if t = tagEmpty then .done 0 ((s.write k n v).setTag k tagFull)
      else if t = tagFull then .wait
      else if t = tagArrival then .fail .tagMismatch (tagInfo t) else .fail .memPoison 0
    | .gen g =>
      if t = tagArrival then
        if (fld w 54 8 + 256 - g.toNat) % 256 < 128 then .done w s else .wait
      else if t = tagPoison then .fail .memPoison 0 else .fail .tagMismatch (tagInfo t)
    | .mask m =>
      if t = tagPoison then .fail .memPoison 0
      else if w &&& m = m then .done w s else .wait
  | _ =>
    match op with
    | .wfull n =>
      match s.homeRead pl n with
      | .ok (v, s) => .done v s
      | .error (c, i) => .fail c i
    | _ => .fail .tagMismatch (tagInfo (s.tagOf pl))

/-- A parked access tried again at its word: that of `waitg` raises TAG_MISMATCH where the tag has left 10 (R189). -/
def State.retryParked (s : State) (p : Parked) : Answer :=
  match p.op with
  | .gen _ =>
    if s.tagAt p.pa = tagArrival then s.tryParked (.spad p.pa) p.op else .fail .tagMismatch (tagInfo (s.tagAt p.pa))
  | _ => s.tryParked (.spad p.pa) p.op

/-- Tells the core whose access was parked how it came out: its own wait, or that of the code inline code interrupts. -/
def State.tellServed (s : State) (core : Nat) (r : Served) : State :=
  s.updCore core fun k =>
    match k.inl with
    | some i => { k with inl := some { i with outerWait := i.outerWait.map fun w => { w with served := r } } }
    | none => { k with wait := k.wait.map fun w => { w with served := r } }

/-- The first parked entry of a word that its home can now answer: position, entry and answer. -/
def State.firstServable (s : State) (word : Nat) : List Parked → Nat → Option (Nat × Parked × Answer)
  | [], _ => none
  | p :: ps, i =>
    if p.pa / 8 = word / 8 then
      match s.retryParked p with
      | .wait => s.firstServable word ps (i + 1)
      | a => some (i, p, a)
    else s.firstServable word ps (i + 1)

/-- Serves the defer queue of a word in parking order until no entry can be answered (R179). -/
def State.serveWord (word : Nat) : Nat → State → State
  | 0, s => s
  | n + 1, s =>
    match s.firstServable word s.parked 0 with
    | none => s
    | some (i, p, .done v s') =>
      State.serveWord word n (State.tellServed { s' with parked := dropNth s'.parked i } p.core (.value v))
    | some (i, p, .fail c info) =>
      State.serveWord word n (State.tellServed { s with parked := dropNth s.parked i } p.core (.failed c info))
    | some (_, _, .wait) => s

/-- The word at a scratchpad address has changed: its parked entries are served. -/
def State.changed (s : State) (k : Nat) : State := State.serveWord k s.parked.length s

/-- A 64-bit word written by the device itself, its tag kept; what is parked there is served. -/
def State.writeWord (s : State) (k : Nat) (v : Word) : State := (s.write k 8 v).changed k

/-- Withdraws what a core has parked: an access at a home, a put at a stage home, a `qdie` pop (R179, R220, R338, R364). -/
def State.withdraw (s : State) (core : Nat) : State :=
  { s with
    parked := s.parked.filter fun p => p.core != core
    puts := s.puts.filter fun p => p.core != core
    dies := s.dies.map fun kd => (kd.1, { kd.2 with pops := kd.2.pops.filter fun p => p.core != core || !p.qdie }) }

/-! ## Stores (R178, R390) -/

/-- A plain or untagged store of `n` bytes at its home. `who` is the storing core. -/
def State.homeStore (s : State) (who : Nat) (pl : Place) (n : Nat) (v : Word) (untagged : Bool) : Except HomeErr State :=
  match pl with
  | .spad k =>
    let t := s.tagAt k
    if t = tagArrival then .error (.tagMismatch, tagInfo t)
    else if t = tagPoison ∧ (n < 8 ∨ untagged) then .error (.memPoison, 0)
    else
      let t' := if untagged ∧ t = tagEmpty then tagEmpty else tagFull
      .ok (((s.write k n v).setTag k t').changed k)
  | .hbm k =>
    if s.offline k then .error (.stackOffline, BitVec.ofNat 64 (stackOf k))
    else if s.poisoned k then .error (.memPoison, 0)
    else .ok ((s.write k n v).enqueueWrite k n)
  | .ctl pa =>
    let sh := 8 * (pa % 8)
    let mask := BitVec.ofNat 64 ((256 ^ n - 1) * 2 ^ sh)
    .ok (s.ctlWrite (pa / 8 * 8) mask (v <<< sh) who)
  | .ext pa => .ok (s.write pa n v)
  | .away pa c => .error (awayErr pa c)
  | .nowhere => .error (.noMemory, 0)

/-- A store of a word that the hardware itself makes; one that its home refuses changes nothing. -/
def State.plainStore (s : State) (pl : Place) (v : Word) : State :=
  match s.homeStore 0x3FFF pl 8 v false with
  | .ok s => s
  | .error _ => s

/-! ## Arrivals (R196–R198) -/

def arrCount (w : Word) : Nat := fld w 0 27
def arrTarget (w : Word) : Nat := fld w 27 27
def arrGen (w : Word) : Nat := fld w 54 8
def arrMode (w : Word) : Nat := fld w 62 2

/-- The local alias by which the owner of a scratchpad word names it (R25). -/
def aliasOf (k : Nat) : Word :=
  let o := (k - spadBase) % 2 ^ 21
  if unitOf k < 16 then privAlias o else privAlias (0x200000 + o)

/-- A completed dependence word (R197, R315): the TCB's STATE becomes 01 and its push goes to the owner's dispatcher. -/
def State.readyTcb (s : State) (tcb : Nat) (stamp : Word) : State :=
  let c := s.word (tcb + 56)
  let s := s.writeWord (tcb + 56) (setFld c 48 2 1)
  let s := { s with tcbStamp := SMap.put s.tcbStamp tcb stamp }
  s.updCore (fld c 34 14) fun k => { k with disp := { k.disp with pushes := k.disp.pushes ++ [⟨tcb, tcb / 8 % 16⟩] } }

/-- An arrival with its two amounts, applied in one step (R197). -/
def State.arrive (s : State) (pl : Place) (bytes other : Nat) (stamp : Word) : Except HomeErr State :=
  match pl with
  | .spad k =>
    let t := s.tagAt k
    let w := s.word k
    if t ≠ tagArrival then .error (.tagMismatch, tagInfo t)
    else
      let n := if arrMode w = 1 then bytes else other
      if arrMode w = 3 ∨ 2 ^ 27 ≤ n then .error (.arrivalMode, w)
      else
        let c := arrCount w + n
        if c < arrTarget w then .ok ((s.write k 8 (setFld w 0 27 c)).changed k)
        else if arrTarget w ≤ c - arrTarget w then .error (.arrivalOverrun, w)
        else
          let w' := setFld (setFld w 0 27 (c - arrTarget w)) 54 8 (arrGen w + 1)
          let s := s.write k 8 w'
          let s := if arrMode w = 2 then s.readyTcb (k - 8) stamp else s
          .ok (s.changed k)
  | .away pa c => .error (awayErr pa c)
  | _ => .error (.tagMismatch, tagInfo (s.tagOf pl))

/-- An arrival word as `arm` refuses it (R198). -/
def badArm (v : Word) : Bool := arrMode v == 3 || arrTarget v == 0 || decide (arrTarget v ≤ arrCount v)

/-- `arm` at its home (R198). -/
def State.arm (s : State) (pl : Place) (v : Word) : Except HomeErr State :=
  match pl with
  | .spad k =>
    if badArm v then .error (.arrivalMode, v)
    else .ok (((s.write k 8 v).setTag k tagArrival).changed k)
  | .away pa c => .error (awayErr pa c)
  | _ => .error (.tagMismatch, tagInfo (s.tagOf pl))

/-! ## Atomics (R192–R195) -/

/-- Flags of a non-returning atomic go to the home's atomic status word (R193). -/
def State.homeFlags (s : State) (pl : Place) (f : Flags) : State :=
  if f = 0 then s else
  match pl with
  | .spad k => s.updCluster (spadCluster k) fun c => { c with astat := c.astat ||| astatFlags f }
  | .hbm k => s.updStack (stackOf k) fun c => { c with astat := c.astat ||| astatFlags f }
  | _ => s

/-- An atomic of `size` bytes at its home: old value, flags, state (R192). `sig64add` is a signalling 64-bit `add`. -/
def State.homeAtomic (s : State) (who : Nat) (pl : Place) (op : BitVec 4) (size : Nat) (b : Word) (sig : Bool)
    (stamp : Word) : Except HomeErr (Word × Flags × State) :=
  let apply (s : State) (old : Word) (write : State → Word → Except HomeErr State) :
      Except HomeErr (Word × Flags × State) :=
    let (v, f) := amoNew op size old.toNat b.toNat
    match write s (BitVec.ofNat 64 v) with
    | .ok s => .ok (old, f, s)
    | .error e => .error e
  match pl with
  | .spad k =>
    let t := s.tagAt k
    if t = tagPoison then .error (.memPoison, 0)
    else if t = tagArrival then
      if op = 0 ∧ sig ∧ size = 8 then
        let old := s.word k
        match s.arrive pl b.toNat b.toNat stamp with
        | .ok s => .ok (old, 0, s)
        | .error e => .error e
      else .error (.tagMismatch, tagInfo t)
    else
      apply s (BitVec.ofNat 64 (readBytes s.mem k size)) fun s v => .ok (((s.write k size v).setTag k tagFull).changed k)
  | _ =>
    match s.homeRead pl size with
    | .error e => .error e
    | .ok (old, s) => apply s old fun s v => s.homeStore who pl size v false

/-- `cas` at its home: old value, whether it swapped, state (R195). -/
def State.homeCas (s : State) (who : Nat) (pl : Place) (size : Nat) (cmp nv : Word) :
    Except HomeErr (Word × Bool × State) :=
  let t := s.tagOf pl
  if t = tagPoison then .error (.memPoison, 0)
  else if t = tagArrival then .error (.tagMismatch, tagInfo t)
  else
    match s.homeRead pl size with
    | .error e => .error e
    | .ok (old, s) =>
      if old.toNat = lowBytes size cmp then
        match s.homeStore who pl size nv false with
        | .ok s => .ok (old, true, s)
        | .error e => .error e
      else .ok (old, false, s)

/-- A tag written at its home (R189): the value 10 is refused there, with the tag found. -/
def State.homeTag (s : State) (pl : Place) (t : BitVec 2) : Except HomeErr State :=
  match pl with
  | .spad k =>
    if t = tagArrival then .error (.tagMismatch, tagInfo (s.tagAt k)) else .ok ((s.setTag k t).changed k)
  | .away pa c => .error (awayErr pa c)
  | _ => .error (.tagMismatch, tagInfo (s.tagOf pl))

/-! ## Task control blocks at their home (R337) -/

/-- The control word's read and update of `tready`: the TCB's owner must hold it and its state be 00 or 11 (R337). -/
def State.releaseTcb (s : State) (pl : Place) (launch : Option Nat) : Except HomeErr (Word × State) :=
  match pl with
  | .spad k =>
    let c := s.word (k + 56)
    if s.tagAt (k + 56) = tagPoison then .error (.memPoison, 0)
    else if unitOf k < 16 ∧ spadCluster k * 16 + unitOf k = fld c 34 14 ∧ (fld c 48 2 = 0 ∨ fld c 48 2 = 3) then
      let s := s.writeWord (k + 56) (setFld (setFld c 48 2 0) 50 3 0)
      .ok (c, { s with tcbLaunch := SMap.set 0 s.tcbLaunch k (match launch with | some l => l + 1 | none => 0) })
    else .error (.taskState, c)
  | _ => .error (.taskState, 0)

end Sys2Proof.Machine
end

