-- ==== Sys2Proof/Machine/QueueHome.lean ====
section
/-! DEFINITION. Queue descriptors and stage descriptors at their homes (spec/09_core_memory.md R208–R210;
spec/21_dispatch_stages.md R358–R374). Descriptors are named by the canonical address of their word 0. -/

namespace Sys2Proof.Machine

/-! ## Queue descriptors (R208) -/

def State.qWord (s : State) (q i : Nat) : Word := s.word (q + 8 * i)
def State.qCount (s : State) (q : Nat) : Nat := fld (s.qWord q 1) 0 32
def State.qSize (s : State) (q : Nat) : Nat := fld (s.qWord q 1) 32 16
def State.qHead (s : State) (q : Nat) : Nat := (s.qWord q 2).toNat
def State.qTail (s : State) (q : Nat) : Nat := (s.qWord q 3).toNat
def State.qPortal (s : State) (q : Nat) : Bool := bit (s.qWord q 4) 0
def State.qStamp (s : State) (q : Nat) : Bool := bit (s.qWord q 4) 1
def State.qClosed (s : State) (q : Nat) : Bool := bit (s.qWord q 4) 2

/-- Records reserved and not released: TAIL − HEAD modulo 2^64. -/
def State.qDepth (s : State) (q : Nat) : Nat := (s.qWord q 3 - s.qWord q 2).toNat

def State.qFull (s : State) (q : Nat) : Bool := decide (s.qCount q ≤ s.qDepth q)

/-- The descriptor is malformed (R208). -/
def State.qMalformed (s : State) (q : Nat) : Bool :=
  fld (s.qWord q 1) 48 16 != 0 || fld (s.qWord q 4) 3 61 != 0 || s.qCount q == 0
    || s.qCount q != 2 ^ ilog2 (s.qCount q) || s.qSize q == 0 || decide (8 < s.qSize q)

/-- The virtual address of the slot of a position (R208). -/
def State.qSlotVa (s : State) (q pos : Nat) : Word :=
  s.qWord q 0 + BitVec.ofNat 64 (pos % s.qCount q * s.qSize q * 8)

/-- TINFO of QUEUE_TIMEOUT and QUEUE_CLOSED (R209), and the value of `qinfo`. -/
def State.qInfo (s : State) (q : Nat) : Word :=
  BitVec.ofNat 64 (s.qHead q % 2 ^ 32 * 2 ^ 32 + s.qTail q % 2 ^ 32)

/-- A word of a descriptor changed by its home: the tag stands. -/
def State.qSet (s : State) (q i : Nat) (v : Word) : State := s.writeWord (q + 8 * i) v

/-- What an issuer of a portal queue does (R374). -/
inductive PortalUse where
  | produce | consume | info
  deriving DecidableEq, Repr

/-- The capability of a portal queue admits an operation of a partition (R374). `pa` is the descriptor's canonical
address. -/
def State.portalAdmits (s : State) (q part : Nat) (use : PortalUse) : Bool :=
  if !s.qPortal q then true
  else
    let w5 := s.qWord q 5
    let n := fld w5 0 6
    let regs := (s.die 0).regs
    let addr := SMap.get 0 regs (0x5000 + 16 * n)
    let cap := SMap.get 0 regs (0x5008 + 16 * n)
    let at_ := match s.place 0 (fld addr 6 46 * 64) with
      | .spad k => k == q
      | _ => false
    let prod := bit cap part
    let cons := bit cap (16 + part)
    fld w5 6 58 == 0 && bit cap 32 && at_ &&
      (match use with
        | .produce => prod
        | .consume => cons
        | .info => prod || cons)

/-! ## Stage descriptors (R358–R360) -/

/-- Word i of a stage descriptor as the stage home reads it: after attach, the fields that no engine writes are those of the
copy made then (R323). -/
def State.stWord (s : State) (d i : Nat) : Word :=
  let live := s.word (d + 8 * i)
  match s.stage? d with
  | some g =>
    if i = 0 then setFld live 3 19 (fld (g.words.getD 0 0) 3 19)
    else if i < 8 then g.words.getD i 0 else live
  | none => live

def State.stState (s : State) (d : Nat) : Nat := fld (s.word d) 0 2
def State.stCls (s : State) (d : Nat) : Bool := bit (s.word d) 26
def State.stNinst (s : State) (d : Nat) : Nat := fld (s.word d) 22 4
def State.stTwmax (s : State) (d : Nat) : Nat := fld (s.stWord d 0) 18 4
def State.stKbits (s : State) (d : Nat) : Nat := fld (s.stWord d 0) 12 6
def State.stRcount (s : State) (d : Nat) : Nat := fld (s.word d) 32 32

/-- The control word changed by the engine, in one write (R375). -/
def State.stCtl (s : State) (d : Nat) (f : Word → Word) : State := s.writeWord d (f (s.word d))

/-- The control word changed by the engine in one field. -/
def State.stField (s : State) (d lo len v : Nat) : State := s.stCtl d fun w => setFld w lo len v

def State.stEntry (s : State) (d e : Nat) : Word := s.word (d + 64 + 8 * e)
def State.stSetEntry (s : State) (d e : Nat) (w : Word) : State := s.writeWord (d + 64 + 8 * e) w

def entCore (w : Word) : Nat := fld w 0 14
def entQidx (w : Word) : Nat := fld w 14 3
def entPhase (w : Word) : Nat := fld w 17 2
def entValid (w : Word) : Bool := bit w 19
def entBound (w : Word) : Nat := fld w 20 44

/-- The positions of the valid entries. -/
def State.stValid (s : State) (d : Nat) : List Nat := (List.range 8).filter fun e => entValid (s.stEntry d e)

/-- The key of a record (R360); `rec` holds the record words from word 1. -/
def State.stKey (s : State) (d : Nat) (rec : List Word) : Nat :=
  let w := s.stWord d 0
  (rec.getD (fld w 3 3 - 1) 0).toNat / 2 ^ fld w 6 6 % 2 ^ fld w 12 6

/-- The entry whose range holds a key (R360). -/
def State.stRoute (s : State) (d key : Nat) : Nat :=
  (s.stValid d).foldl (fun best e => if entBound (s.stEntry d e) ≤ key then e else best) 0

/-- The queue that a record of a key goes to, and whether its entry is in redirect (R360); 8 is the held queue. -/
def State.stQueueFor (s : State) (d key : Nat) : Nat × Bool :=
  let e := s.stRoute d key
  match entPhase (s.stEntry d e) with
  | 0 => (entQidx (s.stEntry d e), false)
  | 1 => (entQidx (s.stEntry d (e - 1)), true)
  | _ => (8, false)

/-- The physical address of a stage's queue (R358): INQ, TWQ + 64(q − 1), or the held queue at TWQ + 448. -/
def Stage.queue (g : Stage) (q : Nat) : Nat := if q = 0 then g.inq else if q = 8 then g.twq + 448 else g.twq + 64 * (q - 1)

/-- The slot array of a queue has been resolved (R324). -/
def Stage.resolved (g : Stage) (q : Nat) : Bool := (SMap.find g.slots q).isSome

/-- The canonical address of word i of the slot of a position of a stage's queue (R324). -/
def State.stSlotWord (s : State) (g : Stage) (q pos i : Nat) : Nat :=
  let k := g.queue q
  match s.place (dieOf g.issuer) (SMap.get 0 g.slots q + pos % s.qCount k * s.qSize k * 8 + 8 * i) with
  | .spad a => a
  | _ => 0

/-- The slot of a position of a stage's queue, by the canonical address of its word 0. -/
def State.stSlot (s : State) (g : Stage) (q pos : Nat) : Nat := s.stSlotWord g q pos 0

/-- A stage's queue has no room (R364). -/
def State.stFull (s : State) (g : Stage) (q : Nat) : Bool := !g.resolved q || s.qFull (g.queue q)

/-- A record applied to a queue that has room (R364): its position, and the state after it. The words of the slot are
written as plain stores, word 0 last; `part` is the partition whose put it is (R374). -/
def State.stPutTo (s : State) (g : Stage) (q : Nat) (stamp : Word) (rec : List Word) (part : Nat) : Nat × State :=
  let k := g.queue q
  let pos := s.qTail k
  let slot := s.stSlotWord g q pos
  let put := fun (s : State) (a : Nat) (v : Word) => (s.putWord a v).changed a
  let s := (rec.zipIdx).foldl (fun s p => put s (slot (p.2 + 1)) p.1) s
  let s := put s (slot 0) stamp
  let s := { s with origins := SMap.set 0 s.origins (slot 0) (part + 1) }
  (pos, s.qSet k 3 (BitVec.ofNat 64 (pos + 1)))

/-- Words of the record at a position of a stage's queue, from word 1. -/
def State.slotRecord (s : State) (g : Stage) (q pos : Nat) : List Word :=
  (List.range (s.qSize (g.queue q) - 1)).map fun i => s.word (s.stSlotWord g q pos (i + 1))

/-- A slot released as `qrel` does (R209, R362): word 0 becomes empty and HEAD advances. The instance that has drained its
part of the held queue drains it no more (R368). -/
def State.stRelease (s : State) (d : Nat) (g : Stage) (q : Nat) : State :=
  let k := g.queue q
  let head := s.qHead k
  let slot := s.stSlot g q head
  let s := { s with origins := SMap.erase s.origins slot }
  let s := ((s.setTag slot tagEmpty).changed slot).qSet k 2 (BitVec.ofNat 64 (head + 1))
  if q = 8 then s.updStage d fun g => { g with drains := g.drains.filter fun p => p.2 != head + 1 } else s

/-- The queues of a stage's instances (R371). -/
def State.stInstances (s : State) (d : Nat) : List Nat := (s.stValid d).map fun e => entQidx (s.stEntry d e)

/-- Positions of the queues that a stage has: those of its valid entries, and the held queue where twins are allowed. -/
def State.stQueues (s : State) (d : Nat) : List Nat := s.stInstances d ++ (if 1 < s.stTwmax d then [8] else [])

/-- OVL clears once the depth of every instance's queue is below ODEPTH (R371). -/
def State.settled (s : State) (d : Nat) (g : Stage) (w : Word) : Word :=
  if (s.stInstances d).all fun q => decide (s.qDepth (g.queue q) < fld (s.stWord d 4) 32 16) then setFld w 2 1 0 else w

def State.stSettle (s : State) (d : Nat) (g : Stage) : State :=
  if bit (s.word d) 2 then s.stCtl d (s.settled d g) else s

/-- The control word at the end of a change (R364, R367–R369, R371): STATE 01, or 11 for a held close; OVL clear. -/
def changeEnded (w : Word) : Word :=
  let w := setFld w 2 1 0
  if bit w 26 then setFld (setFld w 26 1 0) 0 2 3 else setFld w 0 2 1

/-- Unbinds a core from its stage. -/
def State.unbind (s : State) (core : Nat) : State := s.updCore core fun k => { k with disp := { k.disp with stage := none } }

/-- Positions of the records of a queue that wait at or above HEAD. -/
def State.qPositions (s : State) (k : Nat) : List Nat := (List.range (s.qDepth k)).map fun i => s.qHead k + i

/-- Positions of the held queue that a core has been given to drain, from a position on (R368). -/
def drainsOf (core : Nat) : Nat → List (Nat × Nat) → List Nat
  | _, [] => []
  | a, (c, b) :: rest => (if c = core then (List.range (b - a)).map (a + ·) else []) ++ drainsOf core b rest

/-- The held queue, as far as no one drains it yet, is handed to an instance (R368, R369). -/
def State.handHeld (s : State) (g : Stage) (core : Nat) : Stage :=
  let upto := match g.drains.getLast? with
    | some p => p.2
    | none => s.qHead (g.queue 8)
  if s.qTail (g.queue 8) = upto then g
  else { g with drains := g.drains ++ [(core, s.qTail (g.queue 8))] }

/-- SPLIT has ended by `done` (R366 step 4). Records of the new range in the part of the held queue that entry e drains are
still to be forwarded too, and RCOUNT counts them (R367, R370; DEDUCED, log 74). -/
def State.stSplitDone (s : State) (d : Nat) (g : Stage) (c : Change) : State :=
  let e := c.entry
  let n := s.stNinst d
  let q := entQidx (s.stEntry d e)
  let hi := if e + 1 < n then entBound (s.stEntry d (e + 1)) else 2 ^ s.stKbits d
  let mine := fun q p =>
    let key := s.stKey d (s.slotRecord g q p)
    decide (c.key ≤ key) && decide (key < hi)
  let r := ((s.qPositions (g.queue q)).filter (mine q)).length +
    ((drainsOf (entCore (s.stEntry d e)) (s.qHead (g.queue 8)) g.drains).filter (mine 8)).length
  let phase := if r = 0 then 0 else 1
  let s := ((List.range (n - 1 - e)).reverse).foldl (fun (s : State) i => s.stSetEntry d (e + 2 + i) (s.stEntry d (e + 1 + i))) s
  let s := s.stSetEntry d (e + 1)
    (BitVec.ofNat 64 (c.newCore + c.queue * 2 ^ 14 + phase * 2 ^ 17 + 2 ^ 19 + c.key * 2 ^ 20))
  (s.setStage d { g with change := none }).stCtl d fun w =>
    let w := setFld (setFld w 22 4 (n + 1)) 32 32 r
    if r = 0 then changeEnded w else w

/-- MERGE has ended by `done` (R368 step 4). -/
def State.stMergeDone (s : State) (d : Nat) (g : Stage) (c : Change) : State :=
  let i := c.entry
  let n := s.stNinst d
  let s := s.unbind (entCore (s.stEntry d i))
  let s := s.setStage d (s.handHeld { g with change := none } (entCore (s.stEntry d (i - 1))))
  let s := (List.range (n - 1 - i)).foldl (fun (s : State) j => s.stSetEntry d (i + j) (s.stEntry d (i + j + 1))) s
  (s.stSetEntry d (n - 1) 0).stCtl d fun w => changeEnded (setFld w 22 4 (n - 1))

/-- SPLIT or MERGE has been ended failed by containment (R369): the event is of kind 4. -/
def State.stChangeFailed (s : State) (d : Nat) (g : Stage) (c : Change) (core : Nat) (cause : Option Cause) : State :=
  let s :=
    if c.merge then
      let w := s.stEntry d c.entry
      (s.setStage d (s.handHeld { g with change := none } (entCore w))).stSetEntry d c.entry (setFld w 17 2 0)
    else (s.unbind c.newCore).setStage d { g with change := none }
  (s.stCtl d changeEnded).event 4 cause (some core) (some g.part) (BitVec.ofNat 64 d) 0

/-! ## The stage that a descriptor names (R324, R358, R361) -/

/-- LAUNCH_DESC, or STAGE_DESC for a stage, with TINFO the word index and the core cause code (R324). -/
def resolveCause (kind i : Nat) (c : Cause) : Cause × Word :=
  (if kind = 4 then .stageDesc else .launchDesc, wordOf (i + c.code.toNat * 256))

/-- The canonical address of `n` bytes at a physical address, if all of them lie in the shared scratchpad of a cluster. -/
def State.sharedKey (s : State) (core cl pa n : Nat) : Option Nat :=
  match s.place (dieOf core) pa with
  | .spad k =>
    if unitOf k = 16 ∧ unitOf (k + n - 1) = 16 ∧ spadCluster k = cl ∧ k % 64 = 0 then some k else none
  | _ => none

/-- A queue descriptor's slot array resolved to a physical address in scratchpad, or the core cause (R208, R324). -/
def State.slotArray (s : State) (core : Nat) (sup : Bool) (q : Nat) : Except Cause Nat :=
  let n := s.qCount q * s.qSize q * 8
  if 2 ^ 21 < n then .error .xlateMiss
  else match (s.resolve core sup (s.qWord q 0) (max n 8) .w).1 with
    | .ok pa => match s.place (dieOf core) pa with
      | .spad _ => .ok pa
      | _ => .error .noMemory
    | .error c => .error c

/-- A word of the descriptor that names queue descriptors, resolved (R324, R358): the canonical address, or the cause. -/
def State.stageWord (s : State) (core : Nat) (sup : Bool) (d i n : Nat) : Except (Cause × Word) Nat :=
  match (s.resolve core sup (s.word (d + 8 * i)) n .w).1 with
  | .error c => .error (resolveCause 4 i c)
  | .ok pa => match s.sharedKey core (spadCluster d) pa n with
    | some k => .ok k
    | none => .error (.stageDesc, wordOf i)

/-- The stage that a descriptor names in a space: its queues, and those of their slot arrays that can be resolved. -/
def State.stageNamed (s : State) (core : Nat) (sup : Bool) (d : Nat) : Except (Cause × Word) Stage := do
  let inq ← s.stageWord core sup d 1 64
  let twq ← if s.stTwmax d ≤ 1 then pure 0 else s.stageWord core sup d 2 512
  let g : Stage := ⟨0, (s.core core).pid.toNat, core, sup, inq, twq, (List.range 16).map fun i => s.word (d + 8 * i), [],
    none, [], []⟩
  pure { g with slots := (s.stQueues d).foldl (fun m q => match s.slotArray core sup (g.queue q) with
    | .ok pa => SMap.put m q pa
    | .error _ => m) [] }

/-- The stage at a descriptor: as attached, or, before that, as the issuer's space names it (R361). The cause that refuses
it otherwise. -/
def State.stageView (s : State) (core : Nat) (sup : Bool) (d : Nat) : Except (Cause × Word) Stage :=
  match s.stage? d with
  | some g => .ok g
  | none => s.stageNamed core sup d

/-! ## Puts that wait (R364) -/

/-- An earlier put goes to the queue that a put at a position of the list goes to now. -/
def State.putBehind (s : State) (i : Nat) (p : Put) : Bool :=
  let dest := fun (o : Put) => (s.stQueueFor o.desc (s.stKey o.desc o.words)).1
  (s.puts.take i).any fun o => o.desc == p.desc && dest o == dest p

/-- A core's put waits at the stage home for a full queue, or behind a put that does (R364). -/
def State.putHeld (s : State) (core : Nat) (sup : Bool) : Bool :=
  match findIdx (fun (p : Put) => p.core == core) s.puts 0 with
  | none => false
  | some (i, p) => s.putBehind i p || (match s.stageView core sup p.desc with
    | .ok g => s.stFull g (s.stQueueFor p.desc (s.stKey p.desc p.words)).1
    | .error _ => true)

end Sys2Proof.Machine
end

