-- ==== Sys2Proof/Machine/Life.lean ====
section
/-! DEFINITION. The life of an activation (spec/06_core_state.md R128–R129; spec/10_core_traps.md R219–R222;
spec/17_dispatch_tasks.md R312, R334): its start, its end, and containment through the levels. -/

namespace Sys2Proof.Machine

/-! ## Launches -/

/-- The launch whose completion record counts a launch's faults: the launch itself, or the graph launch it is a member
of (R220, R322). -/
def State.rootLaunch (s : State) (k : Nat) : Nat :=
  match s.launch? k with
  | some l => match l.parent with
    | some (r, _) => r
    | none => k
  | none => k

/-- The activation's work still under way counts for the retirement of its launch, and of its group (R325, R351). -/
def State.markDirty (s : State) (core : Nat) (a : Act) : State :=
  let s := match a.source with
    | .member l g _ _ => s.updLaunch l fun x => { x with groups := x.groups.map fun gr =>
        if gr.index = g then { gr with dirty := core :: gr.dirty.filter (· != core), dirtyNm := gr.dirtyNm ++ a.nm } else gr }
    | _ => s
  (a.launch.toList ++ a.held).foldl (fun (s : State) l => s.updLaunch l fun x =>
    { x with dirty := core :: x.dirty.filter (· != core), dirtyNm := x.dirtyNm ++ a.nm }) s

/-- A member of a launch has ended. -/
def State.memberEnds (s : State) (k : Nat) : State := s.updLaunch k fun l => { l with live := l.live - 1 }

/-- A member has joined a launch. -/
def State.memberJoins (s : State) (k : Nat) : State := s.updLaunch k fun l => { l with live := l.live + 1 }

/-! ## Start of an activation (R128) -/

/-- h0–h3 hold the arguments, h4–h15 are dead (R128). -/
def startRegs (args : List Word) : Vector Reg 16 :=
  Vector.ofFn fun i => if i.val < 4 then ⟨args.getD i.val 0, .present, none⟩ else Reg.reset

/-- The context of a starting activation, before its entry header is checked: LEN 0 says so (R43, R128). -/
def startCtx (a : Act) (ybud retries : Nat) : Ctx :=
  { Ctx.reset with
    regs := startRegs a.args, hdr := a.entry, pc := a.entry + 8, len := 0, st := a.stamp, ycnt := ybud, priv := a.sup,
    retries := BitVec.ofNat 3 retries, lteam := a.levels.getD 0 0, lgroup := a.levels.getD 1 0,
    lgrid := a.levels.getD 2 0, lgraph := a.levels.getD 3 0, lpart := a.levels.getD 4 0, lsrc := a.lsrc }

/-- The context of the core's activation, also where inline code interrupts it (R293). -/
def Core.outerCtx (k : Core) : Ctx :=
  match k.inl with
  | some i => i.outer
  | none => k.ctx

/-- Sets the context and the wait of the core's activation, also where inline code interrupts it (R293). -/
def Core.setOuter (k : Core) (c : Ctx) (w : Option Wait) : Core :=
  match k.inl with
  | some i => { k with inl := some { i with outer := c, outerWait := w } }
  | none => { k with ctx := c, wait := w }

/-- The activation's accesses are its own no longer; those of inline code stay. Its commands stay its own until they have
retired (R220, R231). -/
def Core.disown (k : Core) : Core :=
  { k with flight := k.flight.map fun x => if x.inl then x else { x with live := false } }

/-- Starts an activation on a core (R128): accumulators become clean, the instruction buffer empties (R12), a TCB's STATE
becomes 10 (R312), and an armed injection takes hold (R341). -/
def State.startAct (s : State) (core : Nat) (a : Act) (retries : Nat) : State :=
  let armed := match a.source with
    | .tcb k => (SMap.find s.injects k).isSome
    | _ => false
  let a := { a with mxLive := 0, mxLast := 0, chLive := 0, chLast := 0, chPoison := 0, mxOffset := 0, chOffset := 0,
                    nm := [], inject := armed, held := [], ending := none }
  let s := match a.source with
    | .tcb k =>
      let s := s.writeWord (k + 56) (setFld (s.word (k + 56)) 48 2 2)
      { s with injects := SMap.erase s.injects k }
    | _ => s
  s.updCore core fun k =>
    { k.setOuter (startCtx a k.ybud.toNat retries) none with
      act := some a, suspCtx := { k.suspCtx with fifos := false }, trapping := none, ibuf := [], causes := [], mx := { k.mx with accs := Vector.replicate 4 Accum.reset } }

/-! ## End of an activation -/

/-- The context an activation's end leaves: everything of it is discarded (R129). -/
def idleCtx : Ctx := Ctx.reset

/-- Members of a gang that wait at a barrier when another member ends (R206): BARRIER_MISMATCH with TINFO 2. -/
def Barrier.memberEnds (b : Barrier) : Barrier :=
  { b with broken := b.broken ++ b.arrived.map fun p => (p.1, 2), arrived := [] }

/-- A core leaves its team and group (R206, R307). -/
def Launch.coreEnds (l : Launch) (g t core : Nat) : Launch :=
  { l with groups := l.groups.map fun gr =>
      if gr.index = g then
        { gr with
          bar := gr.bar.memberEnds
          teams := gr.teams.mapIdx fun i tm =>
            if i = t then { tm with live := tm.live.filter fun c => c != core, bar := tm.bar.memberEnds } else tm }
      else gr }

/-- What the end of an activation means to the source it came from (R220, R334, R362, R366–R369). -/
def State.sourceEnds (s : State) (core : Nat) (a : Act) (failed : Bool) (cause : Option Cause) : State :=
  match a.source with
  | .tcb k => s.writeWord (k + 56) (setFld (s.word (k + 56)) 48 2 3)
  | .body d q _ =>
    match s.stage? d with
    | some g => (s.stRelease d g q).stSettle d g
    | none => s
  | .split d =>
    match s.stage? d with
    | some g => match g.change with
      | some c => if failed then s.stChangeFailed d g c core cause else s.stSplitDone d g c
      | none => s
    | none => s
  | .merge d =>
    match s.stage? d with
    | some g => match g.change with
      | some c => if failed then s.stChangeFailed d g c core cause else s.stMergeDone d g c
      | none => s
    | none => s
  | .member l g t _ => s.updLaunch l fun x => x.coreEnds g t core
  | _ => s

/-- Commands that the activation issued to the core's engines and that have not retired (R231, R259). -/
def Act.busy (a : Act) : Bool := decide (0 < a.mxLive) || decide (0 < a.chLive)

/-- A core's activation runs no more (R220): its waits stop and its parked accesses are withdrawn; what it has issued runs
on. -/
def State.stopAct (s : State) (core : Nat) : State :=
  (s.withdraw core).updCore core fun k => { (k.disown).setOuter idleCtx none with trapping := none, causes := [] }

/-- What the end of an activation means to its source, its launch and the launches whose slots it holds (R220, R325). -/
def State.closeAct (s : State) (core : Nat) (a : Act) (failed : Bool) (cause : Option Cause) : State :=
  let s := (s.sourceEnds core a failed cause).markDirty core a
  let s := match a.launch with
    | some l => s.memberEnds l
    | none => s
  a.held.foldl State.memberEnds s

/-- Starts an activation on its core again, with its original arguments and stamp (R220). -/
def State.startAgain (s : State) (core : Nat) (a : Act) (retries : Nat) : State :=
  let s := match a.source with
    | .tcb k => s.writeWord (k + 56) (setFld (s.word (k + 56)) 50 3 retries)
    | _ => s
  (s.startAct core a retries).updCore core fun k => { k with act := k.act.map fun x => { x with held := a.held } }

/-- The running activation leaves its core once every command that it issued has retired: it has ended, or it starts
again, or its TCB is ready again (R220, R231). -/
def State.leaveCore (s : State) (core : Nat) (a : Act) (e : Ending) : State :=
  match e with
  | .again r => s.startAgain core a r
  | .ready =>
    let s := s.updCore core fun k => { k with act := none, causes := [], disp := { k.disp with current := none } }
    match a.source with
    | .tcb k => s.readyTcb k a.stamp
    | _ => s
  | .ended failed cause =>
    (s.updCore core fun k => { k with act := none, causes := [], disp := { k.disp with current := none } }).closeAct core a
      failed cause

/-- A running activation stops, and leaves its core when its commands have retired (R231). -/
def State.dismiss (s : State) (core : Nat) (e : Ending) : State :=
  match (s.core core).act with
  | none => s
  | some a =>
    let s := s.stopAct core
    if a.busy then
      (s.updCore core fun k => { k with act := some { a with ending := some e } }).markDirty core a
    else s.leaveCore core a e

/-- The turn of a core whose activation has been stopped: it leaves once its commands have retired. -/
def State.leaves (s : State) (core : Nat) : State :=
  match (s.core core).act with
  | some a => match a.ending with
    | some e => if a.busy then s else s.leaveCore core a e
    | none => s
  | none => s

/-- The commands that a suspended activation carries run on in its core's channel, behind those that are there (R220). -/
def Channel.discharge (c : Channel) : Channel :=
  let ms := c.carried.mapIdx fun i m => { m with value := c.issued + 1 + i, owned := false, after := 0 }
  let num := fun (v : Nat) => match findIdx (fun (m : ChCmd) => m.value == v) c.carried 0 with
    | some (i, _) => c.issued + 1 + i
    | none => v
  { c with
    inbox := c.inbox ++ ms, held := c.held ++ c.carriedHeld.map fun f => { f with value := num f.value }
    issued := c.issued + ms.length, carried := [], carriedHeld := [] }

/-- The suspended activation of a core leaves it, once none of its commands is in the channel: it has ended, or it will
start again from its entry where it would have resumed (R220, R231). -/
def State.leaveSusp (s : State) (core : Nat) : State :=
  let k := s.core core
  match k.susp with
  | some a => match a.ending with
    | some e =>
      if k.chan.inbox.any fun m => !m.owned then s
      else match e with
        | .again r => s.updCore core fun k =>
            { k with susp := some { a with ending := none }, suspCtx := { SuspCtx.none with fresh := some r } }
        | .ready =>
          let s := s.updCore core fun k => { k with susp := none, suspCtx := SuspCtx.none }
          match a.source with
          | .tcb k => s.readyTcb k a.stamp
          | _ => s
        | .ended failed cause =>
          (s.updCore core fun k => { k with susp := none, suspCtx := SuspCtx.none }).closeAct core a failed cause
    | none => s
  | none => s

/-- A suspended activation is dismissed. -/
def State.dismissSusp (s : State) (core : Nat) (e : Ending) : State :=
  match (s.core core).susp with
  | none => s
  | some a =>
    let s := s.updCore core fun k => { k with susp := some { a with ending := some e }, chan := k.chan.discharge }
    (s.markDirty core a).leaveSusp core

/-- Ends the running or the suspended activation of a core (R129, R220). -/
def State.endAct (s : State) (core : Nat) (susp failed : Bool) (cause : Option Cause) : State :=
  if susp then s.dismissSusp core (.ended failed cause) else s.dismiss core (.ended failed cause)

/-- Ends every activation, running or suspended, that a test selects. -/
def State.endWhere (s : State) (p : Act → Bool) (failed : Bool) (cause : Option Cause) : State :=
  s.cores.foldl (fun s kc =>
    let s := if (kc.2.act.map p).getD false then s.endAct kc.1 false failed cause else s
    if (kc.2.susp.map p).getD false then s.endAct kc.1 true failed cause else s) s

/-! ## Members of a gang (R345) -/

/-- The record of a member activation of a grid's group. `pa` gives the levels' descriptor addresses. -/
def memberAct (key : Nat) (l : Launch) (grp team rank : Nat) (levels : List Word) : Act :=
  { source := .member key grp team rank, entry := l.gridWords.getD 2 0, args := l.args, stamp := l.stamp, sup := l.sup,
    hasLevel := false, cp := 3, retry := 0, prio := l.prio, launch := none, levels := levels, lsrc := 0,
    gang := some (key, grp, team, rank), mxLive := 0, mxLast := 0, chLive := 0, chLast := 0, chPoison := 0, mxOffset := 0, chOffset := 0, nm := [],
    held := [], inject := false, ending := none }

/-- The levels of a member of a group (R345). -/
def State.memberLevels (s : State) (l : Launch) (g : Group) (t : Team) : List Word :=
  [wordOf t.desc, wordOf g.desc, wordOf l.gridDesc, wordOf l.graphDesc, wordOf (s.part l.part).desc]

/-- Starts the members of a team on their cores. -/
def State.startTeam (s : State) (key : Nat) (l : Launch) (g : Group) (ti : Nat) (t : Team) : State :=
  (t.cores.zipIdx).foldl (fun s p =>
    State.startAct s p.1 (memberAct key l g.index ti p.2 (s.memberLevels l g t)) 0) s

/-- Changes one team of a group of a launch. -/
def Launch.updTeam (l : Launch) (g t : Nat) (f : Team → Team) : Launch :=
  { l with groups := l.groups.map fun gr =>
      if gr.index = g then { gr with teams := gr.teams.mapIdx fun i tm => if i = t then f tm else tm } else gr }

def Launch.updGroup (l : Launch) (g : Nat) (f : Group → Group) : Launch :=
  { l with groups := l.groups.map fun gr => if gr.index = g then f gr else gr }

def Launch.group? (l : Launch) (g : Nat) : Option Group := l.groups.find? fun gr => gr.index = g

def Barrier.empty : Barrier := ⟨[], [], []⟩

/-! ## Containment (R219–R222) -/

/-- A level of an activation: activation, team, group, grid, graph. -/
inductive LevelKind where
  | activation | team | group | grid | graph
  deriving DecidableEq, Repr

/-- The canonical address of a descriptor named by a level register. -/
def State.descKey (s : State) (core : Nat) (pa : Word) : Nat :=
  match s.place (dieOf core) pa.toNat with
  | .spad k => k
  | .hbm k => k
  | _ => pa.toNat

/-- The levels present, lowest first, with their descriptors (R219). -/
def presentLevels (a : Act) (c : Ctx) : List (LevelKind × Word) :=
  (if a.hasLevel then [(.activation, 0)] else []) ++
  ([(.team, c.lteam), (.group, c.lgroup), (.grid, c.lgrid), (.graph, c.lgraph)].filter fun p => p.2 != 0)

/-- The activation belongs to the level's instance that `a` belongs to: a member of the gang, a task of one, or a codelet
released into it. -/
def sameInstance (kind : LevelKind) (a b : Act) : Bool :=
  match kind, a.gang, b.gang with
  | .team, some (l, g, t, _), some (l', g', t', _) => l == l' && g == g' && t == t'
  | .group, some (l, g, _, _), some (l', g', _, _) => l == l' && g == g'
  | .grid, _, _ => a.levels.getD 2 0 != 0 && a.levels.getD 2 0 == b.levels.getD 2 0
  | .graph, _, _ => a.levels.getD 3 0 == b.levels.getD 3 0
  | _, _, _ => false

/-- The launch an activation belongs to: its own, or that of its group. -/
def Act.launchKey (a : Act) : Option Nat :=
  match a.source with
  | .member l _ _ _ => some l
  | _ => a.launch

/-- Records a cause (R220): the launch's fault count and first fault, and the TCB's. -/
def State.record (s : State) (a : Act) (c : Cause) (first : Cause × Word) : State :=
  let s := match a.launchKey with
    | some l => s.updLaunch (s.rootLaunch l) fun x =>
        { x with faults := sat (2 ^ 32 - 1) (x.faults + 1), first := match x.first with
          | some f => some f
          | none => some first }
    | none => s
  match a.source with
  | .tcb k =>
    let w := s.word (k + 56)
    s.writeWord (k + 56) (setFld (setFld w 0 24 (sat (2 ^ 24 - 1) (fld w 0 24 + 1))) 24 8 c.code.toNat)
  | _ => s

/-- Activations of a launch, or that hold a slot of it, that have been stopped and have not yet ended (R231). -/
def State.endingOf (s : State) (key : Nat) : Nat :=
  s.cores.foldl (fun n kc => (kc.2.act.toList ++ kc.2.susp.toList).foldl (fun n a =>
    if a.ending.isSome then n + (if a.launch = some key then 1 else 0) + a.held.count key else n) n) 0

/-- A launch, and the launches of its graph members, can start nothing more, and its activations end (R219, R220); a core
that has yet to start one drops it. -/
def State.endLaunch (s : State) (root : Nat) (cause : Option Cause) : State :=
  let keys := (s.launches.filter fun kl => kl.1 == root || kl.2.parent.any fun p => p.1 == root).map Prod.fst
  let s := s.endWhere (fun a => match a.launchKey with
    | some l => keys.contains l
    | none => false) true cause
  let s : State := { s with cores := s.cores.map fun (kc : Nat × Core) => (kc.1, { kc.2 with disp :=
    { kc.2.disp with targeted := kc.2.disp.targeted.filter fun k => !keys.contains k } }) }
  let s := keys.foldl (fun s k => s.updLaunch k fun l =>
    { l with closed := true, live := s.endingOf k, groups := l.groups.map fun g => { g with phase := .retired } }) s
  s.updLaunch root fun l => { l with failed := true }

/-- The launch's status becomes 1 where an instance at its top level ends failed (R325). -/
def State.topFails (s : State) (a : Act) (kind : LevelKind) : State :=
  match a.launchKey with
  | none => s
  | some k =>
    let root := s.rootLaunch k
    match s.launch? root with
    | none => s
    | some l =>
      let top : Bool := match l.kind with
        | 1 => kind == .grid
        | 3 => kind == .graph
        | 4 => false
        | _ => kind == .activation
      if top then s.setLaunch root { l with failed := true } else s

/-- Ends the level's instance failed (R220). -/
def State.endFailed (s : State) (core : Nat) (a : Act) (kind : LevelKind) (c : Cause) : State :=
  let s := s.topFails a kind
  match kind, a.gang with
  | .activation, _ => s.endAct core false true (some c)
  | .grid, _ =>
    let s := (s.endWhere (sameInstance .grid a) true (some c)).endAct core false true (some c)
    (a.launchKey.toList).foldl (fun (s : State) l => s.updLaunch l fun x => { x with closed := true, groups := x.groups.map fun g =>
      if g.phase = .released then { g with phase := .retired } else g }) s
  | .graph, _ =>
    match a.launchKey with
    | some l => s.endLaunch (s.rootLaunch l) (some c)
    | none => s.endAct core false true (some c)
  | k, _ => (s.endWhere (sameInstance k a) true (some c)).endAct core false true (some c)

/-- Starts a core's running activation again from its entry, with its original arguments and stamp (R220). -/
def State.restart (s : State) (core : Nat) (retries : Nat) : State := s.dismiss core (.again retries)

/-- A member of a graph is queued again (R220): a TCB becomes ready; a task of another source takes its core again at
once, as the head of its queue, and a stage body its record, which it has not released (log 78). -/
def State.requeueTask (s : State) (core : Nat) (a : Act) : State :=
  match a.source with
  | .tcb _ => s.dismiss core .ready
  | _ => s.restart core (s.core core).outerCtx.retries.toNat

/-- The activation is a gang member, not a task that one spawned. -/
def Act.isMember (a : Act) : Bool :=
  match a.source with
  | .member _ _ _ _ => true
  | _ => false

/-- A member of a team starts again on its core: where it runs, where it is suspended, or where it has ended (R220). -/
def State.restartMember (s : State) (key : Nat) (l : Launch) (g : Group) (ti : Nat) (t : Team) (core rank : Nat) : State :=
  let mine := fun (b : Act) => b.source == Source.member key g.index ti rank
  let k := s.core core
  let new := memberAct key l g.index ti rank (s.memberLevels l g t)
  if (k.act.map mine).getD false then s.restart core 0
  else if (k.susp.map mine).getD false then s.dismissSusp core (.again 0)
  else if k.act.isNone then s.startAct core new 0
  else if k.susp.isNone then
    s.updCore core fun k => { k with susp := some new, suspCtx := { SuspCtx.none with fresh := some 0 } }
  else s

/-- The cores of a team are forgotten at their group's barrier: they will come to it again. -/
def Barrier.forget (b : Barrier) (cores : List Nat) : Barrier :=
  { arrived := b.arrived.filter fun p => !cores.contains p.1, leaving := b.leaving.filter fun c => !cores.contains c
    broken := b.broken.filter fun p => !cores.contains p.1 }

/-- Re-queues a group: its members end and it is placed afresh (R220, R353). -/
def State.requeueGroup (s : State) (core : Nat) (a : Act) (c : Cause) : State :=
  match a.gang with
  | some (l, g, _, _) =>
    let s := s.endWhere (sameInstance .group a) true (some c)
    let s := s.endAct core false true (some c)
    s.updLaunch l fun x => x.updGroup g fun gr => { gr with phase := .released, teams := [], bar := Barrier.empty }
  | none => s.restart core 0

/-- Runs the level's instance again (R220): the activation, the team in place, the group or the graph member re-queued. -/
def State.rerun (s : State) (core : Nat) (a : Act) (kind : LevelKind) (used : Nat) (c : Cause) : State :=
  match kind, a.gang with
  | .activation, _ => s.restart core used
  | .team, some (l, g, t, _) =>
    let s := s.endWhere (fun b => sameInstance .team a b && !b.isMember) true (some c)
    match s.launch? l with
    | some x => match x.group? g with
      | some gr => match gr.teams[t]? with
        | some tm =>
          let x := (x.updTeam g t fun tm => { tm with live := tm.cores, bar := Barrier.empty }).updGroup g fun gr =>
            { gr with bar := gr.bar.forget tm.cores }
          let s := s.setLaunch l x
          (tm.cores.zipIdx).foldl (fun s p => s.restartMember l x gr t tm p.1 p.2) s
        | none => s
      | none => s
    | none => s
  | .team, _ => s.restart core (s.core core).outerCtx.retries.toNat
  | .group, _ => s.requeueGroup core a c
  | _, some _ => s.requeueGroup core a c
  | _, none => s.requeueTask core a

/-- Fields of a level word (R306). -/
def lvlCp (w : Word) : Nat := fld w 0 2
def lvlRetry (w : Word) : Nat := fld w 2 3
def lvlUsed (w : Word) : Nat := fld w 5 3

/-- The graph level, alone above an activation, runs the failed member again (R219, R220). -/
def State.graphRetries (s : State) (core : Nat) : List (LevelKind × Word) → Bool
  | [(.graph, reg)] =>
    let w := s.word (s.descKey core reg)
    lvlCp w == 1 && decide (lvlUsed w < lvlRetry w)
  | _ => false

/-- The walk of R219. Answers the state, and whether the cause was ignored. Where the walk comes to an end, the kiosk
receives the cause with its TADDR and TINFO (R418). A task that its graph will run again is not ended first. -/
def State.containWalk (core : Nat) (a : Act) (c : CauseRec) : List (LevelKind × Word) → State → State × Bool
  | [], s =>
    let s := match a.launchKey with
      | some l => s.endLaunch (s.rootLaunch l) (some c.cause)
      | none => s
    let s := s.endAct core false true (some c.cause)
    (s.event 2 (some c.cause) (some core) (some (s.core core).pid.toNat) c.addr c.info, false)
  | (kind, reg) :: rest, s =>
    let d := s.descKey core reg
    let s := if kind = .activation then s
      else s.writeWord d (setFld (s.word d) 32 32 (sat (2 ^ 32 - 1) (fld (s.word d) 32 32 + 1)))
    let w := s.word d
    let cp := if kind = .activation then a.cp.toNat else lvlCp w
    let limit := if kind = .activation then a.retry else lvlRetry w
    let used := if kind = .activation then (s.core core).outerCtx.retries.toNat else lvlUsed w
    if cp = 0 ∧ c.cause.ignorable then (s, true)
    else if cp = 1 ∧ used < limit then
      let s := if kind = .activation then s else s.writeWord d (setFld w 5 3 (used + 1))
      (s.rerun core a kind (used + 1) c.cause, false)
    else if cp = 3 ∧ kind = .activation ∧ s.graphRetries core rest then State.containWalk core a c rest s
    else
      let s := s.endFailed core a kind c.cause
      if cp = 3 then State.containWalk core a c rest s else (s, false)

/-- The member's team stops, in checkpoint mode (R222): every member stops at once, its accesses are its own no longer,
and the cause is posted. -/
def State.stopTeam (s : State) (core : Nat) (l g t : Nat) (c : CauseRec) : State :=
  match s.launch? l with
  | none => s
  | some x =>
    let s := s.setLaunch l (x.updTeam g t fun tm => { tm with stopped := true, bar := Barrier.empty })
    let cores := match x.group? g with
      | some gr => match gr.teams[t]? with
        | some tm => tm.live
        | none => []
      | none => []
    let s := cores.foldl (fun (s : State) m => (s.withdraw m).updCore m fun k =>
      { (k.disown).setOuter { k.outerCtx with latch := none } none with trapping := none, causes := [] }) s
    s.event 5 (some c.cause) (some core) (some x.part) c.addr c.info

/-- Containment of a cause of the running activation (R219): the state, and whether the cause was ignored. `first` is
what a first fault records (R214, R220). -/
def State.contain (s : State) (core : Nat) (c : CauseRec) (first : Cause × Word) : State × Bool :=
  let k := s.core core
  match k.act with
  | none => (s, false)
  | some a =>
    let s := s.record a c.cause first
    let td := s.descKey core k.outerCtx.lteam
    match a.source with
    | .member l g t _ =>
      if k.outerCtx.lteam ≠ 0 ∧ bit (s.word td) 11 ∧ lvlUsed (s.word td) < lvlRetry (s.word td) then
        (s.stopTeam core l g t c, false)
      else State.containWalk core a c (presentLevels a k.outerCtx) s
    | _ => State.containWalk core a c (presentLevels a k.outerCtx) s

end Sys2Proof.Machine
end

