-- ==== Sys2Proof/Machine/Fetch.lean ====
section
/-! DEFINITION. Instruction fetch and block headers (spec/01_device.md R12; spec/03_encoding.md R40–R45). -/

namespace Sys2Proof.Machine

/-- What a fetch answers. -/
inductive Fetched (α : Type) where
  | ok (v : α)
  | fault (c : Cause) (info : Word)
  /-- a walk is needed first -/
  | miss
  deriving DecidableEq, Repr

/-- The canonical address that a fetch address names for a core: its own private or its cluster's shared scratchpad
(R12). -/
def State.fetchKey (s : State) (core : Nat) (sup : Bool) (va : Word) : Fetched Nat :=
  match s.translate core sup va .x with
  | .miss => .miss
  | .fault c i => .fault c i
  | .ok x =>
    match x.place with
    | .spad k =>
      if spadCluster k = clusterOf core ∧ (unitOf k = core % 16 ∨ unitOf k = 16) then .ok k else .fault .fetchFault 0
    | _ => .fault .fetchFault 0

/-- The instruction-sized word at a canonical address. -/
def State.homeWord32 (s : State) (k : Nat) : BitVec 32 := BitVec.ofNat 32 (readBytes s.mem k 4)

/-- A fetch of an instruction-sized word: the buffer's copy may be taken where it differs from its home (R12, log 6). -/
def State.fetch32 (s : State) (core : Nat) (sup : Bool) (va : Word) : Fetched (BitVec 32) :=
  match s.fetchKey core sup va with
  | .miss => .miss
  | .fault c i => .fault c i
  | .ok k =>
    let home := s.homeWord32 k
    match SMap.find (s.core core).ibuf k with
    | none => .ok home
    | some copy => if copy = home then .ok home else if Config.takesCopy (s.tick + va.toNat) then .ok copy else .ok home

/-- A fetch of a doubleword: two instruction-sized halves. -/
def State.fetch64 (s : State) (core : Nat) (sup : Bool) (va : Word) : Fetched Word :=
  match s.fetch32 core sup va, s.fetch32 core sup (va + 4) with
  | .ok lo, .ok hi => .ok (hi ++ lo)
  | .fault c i, _ => .fault c i
  | _, .fault c i => .fault c i
  | _, _ => .miss

/-- The buffer keeps a copy of a word that was fetched, under the address of the word's home (R12). -/
def State.keepCopy (s : State) (core : Nat) (sup : Bool) (va : Word) (w : BitVec 32) : State :=
  match s.fetchKey core sup va with
  | .ok home => s.updCore core fun k => { k with ibuf := SMap.put k.ibuf home w }
  | _ => s

/-! ## Headers (R41–R44) -/

/-- The manner of an entry (R43); `again` is the manner `loop` of a body whose iteration closes (R149, R215). -/
inductive How where
  | transfer | loop | again | fallthrough | start
  deriving DecidableEq, Repr

def hdrMark (h : Word) : Nat := fld h 58 6
def hdrLen (h : Word) : Nat := fld h 48 10
def hdrLive (h : Word) : BitVec 16 := h.extractLsb' 32 16
def hdrCarry (h : Word) : Nat := fld h 29 3
def hdrKind (h : Word) : Kind :=
  match fld h 27 2 with
  | 0 => .ordinary
  | 1 => .loop
  | 2 => .yield
  | _ => .entry

/-- How a header check comes out: the header, a cause at the transferring instruction or at the header, a walk. -/
inductive HdrRes where
  | ok (h : Word)
  | atSource (c : Cause)
  | atHeader (c : Cause) (info : Word)
  | miss
  deriving DecidableEq, Repr

/-- The checks of R43. A BAD_TARGET of a transfer, or of a body's first entry, is reported at the transferring instruction;
the other entries have none, and report it at the header (R215). -/
def State.checkHeader (s : State) (core : Nat) (sup : Bool) (a : Word) (how : How) : HdrRes :=
  let bad : HdrRes := if how = .transfer ∨ how = .loop then .atSource .badTarget else .atHeader .badTarget 0
  if a.toNat % 8 ≠ 0 then bad
  else match s.fetch64 core sup a with
  | .miss => .miss
  | .fault c i => .atHeader c i
  | .ok h =>
    if hdrMark h ≠ 0b111110 then (if how = .fallthrough then .atHeader .badHeader 0 else bad)
    else if hdrLen h = 0 ∨ 4 < hdrCarry h ∨ fld h 24 3 ≠ 0 then .atHeader .badHeader 0
    else if hdrKind h = .entry ∧ (hdrCarry h ≠ 0 ∨ fld h 36 12 ≠ 0) then .atHeader .badHeader 0
    else if how = .start ∧ hdrKind h ≠ .entry then bad
    else if (how = .loop ∨ how = .again) ∧ hdrKind h ≠ .loop then bad
    else if hdrKind h = .yield then
      if hdrCarry h ≠ 0 then .atHeader .yieldPlacement 0
      else match s.fetch32 core sup (a + 8) with
        | .miss => .miss
        | .fault c i => .atHeader c i
        | .ok w => if w.extractLsb' 24 8 = 0xC3#8 then .ok h else .atHeader .yieldPlacement 0
    else .ok h

/-- Registers outside LIVE become dead (R43). -/
def killRegs (regs : Vector Reg 16) (live : BitVec 16) : Vector Reg 16 :=
  regs.mapFinIdx fun i r _ => if live.getLsbD i then r else { r with cond := .dead, pend := none }

/-- The context after a header has passed its checks (R43). -/
def Ctx.entered (c : Ctx) (a h : Word) : Ctx :=
  { c with trellis := c.trellis.take (hdrCarry h), regs := killRegs c.regs (hdrLive h), pc := a + 8, hdr := a,
           len := hdrLen h, kind := hdrKind h }

/-- The end of the block being executed (R42). -/
def Ctx.blockEnd (c : Ctx) : Word := c.hdr + 8 + BitVec.ofNat 64 (4 * c.len)

/-- The header that follows the block (R42). -/
def Ctx.nextHeader (c : Ctx) : Word := c.hdr + 8 + BitVec.ofNat 64 (4 * (c.len + c.len % 2))

/-- The header of the block that holds an instruction address: the nearest doubleword below it whose upper half is a
header's, if its block reaches the address. Used where only the return point of a loop was saved (R151). -/
def State.findBlock (s : State) (core : Nat) (sup : Bool) (pc : Word) : Nat → Nat → Option (Word × Word)
  | 0, _ => none
  | n + 1, i =>
    let a := BitVec.ofNat 64 (pc.toNat / 8 * 8 - 8 * i)
    match s.fetch64 core sup a with
    | .ok h =>
      if hdrMark h = 0b111110 ∧ a.toNat + 8 ≤ pc.toNat then
        (if pc.toNat ≤ a.toNat + 8 + 4 * hdrLen h then some (a, h) else none)
      else s.findBlock core sup pc n (i + 1)
    | _ => none

end Sys2Proof.Machine
end

