-- ==== Sys2Proof/Machine/Save.lean ====
section
/-! DEFINITION. The layout shared by save areas, trap frames and checkpoints (spec/06_core_state.md R131, R132;
spec/10_core_traps.md R213; spec/07_core_integer.md R151). -/

namespace Sys2Proof.Machine

/-- ABSENT of CSTAT: one bit for each absent register (R126). -/
def absentMask (regs : Vector Reg 16) : Nat :=
  (List.range 16).foldl (fun m i => if (vget Reg.reset regs i).cond = .absent then m + 2 ^ i else m) 0

/-- CSTAT (R126). -/
def Ctx.cstat (c : Ctx) : Word :=
  bit1 c.priv 0 ||| bit1 c.gateloss 1 ||| bit1 c.resumed 2 |||
    wordOf (c.retries.toNat * 8 + absentMask c.regs * 2 ^ 16)

/-- TCAUSE as the registers hold it is kept whole; TSTAT is made of its two fields (R212). -/
def TrapRegs.tstat (t : TrapRegs) : Word := bit1 t.intrap 0 ||| bit1 t.insys 1

/-- A loop-stack entry as its two words (R151). -/
def LoopEntry.words (e : LoopEntry) : Word × Word :=
  (keep e.body 0xFFFFFFFFFFFFFF, wordOf (e.rem % 2 ^ 32) ||| (wordOfInt e.ret <<< 32))

/-- The block at a return point that no kept entry names: found in memory, its pages being walked first; the block of the
body where there is none (log 77). -/
def State.loopEntryAt (s : State) (core : Nat) (sup : Bool) (body : Word) (rem : Nat) (ret : Int) : LoopEntry :=
  let at_ := body + wordOfInt ret
  let s := (s.translateNow core sup at_ .x).2
  let s := (s.translateNow core sup (at_ - 4096) .x).2
  match s.findBlock core sup at_ 514 1 with
  | some (a, h) => ⟨body, rem, ret, a, hdrLen h, hdrKind h⟩
  | none => ⟨body, rem, ret, body, 0, .loop⟩

/-- A loop-stack entry from its two words (R132, R151): an unedited one is as it was saved. -/
def State.loopEntryOf (s : State) (core : Nat) (sup : Bool) (was : List LoopEntry) (w0 w1 : Word) : LoopEntry :=
  match was.find? fun e => e.words == (w0, w1) with
  | some e => e
  | none => s.loopEntryAt core sup (keep w0 0xFFFFFFFFFFFFFF) (fld w1 0 32) (sextInt (fld w1 32 32) 32)

/-- The value of a register as a save writes it: bank 1 reads zero once it has been off (R122). -/
def Ctx.saved (c : Ctx) (i : Nat) : Word := if 8 ≤ i ∧ c.bankLost then 0 else (vget Reg.reset c.regs i).val

/-- Registers that a save writes: present ones, without bank 1 while GATE is off (R131). -/
def Ctx.writes (c : Ctx) (i : Nat) : Bool :=
  (vget Reg.reset c.regs i).cond == .present && !(decide (8 ≤ i) && c.gate == 2)

/-- The live mask of a save: every register that is not dead (R131). -/
def Ctx.liveMask (c : Ctx) : Nat :=
  (List.range 16).foldl (fun m i => if (vget Reg.reset c.regs i).cond = .dead then m else m + 2 ^ i) 0

/-- The words that a save of the first 0x1A0 bytes writes: offset and value (R131, R213). -/
def Ctx.frameWords (c : Ctx) (resume : Word) : List (Nat × Word) :=
  (((List.range 16).filter c.writes).map fun i => (8 * i, c.saved i)) ++
  ((c.trellis.take 16).zipIdx.map fun p => (0x80 + 8 * p.2, p.1.val)) ++
  [(0x100, resume), (0x108, wordOf (c.liveMask + c.trellis.length * 2 ^ 16))] ++
  (((c.loops.take 4).zipIdx.map fun p => [(0x110 + 16 * p.2, p.1.words.1), (0x118 + 16 * p.2, p.1.words.2)]).flatten) ++
  [(0x150, wordOf c.loops.length), (0x158, c.cstat), (0x160, c.fmt), (0x168, c.fps), (0x170, c.st),
   (0x178, wordOf c.ycnt), (0x180, c.gate.zeroExtend 64), (0x188, c.lsrc), (0x190, 0), (0x198, 0)]

/-- The words of a trap frame with the trap registers `t`, or of a checkpoint (R213, R222). -/
def Ctx.trapWords (c : Ctx) (t : TrapRegs) (resume : Word) : List (Nat × Word) :=
  c.frameWords resume ++
    [(0x1A0, t.tcause), (0x1A8, t.tpc), (0x1B0, t.taddr), (0x1B8, t.tinfo), (0x1C0, t.tdpc), (0x1C8, c.hdr)]

/-- Words read from a saved frame: the word at an offset, or none where it is poisoned or not readable. -/
abbrev FrameReader := Nat → Option Word

/-- The registers named by a live mask, present with the saved values; the others dead (R217). -/
def frameRegs (rd : FrameReader) (mask : Nat) (cond : Cond) : Vector Reg 16 :=
  Vector.ofFn fun i =>
    if mask / 2 ^ i.val % 2 = 1 then
      (match cond with
        | .absent => ⟨0, .absent, none⟩
        | c => ⟨(rd (8 * i.val)).getD 0, c, none⟩)
    else Reg.reset

/-- The trellis of a saved frame. -/
def frameTrellis (rd : FrameReader) (n : Nat) : List Slot :=
  (List.range (min n 16)).map fun i => ⟨(rd (0x80 + 8 * i)).getD 0, none⟩

/-- The loop stack of a saved frame. -/
def State.frameLoops (s : State) (core : Nat) (sup : Bool) (was : List LoopEntry) (rd : FrameReader) : List LoopEntry :=
  (List.range (min (fld ((rd 0x150).getD 0) 0 3) 4)).map fun i =>
    s.loopEntryOf core sup was ((rd (0x110 + 16 * i)).getD 0) ((rd (0x118 + 16 * i)).getD 0)

/-- Offsets of the words that a reload of a frame with a live mask, a trellis count and a loop depth reads. -/
def frameReads (rd : FrameReader) : List Nat :=
  let m := (rd 0x108).getD 0
  ((List.range 16).filter fun i => fld m i 1 = 1).map (8 * ·) ++
  (List.range (min (fld m 16 5) 16)).map (fun i => 0x80 + 8 * i) ++
  (List.range (2 * min (fld ((rd 0x150).getD 0) 0 3) 4)).map (fun i => 0x110 + 8 * i) ++
  [0x100, 0x108, 0x150, 0x158, 0x160, 0x168, 0x170, 0x180, 0x188, 0x1C8]

/-- The canonical address of the word at an offset of a frame or save area at a scratchpad address: where the skewed view
of a private scratchpad puts it, if the frame is named through that view (R24, R213). -/
def frameWord (f o : Nat) : Nat :=
  let off := (f + o) % 2 ^ 21
  if off < 0x100000 then f + o else f + o - off + unskew 16 (off - 0x100000)

/-- Reads words of a frame or save area in scratchpad; poisoned words are none. -/
def State.frameAt (s : State) (f : Nat) : FrameReader := fun o =>
  if s.tagAt (frameWord f o) = tagPoison then none else some (s.word (frameWord f o))

/-- Writes words of a frame with plain 64-bit stores: tag 01 (R213). -/
def State.writeFrame (s : State) (f : Nat) (ws : List (Nat × Word)) : State :=
  ws.foldl (fun (s : State) p => (s.putWord (frameWord f p.1) p.2).changed (frameWord f p.1)) s

/-- A store to the frame would fail: its word has tag 10 (R178). -/
def State.frameBlocked (s : State) (f : Nat) (ws : List (Nat × Word)) : Bool :=
  ws.any fun p => s.tagAt (frameWord f p.1) == tagArrival

/-- What the core keeps beside the words of a frame that it writes. -/
def Ctx.keeps (c : Ctx) : Kept := ⟨c.loops, c.bankLost⟩

/-- GATE from a saved word (R126): the reserved value 11 is not written, and leaves what there is (log 77). -/
def gateFrom (old : BitVec 2) (w : Word) : BitVec 2 := if w.truncate 2 = 3#2 then old else w.truncate 2

end Sys2Proof.Machine
end

