-- ==== Sys2Proof/Machine/Order.lean ====
section
/-! DEFINITION. Homes and the order of a core's accesses to them (spec/02_addresses.md R32, R37, R38). -/

namespace Sys2Proof.Machine

/-- The home of a place: a scratchpad bank, an HBM line; elsewhere a word. A word of the shadow store is taken to lie in
one of 16 banks, as in a private scratchpad (DESIGN CHOICE, log 68: R24 gives banks for private and shared scratchpads
alone). -/
def homeKey : Place → Nat
  | .spad k =>
    let w := k % 2 ^ 21 / 8
    k / 2 ^ 21 * 64 + (if unitOf k = 16 then w % 64 else w % 16)
  | .hbm k => 2 ^ 60 + k / 64
  | .ctl pa => 2 ^ 61 + pa / 8
  | .ext pa => 2 ^ 62 + pa / 8
  | .away pa _ => 2 ^ 62 + pa / 8
  | .nowhere => 0

/-- An access that stands for a request of the core's copy channel. -/
def Access.isChan (a : Access) : Bool :=
  match a.op with
  | .chan _ _ => true
  | _ => false

/-- The part of an access at its own address. -/
def Access.first (a : Access) : PartAt := ⟨a.pa, a.strong, a.migrating⟩

/-- The first part, at a distance. -/
def Access.firstPlus (a : Access) (n : Nat) : PartAt := { a.first with pa := a.pa + n }

/-- The parts of an access that are still to be performed, in their order. -/
def Access.parts (a : Access) : List PartAt :=
  match a.state with
  | .performed _ _ => []
  | .failed _ _ _ => []
  | st =>
    match a.op, st with
    | .atomicTo _ _ _ _ rd _ arr, .issued => [a.first, rd, arr]
    | .atomicTo _ _ _ _ rd _ arr, .half _ => [rd, arr]
    | .atomicTo _ _ _ _ _ _ arr, _ => [arr]
    | .pay _ (some _) arr _, .issued => [a.first, a.firstPlus 8, arr]
    | .pay _ (some _) arr _, .half _ => [a.firstPlus 8, arr]
    | .pay _ _ arr _, .issued => [a.first, arr]
    | .pay _ _ arr _, _ => [arr]
    | .release desc, .issued => [a.first, desc]
    | .release desc, _ => [desc]
    | .taskRelease _, .issued => [a.firstPlus 56, a.firstPlus 8]
    | .taskRelease _, _ => [a.firstPlus 8]
    | .chan _ _, _ => []
    | _, _ => [a.first]

/-- The part that is performed next. -/
def Access.nextPart (a : Access) : PartAt := a.parts.headD a.first

/-- Access b, earlier in program order, goes before a part of a later one (R32, R38, R186, R192, R195). -/
def State.goesBefore (s : State) (core : Nat) (p : PartAt) (b : Access) : Bool :=
  let die := dieOf core
  let home := homeKey (s.place die p.pa)
  !b.parts.isEmpty && (b.acqOk || b.acqFail ||
    b.parts.any fun q => (q.strong && p.strong) || homeKey (s.place die q.pa) == home)

/-- An access to `pa` that is about to be made waits for earlier ones (R38). -/
def State.mustWait (s : State) (strong : Bool) (pa : Nat) : Bool :=
  s.me.flight.any fun b => s.goesBefore s.cur ⟨pa, strong, false⟩ b

/-- Earlier accesses of a core's list, before the one of a number. -/
def earlier (id : Nat) : List Access → List Access
  | [] => []
  | a :: as => if a.id = id then [] else a :: earlier id as

/-- Accesses of the core to its frame's banks are performed before the frame is written or read (R38, R214, R217). -/
def State.frameBusy (s : State) (f : Nat) : Bool := (List.range 64).any fun i => s.mustWait false (f + 8 * i)

end Sys2Proof.Machine
end

