-- ==== Sys2Proof/Machine/Ops.lean ====
section
/-! DEFINITION. How an instruction runs (spec/03_encoding.md R43, R52, R64–R65; spec/06_core_state.md R121–R122, R130;
spec/10_core_traps.md R214–R220): causes, waits, block entry, taking a trap and returning from one, and retirement.
An instruction that raises a cause is undone: the cause is taken in the state in which it began (R65). -/

namespace Sys2Proof.Machine

/-! ## Running -/

/-- What a cause consumes or leaves when it is raised: nothing, a failed access (R184), an engine's held cause (R216), what
a failed read leaves at its home (R389, R391). -/
inductive Drop where
  | nothing
  | read (pl : Place) (bytes : Nat)
  | access (id : Nat)
  | engine (i : Nat)
  deriving DecidableEq, Repr

/-- How an instruction stops short of its end. -/
inductive Stop where
  /-- it raises a cause -/
  | trap (c : CauseRec) (d : Drop)
  /-- it has come to a state of its own: it waits, or its activation has ended -/
  | leave (s : State)
  /-- a walk is needed for an address: the instruction runs again from its beginning -/
  | walk (va : Word)
  deriving DecidableEq, Repr

/-- An instruction's effect: it changes the state, or stops. -/
abbrev CM (α : Type) : Type := StateT State (Except Stop) α

/-- A precise cause. -/
def causeOf (c : Cause) (addr info : Word) : CauseRec := ⟨c, addr, info, 0, false, false, none⟩

/-- Raises a precise cause with TADDR and TINFO. -/
def raise {α : Type} (c : Cause) (addr info : Word) : CM α := fun _ => .error (.trap (causeOf c addr info) .nothing)

/-- Raises a cause that needs no address and no information. -/
def fail {α : Type} (c : Cause) : CM α := raise c 0 0

/-- Raises a precise cause unless a test holds. -/
def require (ok : Bool) (c : Cause) (addr info : Word) : CM Unit := if ok then pure () else raise c addr info

/-- Ends the step in a given state. -/
def leaveWith {α : Type} (s : State) : CM α := fun _ => .error (.leave s)

/-- Ends the step in the state reached. -/
def leave {α : Type} : CM α := fun s => .error (.leave s)

/-- The context of the running code. -/
def ctx : CM Ctx := fun s => .ok (s.ctx, s)

/-- Changes the context of the running code. -/
def modCtx (f : Ctx → Ctx) : CM Unit := fun s => .ok ((), s.updCtx f)

/-- Changes the core. -/
def modMe (f : Core → Core) : CM Unit := fun s => .ok ((), s.updMe f)

/-- A wait of the running instruction that has no bound. -/
def plainWait (w : WaitFor) : Wait := ⟨w, false, 0, 0, .no, false, 0, .none, []⟩

/-- The running instruction waits: it stays latched and runs again from its beginning. A wait already begun is kept. -/
def pause {α : Type} (w : Wait) : CM α := fun s =>
  .error (.leave (s.updMe fun k => match k.wait with
    | some w' => if w'.what = w.what then k else { k with wait := some w }
    | none => { k with wait := some w }))

/-- The running instruction stalls; a wait of a kind in which it already stands is kept. -/
def stall {α : Type} (w : WaitFor) : CM α := fun s =>
  match s.me.wait with
  | some x => if x.what = w then .error (.leave s) else pause (plainWait .drain) s
  | none => pause (plainWait .drain) s

/-- The wait in which the running instruction stands, if it is of a kind. -/
def waitOf (w : WaitFor) : CM (Option Wait) := fun s =>
  .ok (match s.me.wait with
    | some x => if x.what = w then some x else none
    | none => none, s)

/-! ## Accesses of the activation -/

/-- Has its home performed an access? (R37) -/
def AccState.performed? : AccState → Bool
  | .performed _ _ => true
  | _ => false

/-- The outstanding accesses of the running activation. -/
def Core.mine (k : Core) : List Access := k.flight.filter fun a => a.live

def Access.failed? (a : Access) : Bool :=
  match a.state with
  | .failed _ _ _ => true
  | _ => false

/-- Outstanding loads and stores (R183): an access whose cause is deferred is outstanding no longer. -/
def Core.loadsOut (k : Core) : Nat := (k.mine.filter fun a => a.isLoad && !a.failed?).length
def Core.storesOut (k : Core) : Nat := (k.mine.filter fun a => a.isStore && !a.failed?).length

/-- The deferred cause of a failed access (R184, R215). -/
def Access.deferred (a : Access) : CauseRec :=
  match a.state with
  | .failed c addr info => ⟨c, addr, info, a.pc, true, false, none⟩
  | _ => causeOf .memPoison 0 0

/-- Raises the oldest deferred cause of the accesses that a test selects (R184, R215). -/
def raiseDeferred (p : Access → Bool) : CM Unit := fun s =>
  match s.me.mine.find? fun a => a.failed? && p a with
  | some a => .error (.trap a.deferred (.access a.id))
  | none => .ok ((), s)

/-- The engine cause issued first among those that a test selects, with its position (R216). -/
def oldestEngine (p : EngineCause → Bool) (es : List EngineCause) : Option (Nat × EngineCause) :=
  (es.zipIdx).foldl (fun best x =>
    if p x.1 then match best with
      | some b => if x.1.after < b.2.after then some (x.2, x.1) else best
      | none => some (x.2, x.1)
    else best) none

/-- Raises the oldest deferred cause that the tests select, of an access or of an engine's command (R184, R215, R216). -/
def raiseOldest (p : Access → Bool) (q : EngineCause → Bool) : CM Unit := fun s =>
  let a := s.me.mine.find? fun a => a.failed? && p a
  let e := oldestEngine q s.me.causes
  match a, e with
  | some a, some (i, x) =>
    if a.id < x.after then .error (.trap a.deferred (.access a.id)) else .error (.trap x.what (.engine i))
  | some a, none => .error (.trap a.deferred (.access a.id))
  | none, some (i, x) => .error (.trap x.what (.engine i))
  | none, none => .ok ((), s)

/-- Raises the oldest engine cause that a test selects (R216). -/
def raiseEngine (p : EngineCause → Bool) : CM Unit := fun s =>
  match oldestEngine p s.me.causes with
  | some (i, e) => .error (.trap e.what (.engine i))
  | none => .ok ((), s)

/-- A pending destination of a failed access becomes a present zero (R215). -/
def Ctx.zeroPending (c : Ctx) (id : Nat) : Ctx :=
  { c with
    regs := c.regs.map fun r => if r.pend = some id then ⟨0, .present, none⟩ else r
    trellis := c.trellis.map fun t => if t.pend = some id then ⟨0, none⟩ else t }

/-- Consumes what a raised cause consumes, and leaves what it leaves. -/
def State.drop (s : State) (d : Drop) : State :=
  match d with
  | .nothing => s
  | .read pl n => s.afterRead pl n
  | .access id => s.updMe fun k =>
      { k with flight := k.flight.filter fun a => a.id != id, ctx := k.ctx.zeroPending id }
  | .engine i => s.updMe fun k => { k with causes := dropNth k.causes i }

/-! ## Bank 1 and fills (R121, R122) -/

/-- Bank 1 is set to on (R122): woken from off, its present registers hold zero and GATELOSS is set. -/
def Ctx.wake (c : Ctx) : Ctx :=
  if c.gate = 0 then c
  else if c.bankLost ∨ c.gate = 2 then
    { c with
      gate := 0, bankLost := false, gateloss := true
      regs := c.regs.mapFinIdx fun i r _ => if 8 ≤ i ∧ r.cond = .present then { r with val := 0, pend := none } else r }
  else { c with gate := 0 }

/-- Where a fill reads a register: the core's save area; zero for bank 1 saved while it was off (R122, R131). -/
def State.savedReg (s : State) (core i : Nat) : Option Word :=
  let a := saveArea core
  if s.tagAt (a + 8 * i) = tagPoison then none
  else if 8 ≤ i ∧ fld (s.word (a + 0x180)) 0 2 = 2 then some 0
  else some (s.word (a + 8 * i))

/-- Fills the absent registers among a list (R121); the first that is poisoned raises RESTORE_POISON. -/
def fillRegs : List Nat → CM Unit
  | [] => pure ()
  | i :: is => do
    let c ← ctx
    if (vget Reg.reset c.regs i).cond = .absent then
      let s ← get
      match s.savedReg s.cur i with
      | some v => modCtx fun c => { c with regs := vset c.regs i ⟨v, .present, none⟩ }
      | none => raise .restorePoison 0 (wordOf i)
    fillRegs is

/-! ## Taking a trap (R214, R215) -/

/-- TCAUSE of a cause (R212). -/
def CauseRec.tcause (c : CauseRec) : Word :=
  c.cause.code.zeroExtend 64 ||| bit1 c.deferred 8 ||| bit1 c.engine 9

/-- The context after an entry of R214: trellis and loops empty, enables cleared, h0–h3 set, h4–h15 dead. -/
def Ctx.trapEntered (c : Ctx) (t : TrapRegs) : Ctx :=
  { c with
    trellis := [], loops := [], gate := 0, bankLost := false, fps := keep c.fps 0x1F, trap := t, latch := none
    frameKept := c.keeps
    regs := startRegs [t.tcause, t.tpc, t.taddr, t.tinfo] }

/-- The frame of the running core: the address of 512 bytes of its own private scratchpad, in the view that TFRAME names
(R24, R213). -/
def State.frameKey (s : State) : Option Nat :=
  match (s.translateNow s.cur s.ctx.priv (keep s.ctx.trap.tframe 0xFFFFFFFFFFFE00) .w).1 with
  | .ok x => match x.place with
    | .spad k => if spadCluster k = clusterOf s.cur ∧ unitOf k = s.cur % 16 ∧ x.pa % 512 = 0 then some x.pa else none
    | _ => none
  | _ => none

/-- A destination of the running activation still awaits its value (R214). A failed access's destination is a present
zero. -/
def Ctx.pendings (c : Ctx) : List Nat :=
  c.regs.toList.filterMap (fun r => if r.cond = .present then r.pend else none) ++ c.trellis.filterMap fun t => t.pend

/-- Registers that await a value and have not failed. -/
def State.awaits (s : State) : Bool :=
  s.ctx.pendings.any fun id => s.me.flight.any fun a => a.id == id && !a.failed?

/-- Destinations of failed accesses become present zeros; the causes stay pending (R214). -/
def State.zeroFailed (s : State) : State :=
  (s.me.flight.filter Access.failed?).foldl (fun s a => s.updCtx fun c => c.zeroPending a.id) s

/-- A wait or a parked access of the running code ends. -/
def State.endWait (s : State) : State := (s.withdraw s.cur).updMe fun k => { k with wait := none }

/-- Results of the running core's walks are used up. -/
def State.clearMisses (s : State) : State :=
  let cl := clusterOf s.cur
  if (s.cluster cl).misses.isEmpty then s
  else s.updCluster cl fun k =>
    { k with
      misses := k.misses.filterMap fun m =>
        if m.waits then some m
        else
          let cs := m.cores.filter fun c => c != s.cur
          if cs.isEmpty then none else some { m with cores := cs } }

/-- The entry of R214 waits: for pending values, and for earlier accesses to the frame's banks (R38). -/
def State.entryWaits (s : State) : Bool :=
  s.awaits || (match s.frameKey with
    | some f => s.frameBusy f
    | none => false)

/-- A cause contained with its own TADDR as the first fault's (R220). -/
def State.containCause (s : State) (c : CauseRec) : State × Bool := s.contain s.cur c (c.cause, c.addr)

/-- Containment of an unusable frame or handler (R214): TINFO is the original code, and the original cause is the first
fault. -/
def State.containFrame (s : State) (orig : CauseRec) : State :=
  (s.contain s.cur (causeOf .trapFrame 0 (orig.cause.code.zeroExtend 64)) (orig.cause, orig.addr)).1

/-- A block entry whose checks have passed, with its header's copies in the buffer. -/
def State.entered (s : State) (a h : Word) : State := s.updCtx fun c => c.entered a h

/-- The entry of R214 once every pending destination holds its value: the frame, the registers, the handler. `sys` uses
it with its own registers, resume address, level and target (R218). -/
def State.trapEnter (s : State) (orig : CauseRec) (t : TrapRegs) (resume : Word) (sup : Bool) (target : Word) : State :=
  match s.frameKey with
  | none => s.containFrame orig
  | some f =>
    match fillRegs (List.range 16) s with
    | .error (.trap c _) => (s.containCause c).1
    | .error _ => s
    | .ok (_, s) =>
      let s := s.zeroFailed
      let ws := s.ctx.trapWords t resume
      if s.frameBlocked f ws then s.containFrame orig
      else
        let s := s.writeFrame f ws
        let s := s.updCtx fun c => { c.trapEntered t with priv := sup }
        let s := (s.translateNow s.cur sup target .x).2
        let s := (s.translateNow s.cur sup (target + 8) .x).2
        match s.checkHeader s.cur sup target .start with
        | .ok h => s.entered target h
        | _ => s.containFrame orig

/-- The trap registers as a cause sets them (R214); TPC holds bits [55:0] (R212). -/
def TrapRegs.taken (t : TrapRegs) (c : CauseRec) (pc : Word) : TrapRegs :=
  { t with tcause := c.tcause, tpc := keep pc 0xFFFFFFFFFFFFFF, taddr := c.addr, tinfo := c.info, tdpc := c.dpc, intrap := true }

/-- HDR × 8 of TBASE, SYSVEC or CLSH: the header address (R212, R286). -/
def hdrField (w : Word) : Word := keep w 0xFFFFFFFFFFFFF8

/-- The event TRAP_ENTRY (R214): a cause that waits for pending loads, or for earlier stores to the frame, is entered once
they are done. -/
def State.trapEntry (s : State) : State :=
  match s.me.trapping with
  | none => s
  | some c =>
    if s.entryWaits then s
    else
      let s := s.updMe fun k => { k with trapping := none }
      let x := s.ctx
      s.trapEnter c (x.trap.taken c (c.atPc.getD x.pc)) x.pc x.priv (hdrField x.trap.tbase)

/-- Inline code has ended: its message leaves the inbox, and the code it interrupts goes on (R293). -/
def Core.endInline (k : Core) (i : Inline) : Core :=
  { k with
    ctx := i.outer, wait := i.outerWait, inl := none, inlHold := true
    disp := { k.disp with inbox := match findIdx (fun m => m == i.msg) k.disp.inbox 0 with
      | some (n, _) => dropNth k.disp.inbox n
      | none => k.disp.inbox }
    flight := k.flight.map fun a => if a.inl then { a with live := false } else a }

/-- A cause in inline code (R294): the message leaves the inbox, DROPS rises, the kiosk is told. -/
def State.inlineStops (s : State) (i : Inline) (c : Cause) (addr info : Word) : State :=
  let s := s.updMe fun k => { k.endInline i with drops := sat 255 (k.drops + 1) }
  s.toKiosk s.cur c addr info

/-- Takes a cause in the state in which its instruction began (R214). Answers whether the cause was ignored (R220). -/
def State.take (s : State) (c : CauseRec) : State × Bool :=
  match s.me.inl with
  | some i =>
    if c.cause = .inlineIllegal then (s.inlineStops i .inlineIllegal c.addr c.info, false)
    else (s.inlineStops i .inlineFault c.addr (c.cause.code.zeroExtend 64), false)
  | none =>
    let s := (s.endWait).clearMisses
    let t := s.ctx.trap
    if c.cause.direct ∨ t.intrap ∨ !bit t.tbase 0 then
      s.containCause c
    else if s.frameKey.isNone then (s.containFrame c, false)
    else ((s.updMe fun k => { k with trapping := some c, ctx := { k.ctx with latch := none } }).trapEntry, false)

/-! ## Retirement -/

/-- The instruction retires without advancing the program counter (R130): YCNT counts it, unless it is inline. -/
def retireWith (ycnt : Nat → Nat) : CM Unit := do
  let s ← get
  let c := s.ctx
  if s.me.inl.isNone then
    if c.ycnt = 0 then raise .yieldOverrun 0 0
    modMe fun k =>
      { k with retired := k.retired + 1, wait := none, inlHold := false, ctx := { k.ctx with ycnt := ycnt c.ycnt, latch := none } }
  else
    modMe fun k => { k with retired := k.retired + 1, wait := none, ctx := { k.ctx with latch := none } }
  modify State.clearMisses

/-- An instruction that is about to wait with an effect of its own would have to retire: YIELD_OVERRUN comes first
(R130). -/
def needBudget : CM Unit := do
  let s ← get
  if s.me.inl.isNone ∧ s.ctx.ycnt = 0 then raise .yieldOverrun 0 0

/-- The next instruction word, or the next slot of inline code. -/
def advance : CM Unit := modMe fun k =>
  match k.inl with
  | some i => { k with inl := some { i with slot := i.slot + 1 } }
  | none => { k with ctx := { k.ctx with pc := k.ctx.pc + 4 } }

/-- An instruction that continues with the next word retires. -/
def retire : CM Unit := do
  retireWith fun n => n - 1
  advance

/-- The first-run of a body with its retirement: the next state, or the cause raised in the state given. -/
def attempt (body : CM Unit) (s : State) : Except (CauseRec × State) State :=
  match body s with
  | .ok ((), s') => .ok s'
  | .error (.leave s') => .ok s'
  | .error (.walk va) => .ok (s.queueMiss s.cur s.ctx.priv va)
  | .error (.trap c d) => .error (c, s.drop d)

/-- The trap enables of FPS set aside, and restored (R220). -/
def withoutEnables (body : CM Unit) : CM Unit := do
  let c ← ctx
  modCtx fun c => { c with fps := keep c.fps 0x1F }
  body
  modCtx fun c' => { c' with fps := c'.fps ||| (c.fps &&& 0x3E0#64) }

/-- A present register that holds zero, and a trellis entry that does. -/
def zeroReg : Reg := ⟨0, .present, none⟩
def zeroSlot : Slot := ⟨0, none⟩

/-- Sends words to the FIFO a port faces, if it has room for them. -/
def State.sendIfRoom (s : State) (p : Port) (ws : List Word) : State :=
  match s.portPeer s.cur p with
  | some c => s.updCore c fun q =>
      if (q.fifo (oppositePort p)).length + ws.length ≤ 8 then q.setFifo (oppositePort p) (q.fifo (oppositePort p) ++ ws) else q
  | none => s

/-- Every destination that the instruction names receives zero (R220). -/
def zeroDest (s : State) : DestSpec → State
  | .none => s
  | .one (.h n) => s.updCtx fun c => { c with regs := vset c.regs n.val zeroReg }
  | .one .push => s.updCtx fun c => { c with trellis := (zeroSlot :: c.trellis).take 16 }
  | .one (.port p) => s.sendIfRoom p [0]
  | .one (.bad _) => s
  | .pair (.h n) => s.updCtx fun c => { c with regs := vset (vset c.regs n.val zeroReg) (n.val + 1) zeroReg }
  | .pair .push => s.updCtx fun c => { c with trellis := (zeroSlot :: zeroSlot :: c.trellis).take 16 }
  | .pair (.port p) => s.sendIfRoom p [0, 0]
  | .pair (.bad _) => s
  | .run (.h n) j => s.updCtx fun c =>
      { c with regs := (List.range j).foldl (fun r i => vset r (n.val + i) zeroReg) c.regs }
  | .run .push j => s.updCtx fun c => { c with trellis := (List.replicate j zeroSlot ++ c.trellis).take 16 }
  | .run _ _ => s

/-- What containment policy ignore makes of an instruction (R220): an FP trap completes it with its enable clear, a
deferred cause lets it proceed, any other cause retires it with zero destinations. -/
def State.ignored (s : State) (c : CauseRec) (d : DestSpec) (body : CM Unit) : State :=
  if c.deferred then s
  else
    let again := if c.cause.isFp then withoutEnables body else do
      modify fun s => zeroDest s d
      retire
    match attempt again s with
    | .ok s' => s'
    | .error (c', s') => (s'.take c').1

/-- Runs an instruction's body, retirement included: a cause is taken in the state in which the instruction began. An
instruction that would retire while YCNT is 0 leaves that to the step YIELD_OVERRUN (R130). -/
def runBody (d : DestSpec) (body : CM Unit) (s : State) : State :=
  match attempt body s with
  | .ok s' => s'
  | .error (c, s') =>
    if c.cause = .yieldOverrun then s'.updCtx fun x => { x with spent := true } else
    match s'.take c with
    | (s'', true) => s''.ignored c d body
    | (s'', false) => s''

/-- An instruction that continues with the next word. -/
def run (d : DestSpec) (body : CM Unit) (s : State) : Out := .next (runBody d (do body; retire) s)

/-- An instruction whose body sets the program counter and retires itself. -/
def runSelf (d : DestSpec) (body : CM Unit) (s : State) : Out := .next (runBody d body s)

/-! ## Entering a block (R43, R45, R149) -/

/-- A walk is needed for an address. -/
def awaitWalk {α : Type} (va : Word) : CM α := fun _ => .error (.walk va)

/-- Enters the block at `a` (R43). The buffer keeps copies of the header's halves. -/
def enter (a : Word) (how : How) : CM Unit := do
  let s ← get
  match s.checkHeader s.cur s.ctx.priv a how with
  | .ok h => set (((s.entered a h).keepCopy s.cur s.ctx.priv a (h.truncate 32)).keepCopy s.cur s.ctx.priv (a + 4) (h.extractLsb' 32 32))
  | .atSource c => raise c 0 0
  | .atHeader c info => fun _ => .error (.trap ⟨c, 0, info, 0, false, false, some a⟩ .nothing)
  | .miss => awaitWalk (if s.fetchKey s.cur s.ctx.priv a = .miss then a else a + 8)

/-- The innermost loop is left when the block being left is its body (R147, R150). -/
def leaveBody (cur : Word) : CM Unit := modCtx fun c =>
  match c.loops with
  | e :: es => if e.body = cur then { c with loops := es } else c
  | [] => c

/-- transfer(t) of R145's section: enters a header and leaves the innermost body. -/
def transfer (t : Word) : CM Unit := do
  let c ← ctx
  enter t .transfer
  leaveBody c.hdr

end Sys2Proof.Machine
end

