-- ==== Sys2Proof/Machine/Operands.lean ====
section
/-! DEFINITION. Operands and destinations (spec/03_encoding.md R50–R53, R63–R64; spec/06_core_state.md R120–R124): the
checks before an instruction has an effect, the waits for pending values and ports, and the reading and writing of every
operand form. -/

namespace Sys2Proof.Machine

/-- A use of a source operand: one word, or a pair (R53). -/
inductive Use where
  | one (a : Src)
  | pair (a : Src)
  deriving DecidableEq, Repr

def Use.src : Use → Src
  | .one a => a
  | .pair a => a

def Use.isPair : Use → Bool
  | .one _ => false
  | .pair _ => true

/-- Words that a use takes. -/
def Use.width : Use → Nat
  | .one _ => 1
  | .pair _ => 2

/-- The destination whose old value an instruction also reads: hD, or q0 when D is 16; a port is refused (R141). -/
def baseOf : Dst → Src
  | .h n => .h n
  | .push => .q 0
  | .port _ => .bad 0
  | .bad _ => .bad 0

/-! ## The checks of R64 -/

/-- BAD_OPERAND of a source: a reserved value, or q15 as a pair (R50, R53). -/
def Use.bad : Use → Bool
  | .one (.bad _) => true
  | .pair (.bad _) => true
  | .pair (.q n) => n.val == 15
  | _ => false

/-- PAIR_ALIGN of a source: an odd register named as a pair (R53). -/
def Use.odd : Use → Option Nat
  | .pair (.h n) => if n.val % 2 = 1 then some n.val else none
  | _ => none

/-- BAD_OPERAND of a destination: a reserved value; a run past h15 or to a port (R51, R188). -/
def DestSpec.bad : DestSpec → Bool
  | .one (.bad _) => true
  | .pair (.bad _) => true
  | .run (.bad _) _ => true
  | .run (.port _) _ => true
  | .run (.h n) k => decide (16 < n.val + k)
  | _ => false

def DestSpec.odd : DestSpec → Option Nat
  | .pair (.h n) => if n.val % 2 = 1 then Option.some n.val else Option.none
  | _ => Option.none

/-- TRELLIS_UNDERFLOW or DEAD_READ of a source, in the order read (R120, R121). -/
def Use.unread (c : Ctx) : Use → Option (Cause × Nat)
  | .one (.q n) => if c.trellis.length ≤ n.val then some (.trellisUnderflow, n.val) else none
  | .pair (.q n) =>
    if c.trellis.length ≤ n.val then some (.trellisUnderflow, n.val)
    else if c.trellis.length ≤ n.val + 1 then some (.trellisUnderflow, n.val + 1) else none
  | .one (.h n) => if (vget Reg.reset c.regs n.val).cond = .dead then some (.deadRead, n.val) else none
  | .pair (.h n) =>
    if (vget Reg.reset c.regs n.val).cond = .dead then some (.deadRead, n.val)
    else if (vget Reg.reset c.regs (n.val + 1)).cond = .dead then some (.deadRead, n.val + 1) else none
  | _ => none

/-- The first of a list of causes; none if there is none. -/
def firstCause : List (Option (Cause × Nat)) → CM Unit
  | [] => pure ()
  | some (c, n) :: _ => raise c 0 (wordOf n)
  | none :: cs => firstCause cs

/-- Steps 6–8 of R64. -/
def checks (us : List Use) (d : DestSpec) : CM Unit := do
  let c ← ctx
  require (!us.any Use.bad && !d.bad) .badOperand 0 0
  firstCause ((us.map Use.odd ++ [d.odd]).map fun o => o.map fun n => (Cause.pairAlign, n))
  firstCause (us.map (Use.unread c))

/-! ## Fills, wakes and waits -/

/-- Registers that a use reads. -/
def Use.regs : Use → List Nat
  | .one (.h n) => [n.val]
  | .pair (.h n) => [n.val, n.val + 1]
  | _ => []

/-- Registers that a destination writes. -/
def DestSpec.regs : DestSpec → List Nat
  | .one (.h n) => [n.val]
  | .pair (.h n) => [n.val, n.val + 1]
  | .run (.h n) k => (List.range k).map fun i => n.val + i
  | _ => []

/-- Bank 1 wakes if it is named (R122), and the absent members of every named pair are filled but those that are only
written (R121). -/
def prepare (us : List Use) (d : DestSpec) : CM Unit := do
  let srcs := (us.map Use.regs).flatten
  let named := srcs ++ d.regs
  if named.any fun n => decide (8 ≤ n) then modCtx Ctx.wake
  let pairs := (named.map fun n => [n / 2 * 2, n / 2 * 2 + 1]).flatten
  fillRegs (pairs.filter fun n => srcs.contains n || !d.regs.contains n)

/-- The accesses whose values a use awaits (R183). -/
def Use.pends (c : Ctx) : Use → List Nat
  | .one (.q n) => ((c.trellis[n.val]?).bind fun t => t.pend).toList
  | .pair (.q n) => ((c.trellis[n.val]?).bind fun t => t.pend).toList ++ ((c.trellis[n.val + 1]?).bind fun t => t.pend).toList
  | .one (.h n) => (vget Reg.reset c.regs n.val).pend.toList
  | .pair (.h n) => (vget Reg.reset c.regs n.val).pend.toList ++ (vget Reg.reset c.regs (n.val + 1)).pend.toList
  | _ => []

/-- Pending values are awaited; a failed access among them raises its cause, the oldest first (R183, R184). -/
def awaitValues (ids : List Nat) : CM Unit := do
  if ids.isEmpty then pure () else
    let s ← get
    if s.me.flight.any fun a => ids.contains a.id && !a.failed? then pause (plainWait .drain)
    raiseDeferred fun a => ids.contains a.id

/-- Ports that uses pop, one entry for each word (R52). -/
def portsOf (us : List Use) : List Port :=
  (us.map fun u => match u.src with
    | .port p => List.replicate u.width p
    | _ => []).flatten

def DestSpec.port? : DestSpec → Option (Port × Nat)
  | .one (.port p) => some (p, 1)
  | .pair (.port p) => some (p, 2)
  | _ => Option.none

/-- PORTTO sets a bound (R58, R182). -/
def Core.portBounded (k : Core) : Bool := k.portto != 0x7F

/-- The wait of a port (R123). -/
def portWait (k : Core) (p : Port) (write : Bool) (d : DestSpec) : Wait :=
  ⟨.port p write, k.portBounded, 0, wordOf (portIndex p), .no, false, 0, d, []⟩

/-- Sources on ports hold the words that are read, and a destination on a port has room (R123). A port without a
neighbour raises PORT_TIMEOUT at once. -/
def awaitPorts (us : List Use) (d : DestSpec) : CM Unit := do
  let s ← get
  let ps := portsOf us
  let out := d.port?.toList
  match (ps ++ out.map Prod.fst).find? fun p => (s.portPeer s.cur p).isNone with
  | some p => raise .portTimeout 0 (wordOf (portIndex p))
  | none =>
    match ps.find? fun p => decide ((s.me.fifo p).length < ps.count p) with
    | some p => pause (portWait s.me p false d)
    | none =>
      match out with
      | (p, n) :: _ =>
        match s.portPeer s.cur p with
        | some c =>
          if 8 < ((s.core c).fifo (oppositePort p)).length + n then pause (portWait s.me p true d)
        | none => pure ()
      | [] => pure ()

/-! ## Values -/

/-- The value of a source; `seen` counts the words already taken from each port. -/
def Core.val (k : Core) (seen : List Port) : Src → Word
  | .q n => ((k.ctx.trellis[n.val]?).map fun t => t.val).getD 0
  | .h n => (vget Reg.reset k.ctx.regs n.val).val
  | .z => 0
  | .port p => (k.fifo p).getD (seen.count p) 0
  | .bad _ => 0

/-- The two words of a pair, low word first (R53). -/
def Core.pairVal (k : Core) (seen : List Port) : Src → List Word
  | .q n => [((k.ctx.trellis[n.val + 1]?).map fun t => t.val).getD 0, ((k.ctx.trellis[n.val]?).map fun t => t.val).getD 0]
  | .h n => [(vget Reg.reset k.ctx.regs n.val).val, (vget Reg.reset k.ctx.regs (n.val + 1)).val]
  | .z => [0, 0]
  | .port p => [(k.fifo p).getD (seen.count p) 0, (k.fifo p).getD (seen.count p + 1) 0]
  | .bad _ => [0, 0]

/-- The words of a list of uses, in field order (R52). -/
def Core.vals (k : Core) : List Port → List Use → List Word
  | _, [] => []
  | seen, .one a :: us => k.val seen a :: k.vals (seen ++ portsOf [.one a]) us
  | seen, .pair a :: us => k.pairVal seen a ++ k.vals (seen ++ portsOf [.pair a]) us

/-- Deferred causes of accesses whose pending destinations the uses read (R184, R215): before the fills, whose poison is
a cause of the instruction's own. -/
def raisePending (us : List Use) : CM Unit := do
  let c ← ctx
  let ids := (us.map (Use.pends c)).flatten
  if ids.isEmpty then pure () else raiseDeferred fun a => ids.contains a.id

/-- Steps 6–9 of R64 with an instruction's format check, deferred causes, fills and waits; then the words of its sources.
Ports are not popped yet. -/
def peek (us : List Use) (d : DestSpec) (fmt : CM Unit) : CM (List Word) := do
  checks us d
  fmt
  raisePending us
  prepare us d
  let c ← ctx
  awaitValues ((us.map (Use.pends c)).flatten)
  awaitPorts us d
  let s ← get
  pure (s.me.vals [] us)

/-- Pops the words that uses have taken from ports (R123). -/
def popPorts (us : List Use) : CM Unit :=
  modMe fun k => (portsOf us).foldl (fun k p => k.setFifo p ((k.fifo p).drop 1)) k

/-- The words of an instruction's sources, taken. -/
def opsFmt (us : List Use) (d : DestSpec) (fmt : CM Unit) : CM (List Word) := do
  let vs ← peek us d fmt
  popPorts us
  pure vs

def ops (us : List Use) (d : DestSpec) : CM (List Word) := opsFmt us d (pure ())

/-! ## Results -/

/-- A result pushed onto the trellis (R52). -/
def Ctx.push (c : Ctx) (t : Slot) : Ctx := { c with trellis := (t :: c.trellis).take 16 }

/-- A register written: present (R121). -/
def Ctx.setReg (c : Ctx) (n : Nat) (r : Reg) : Ctx := { c with regs := vset c.regs n r }

/-- Sends a word to the neighbour that a port faces (R123). -/
def State.send (s : State) (p : Port) (v : Word) : State :=
  match s.portPeer s.cur p with
  | some c => s.updCore c fun q => q.setFifo (oppositePort p) (q.fifo (oppositePort p) ++ [v])
  | none => s

/-- Delivers a one-word result (R51, R52). -/
def State.deliver (s : State) (d : Dst) (v : Word) : State :=
  match d with
  | .h n => s.updCtx fun c => c.setReg n.val ⟨v, .present, none⟩
  | .push => s.updCtx fun c => c.push ⟨v, none⟩
  | .port p => s.send p v
  | .bad _ => s

/-- Delivers a pair, low word first (R53). -/
def State.deliverPair (s : State) (d : Dst) (lo hi : Word) : State :=
  match d with
  | .h n => s.updCtx fun c => (c.setReg n.val ⟨lo, .present, none⟩).setReg (n.val + 1) ⟨hi, .present, none⟩
  | .push => s.updCtx fun c => (c.push ⟨lo, none⟩).push ⟨hi, none⟩
  | .port p => (s.send p lo).send p hi
  | .bad _ => s

def wr (d : Dst) (v : Word) : CM Unit := modify fun s => s.deliver d v
def wrPair (d : Dst) (lo hi : Word) : CM Unit := modify fun s => s.deliverPair d lo hi

/-- A destination that awaits the value of an access (R183). A port receives the word when it returns. -/
def wrPending (d : Dst) (id : Nat) : CM Unit :=
  match d with
  | .h n => modCtx fun c => c.setReg n.val ⟨0, .present, some id⟩
  | .push => modCtx fun c => c.push ⟨0, some id⟩
  | _ => pure ()

/-! ## The usual shapes -/

/-- RESERVED_FIELD where a field holds a reserved value (R63), before every other check. -/
def reservedIf (b : Bool) : CM Unit := require (!b) .reservedField 0 0

/-- An instruction that computes one word from one source. -/
def unary (a : Src) (d : Dst) (f : Word → Word) (s : State) : Out :=
  run (.one d) (do
    let vs ← ops [.one a] (.one d)
    wr d (f (vs.getD 0 0))) s

/-- An instruction that computes one word from two sources. -/
def binary (a b : Src) (d : Dst) (f : Word → Word → Word) (s : State) : Out :=
  run (.one d) (do
    let vs ← ops [.one a, .one b] (.one d)
    wr d (f (vs.getD 0 0) (vs.getD 1 0))) s

/-- An instruction that computes one word from three sources. -/
def ternary (a b c : Src) (d : Dst) (f : Word → Word → Word → Word) (s : State) : Out :=
  run (.one d) (do
    let vs ← ops [.one a, .one b, .one c] (.one d)
    wr d (f (vs.getD 0 0) (vs.getD 1 0) (vs.getD 2 0))) s

end Sys2Proof.Machine
end

