-- ==== Sys2Proof/Machine/Access.lean ====
section
/-! DEFINITION. How a core's accesses are checked, issued, performed at their homes and completed (spec/02_addresses.md
R37–R38; spec/09_core_memory.md R177–R185, R192–R201; spec/14_cluster_engine.md R271–R273). -/

namespace Sys2Proof.Machine

/-! ## Checks before issue (R180, R185) -/

/-- Translates a data address for the running code. In inline code an address that is not a local alias is refused
(R292). -/
def xlate (va : Word) (right : Right) : CM Xlated := do
  let s ← get
  match s.me.inl with
  | some i => if !isAliasRegion va.toNat then raise .inlineIllegal va (wordOf i.slot)
  | none => pure ()
  match s.translate s.cur s.ctx.priv va right with
  | .ok x => pure x
  | .fault c info => raise c va info
  | .miss => awaitWalk va

/-- ALIGN, with TINFO the size in bytes (R180, R225). -/
def aligned (va : Word) (size : Nat) : CM Unit := require (decide (va.toNat % size = 0)) .align va (wordOf size)

/-- Tokens that a write of b bytes costs (R273). -/
def writeCost (b : Nat) : Nat := (b + 31) / 32 * 32

/-- Capacity of the bucket of a cluster (R273). -/
def Cluster.capacity (k : Cluster) : Nat := k.sbburst.toNat * 64

/-- The bucket passes a write (R273): one that costs more than its capacity, when it is full. -/
def Cluster.passes (k : Cluster) (cost : Nat) : Bool :=
  decide ((cost : Int) ≤ k.sblevel) || (decide (k.capacity < cost) && decide ((k.capacity : Int) ≤ k.sblevel))

/-- The place is behind the store-budget meter (R185, R273). -/
def metered : Place → Bool
  | .hbm _ => true
  | .ext _ => true
  | .away _ _ => true
  | _ => false

/-- The tokens of a write are taken from a cluster's bucket. -/
def State.spend (s : State) (cl : Nat) (pl : Place) (bytes : Nat) : State :=
  if metered pl then s.updCluster cl fun k => { k with sblevel := k.sblevel - (writeCost bytes : Int) } else s

/-- The tokens of writes taken one after another; the address of the first that finds too few (R185, R273). -/
def State.spendAll (s : State) (cl : Nat) : List (Word × Place × Nat) → Except Word State
  | [] => .ok s
  | (va, pl, n) :: ws =>
    if metered pl && !(s.cluster cl).passes (writeCost n) then .error va else (s.spend cl pl n).spendAll cl ws

/-- Writes over the budget stall; stores raise STORE_BUDGET instead under SBX (R185, R273). Nothing may wait after it. -/
def meter (stores : Bool) (ws : List (Word × Place × Nat)) : CM Unit := do
  let s ← get
  match s.spendAll (clusterOf s.cur) ws with
  | .ok s' => set s'
  | .error va => if stores && bit s.me.memctl 0 then raise .storeBudget va 0 else pause (plainWait .drain)

/-- The meter of a core's stores: `st`, `stp`, `stm` and `arm` (R185). -/
def budget (ws : List (Word × Place × Nat)) : CM Unit := meter true ws

/-- The meter of a core's other writes, which wait (R273; log 70). -/
def budgetWait (ws : List (Word × Place × Nat)) : CM Unit := meter false ws

/-! ## Issue (R183, R271) -/

/-- A request to these places bypasses the request ring (R271). -/
def bypasses (core : Nat) : Place → Bool
  | .spad k => spadCluster k == clusterOf core && (unitOf k == core % 16 || unitOf k == 16)
  | _ => false

/-- Requests in a core's request ring (R271). -/
def Core.ringCount (k : Core) : Nat := (k.flight.filter fun a => !a.injected).length

/-- A request ring of 32 entries without room for an instruction's requests stalls the core (R271). -/
def needRoom (pls : List Place) : CM Unit := do
  let s ← get
  let n := (pls.filter fun p => !bypasses s.cur p).length
  if 0 < n ∧ 32 < s.me.ringCount + n then pause (plainWait .drain)

/-- An access as it is issued. -/
def newAccess (s : State) (op : AccOp) (va : Word) (x : Xlated) (load store acqOk acqFail : Bool) : Access :=
  { id := s.me.nextId, op := op, va := va, pa := x.pa, pc := s.ctx.pc, isLoad := load, isStore := store, acqOk := acqOk,
    acqFail := acqFail, strong := x.strong, migrating := x.mig, injected := bypasses s.cur x.place, order := 0, live := true,
    gen := x.gen, stamp := s.ctx.st, inl := s.me.inl.isSome, state := .issued }

/-- Issues an access; the number by which its destinations await it. The ring has room for it. -/
def issue (op : AccOp) (va : Word) (x : Xlated) (load store acqOk acqFail : Bool) : CM Nat := do
  let s ← get
  let a := newAccess s op va x load store acqOk acqFail
  set (s.updMe fun k => { k with flight := k.flight ++ [a], nextId := k.nextId + 1 })
  pure a.id

/-- An injection is armed for the running activation's first load (R341). -/
def Core.armed (k : Core) : Bool :=
  k.inl.isNone && (match k.act with
    | some a => a.inject
    | none => false)

/-- An armed injection makes the activation's first load find poison (R341). -/
def Core.injected (k : Core) (id : Nat) (va : Word) : Core :=
  match k.act with
  | some a =>
    if a.inject && k.inl.isNone then
      { k with
        act := some { a with inject := false }
        flight := k.flight.map fun y => if y.id = id then { y with state := .failed .memPoison va 0 } else y }
    else k
  | none => k

/-- Issues an access whose value returns to the core (R183); a load is one of those that R341 lists. -/
def issueRead (op : AccOp) (va : Word) (x : Xlated) (acq : Bool) : CM Nat := do
  let id ← issue op va x true false acq acq
  match op with
  | .load _ => modMe fun k => k.injected id va
  | _ => pure ()
  pure id

/-- Issues reads in order. -/
def issueReads (acq : Bool) : List (AccOp × Word × Xlated) → CM (List Nat)
  | [] => pure []
  | (op, va, x) :: rest => do
    let id ← issueRead op va x acq
    let ids ← issueReads acq rest
    pure (id :: ids)

/-- Issues loads that no injection acts on, in order (R341). -/
def issuePlain : List (AccOp × Word × Xlated) → CM (List Nat)
  | [] => pure []
  | (op, va, x) :: rest => do
    let id ← issue op va x true false false false
    let ids ← issuePlain rest
    pure (id :: ids)

/-- Reads whose values the instruction itself uses: checked and issued once, then awaited; a failed one raises its cause
(R183, R184). -/
def awaitWith (go : List (AccOp × Word × Xlated) → CM (List Nat)) (mk : CM (List (AccOp × Word × Xlated))) :
    CM (List Word) := do
  match ← waitOf .loads with
  | some w =>
    let s ← get
    raiseDeferred fun a => w.vals.any fun p => p.1 == a.id
    if w.vals.all fun p => p.2.isSome then pure (w.vals.map fun p => p.2.getD 0)
    else leaveWith s
  | none =>
    let xs ← mk
    needBudget
    needRoom (xs.map fun x => x.2.2.place)
    let ids ← go xs
    pause { plainWait .loads with vals := ids.map fun i => (i, none) }

/-- Reads of a load instruction that the instruction itself uses. -/
def awaitReads (acq : Bool) (mk : CM (List (AccOp × Word × Xlated))) : CM (List Word) := awaitWith (issueReads acq) mk

/-- The words at checked addresses, as 64-bit loads. -/
def asLoads (mk : CM (List (Word × Xlated))) : CM (List (AccOp × Word × Xlated)) := do
  let xs ← mk
  pure (xs.map fun p => (.load 8, p.1, p.2))

/-- The words at checked addresses, loaded by the instruction itself: `tcmd`, `sendb` and `sendi` (R341). -/
def loadWords (mk : CM (List (Word × Xlated))) : CM (List Word) := awaitReads false (asLoads mk)

/-- The same for an instruction whose loads R341 does not list. -/
def plainWords (mk : CM (List (Word × Xlated))) : CM (List Word) := awaitWith issuePlain (asLoads mk)

/-! ## Performing (R37) -/

/-- The operation writes at its home. -/
def AccOp.writes : AccOp → Bool
  | .load _ => false
  | .tagRead => false
  | .touch => false
  | .chan _ _ => false
  | _ => true

/-- What one step of an access at its home gives: its new state, and the device's. -/
abbrev Performed := Except (HomeErr × Word) (AccState × State)

def liftHome {α : Type} (va : Word) : Except HomeErr α → Except (HomeErr × Word) α
  | .ok a => .ok a
  | .error e => .error (e, va)

/-- The places in the write lanes that a request is still bound for (R382). -/
def Access.lane (a : Access) : List PartAt :=
  match a.op with
  | .chan _ true => [a.first]
  | op => if op.writes then a.parts else []

/-- A request of a cluster that its engine injected before the one numbered `order`, or before now, is still to be
accepted by the stack of a place (R382). -/
def State.laneBusy (s : State) (cl : Nat) (order : Option Nat) (pl : Place) : Bool :=
  match pl with
  | .hbm k => s.cores.any fun kc =>
      clusterOf kc.1 == cl && kc.2.flight.any fun b =>
        b.injected && (match order with
          | some n => decide (b.order < n)
          | none => true) &&
        b.lane.any fun p => match s.place (dieOf kc.1) p.pa with
          | .hbm j => stackOf j == stackOf k
          | _ => false
  | _ => false

/-- The next part of an access performed at its home. `pl` is the place of that part. -/
def State.performPart (s : State) (core : Nat) (a : Access) (pl : Place) : Performed :=
  match a.op, a.state with
  | .load n, _ => do
    let (v, s) ← liftHome a.va (s.homeRead pl n)
    pure (.performed v 0, s)
  | .tagRead, _ => pure (.performed ((s.tagOf pl).zeroExtend 64) 0, s)
  | .touch, _ => pure (.performed 0 0, s)
  | .store n v untagged, _ => do
    let s ← liftHome a.va (s.homeStore core pl n v untagged)
    pure (.performed 0 0, s)
  | .tagWrite t, _ => do
    let s ← liftHome a.va (s.homeTag pl t)
    pure (.performed 0 0, s)
  | .atomic op n b sig ret, _ => do
    let (old, f, s) ← liftHome a.va (s.homeAtomic core pl op n b sig a.stamp)
    pure (.performed old (if ret then f else 0), if ret then s else s.homeFlags pl f)
  | .atomicTo op n b sig _ _ _, .issued => do
    let (old, f, s) ← liftHome a.va (s.homeAtomic core pl op n b sig a.stamp)
    pure (.half old, s.homeFlags pl f)
  | .atomicTo _ _ _ _ _ rdVa _, .half old => do
    let s ← liftHome rdVa (s.homeStore core pl 8 old false)
    pure (.stored, s)
  | .atomicTo _ _ _ _ _ rdVa _, _ => do
    let s ← liftHome (rdVa + 8) (s.arrive pl 1 1 a.stamp)
    pure (.performed 0 0, s)
  | .cas n cmp nv _, _ => do
    let (old, _, s) ← liftHome a.va (s.homeCas core pl n cmp nv)
    pure (.performed old 0, s)
  | .arrive b o, _ => do
    let s ← liftHome a.va (s.arrive pl b o a.stamp)
    pure (.performed 0 0, s)
  | .arm v, _ => do
    let s ← liftHome a.va (s.arm pl v)
    pure (.performed 0 0, s)
  | .pay w0 w1 _ _, .issued => do
    let s ← liftHome a.va (s.homeStore core pl 8 w0 false)
    pure (if w1.isSome then .half 0 else .stored, s)
  | .pay _ w1 _ _, .half _ => do
    let s ← liftHome (a.va + 8) (s.homeStore core pl 8 (w1.getD 0) false)
    pure (.stored, s)
  | .pay _ w1 _ arrVa, _ => do
    let s ← liftHome arrVa (s.arrive pl (if w1.isSome then 16 else 8) 1 a.stamp)
    pure (.performed 0 0, s)
  | .release _, .issued =>
    match pl with
    | .spad k =>
      if s.tagAt k = tagFull then pure (.stored, (s.setTag k tagEmpty).changed k)
      else .error ((.tagMismatch, tagInfo (s.tagAt k)), a.va)
    | _ => .error ((.tagMismatch, tagInfo (s.tagOf pl)), a.va)
  | .release _, _ =>
    match pl with
    | .spad k => pure (.performed 0 0, s.qSet k 2 (s.qWord k 2 + 1))
    | _ => .error ((.tagMismatch, tagInfo tagFull), a.va)
  | .chan _ _, _ => pure (.performed 0 0, s)
  | .taskRelease launch, .issued => do
    let tcb : Place := match pl with
      | .spad k => .spad (k - 56)
      | p => p
    let (c, s) ← liftHome (a.va + 56) (s.releaseTcb tcb launch)
    pure (.half c, s)
  | .taskRelease launch, st => do
    let s ← liftHome (a.va + 8) (s.arrive pl 1 1 a.stamp)
    let s := match launch with
      | some l => s.memberJoins l
      | none => s
    pure (.performed (match st with | .half c => c | _ => 0) 0, s)

/-- Sets an access's state in its core's list. -/
def State.setAccess (s : State) (core id : Nat) (st : AccState) : State :=
  s.updCore core fun k => { k with flight := k.flight.map fun a => if a.id = id then { a with state := st } else a }

/-- A step of an access at its home: the line of a migrating granule is made present, then the part is performed; a cause
found there is deferred (R184), and what a read left behind stays. -/
def State.performAccess (s : State) (core : Nat) (a : Access) : State :=
  let die := dieOf core
  let pl := s.place die a.nextPart.pa
  if a.op.writes && s.wqFull pl then s
  else
    match s.settleLine die a.nextPart.mig pl with
    | .error (c, info) => s.setAccess core a.id (.failed c a.va info)
    | .ok s =>
      match s.performPart core a pl with
      | .ok (st, s) => s.setAccess core a.id st
      | .error ((c, info), va) =>
        let s := match a.op, a.state with
          | .load n, _ => s.afterRead pl n
          | .atomic _ n _ _ _, _ => s.afterRead pl n
          | .atomicTo _ n _ _ _ _ _, .issued => s.afterRead pl n
          | .cas n _ _ _, _ => s.afterRead pl n
          | _, _ => s
        s.setAccess core a.id (.failed c va info)

/-- The access may be performed now: injected, unfinished, no earlier access goes before it (R38), and no write of its
cluster to the same stack was injected before its own (R382). -/
def State.mayPerform (s : State) (core : Nat) (a : Access) : Bool :=
  a.injected && !a.parts.isEmpty &&
    !((earlier a.id (s.core core).flight).any fun b => s.goesBefore core a.nextPart b) &&
    !(a.op.writes && s.laneBusy (clusterOf core) (some a.order) (s.place (dieOf core) a.nextPart.pa))

/-- HOME_ACCESS (R37): an access of the current core is performed at its home, in the order of R38. -/
def execHomeAccess (acc : Nat) (s : State) : Out :=
  match s.me.flight.find? fun a => a.id = acc with
  | some a => .next (if s.mayPerform s.cur a then s.performAccess s.cur a else s)
  | none => .next s

/-! ## Completion (R183, R193) -/

/-- A context changed: that of inline code, or that of the activation it interrupts. -/
def Core.updCtxOf (k : Core) (inl : Bool) (f : Ctx → Ctx) : Core :=
  match k.inl with
  | some i => if inl then { k with ctx := f k.ctx } else { k with inl := some { i with outer := f i.outer } }
  | none => if inl then k else { k with ctx := f k.ctx }

def Core.updWaitOf (k : Core) (inl : Bool) (f : Wait → Wait) : Core :=
  match k.inl with
  | some i => if inl then { k with wait := k.wait.map f } else { k with inl := some { i with outerWait := i.outerWait.map f } }
  | none => if inl then k else { k with wait := k.wait.map f }

/-- Pending destinations of an access receive its value (R183). -/
def Ctx.receive (c : Ctx) (id : Nat) (v : Word) (f : Flags) : Ctx :=
  { c with
    regs := c.regs.map fun r => if r.pend = some id then { r with val := v, pend := none } else r
    trellis := c.trellis.map fun t => if t.pend = some id then ⟨v, none⟩ else t
    fps := c.fps ||| f.zeroExtend 64 }

/-- Values that a waiting instruction awaits (R183). -/
def Wait.receive (w : Wait) (id : Nat) (v : Word) : Wait :=
  { w with vals := w.vals.map fun p => if p.1 = id then (p.1, some v) else p }

/-- ACCESS_COMPLETION (R183): a value or acknowledgement returns to the current core. -/
def execAccessCompletion (acc : Nat) (s : State) : Out :=
  match s.me.flight.find? fun a => a.id = acc with
  | none => .next s
  | some a =>
    match a.state with
    | .performed v f =>
      .next (s.updMe fun k =>
        let k := { k with flight := k.flight.filter fun b => b.id != acc }
        if a.live then (k.updCtxOf a.inl fun c => c.receive acc v f).updWaitOf a.inl fun w => w.receive acc v else k)
    | .failed _ _ _ =>
      .next (if a.live || a.isChan then s else s.updMe fun k => { k with flight := k.flight.filter fun b => b.id != acc })
    | _ => .next s

/-! ## Tagged and watching accesses (R178, R179) -/

/-- The place is in a core's own private scratchpad. -/
def ownPrivate (core : Nat) : Place → Bool
  | .spad k => spadCluster k == clusterOf core && unitOf k == core % 16
  | _ => false

/-- The defer queue of a bank is full: eight entries (R179). A core that waits on its own private scratchpad stalls, and
takes no entry; it too is served when the tag changes (log 71). -/
def State.bankFull (s : State) (pl : Place) : Bool :=
  decide (8 ≤ (s.parked.filter fun p =>
    homeKey (.spad p.pa) == homeKey pl && !ownPrivate p.core (.spad p.pa)).length)

/-- What a refused tagged access leaves at its home: a tagged load outside scratchpad has read its line (R391). -/
def ParkOp.leaves (op : ParkOp) (pl : Place) : Drop :=
  match op with
  | .wfull n => .read pl n
  | _ => .nothing

/-- A tagged access or a watch: tried at its home, parked there while it must wait, and answered when it is served. -/
def tagged (va : Word) (x : Xlated) (op : ParkOp) (w : Wait) : CM Word := do
  let s ← get
  match ← waitOf w.what with
  | some y =>
    match y.served with
    | .value v => pure v
    | .failed c info => raise c va info
    | .no => if y.begun then leaveWith s else attemptNow s
  | none => attemptNow s
where
  attemptNow (s : State) : CM Word := do
    if s.mustWait x.strong x.pa then stall w.what
    needBudget
    match s.tryParked x.place op with
    | .done v s' =>
      match x.place with
      | .spad k => set (s'.changed k)
      | _ => set s'
      pure v
    | .fail c info => fun _ => .error (.trap (causeOf c va info) (op.leaves x.place))
    | .wait =>
      match x.place with
      | .spad k =>
        if s.bankFull x.place && !ownPrivate s.cur x.place then
          leaveWith (s.updMe fun c => { c with wait := some w })
        else
          let p : Parked := ⟨s.cur, k, va, op, x.gen⟩
          leaveWith (State.updMe { s with parked := s.parked ++ [p] } fun c =>
            { c with wait := some { w with begun := true } })
      | _ => leaveWith s

/-- The bound of TAGTO (R182). -/
def Core.tagWait (k : Core) (what : WaitFor) (va : Word) (d : DestSpec) : Wait :=
  ⟨what, k.tagto != 0x7F, va, 0, .no, false, 0, d, []⟩

end Sys2Proof.Machine
end

