-- ==== Sys2Proof/Machine/MemInstr.lean ====
section
/-! DEFINITION. Loads, stores, tags and touches (spec/09_core_memory.md R177–R190). -/

namespace Sys2Proof.Machine

/-- Bytes of an access size SZ (R60). -/
def szBytes (z : BitVec 2) : Nat := 2 ^ z.toNat

/-- ea = src(A) + sext(OFF8, 8) × size (R186). -/
def effective (a : Word) (o : BitVec 8) (size : Nat) : Word := a + o.signExtend 64 * wordOf size

/-- An aligned address translated with a right (R180). -/
def checked (va : Word) (size : Nat) (right : Right) : CM Xlated := do
  aligned va size
  xlate va right

/-- Destinations that await accesses, in the order in which their words are written (R183, R187, R188). -/
def pendRun (d : Dst) : List Nat → CM Unit
  | [] => pure ()
  | id :: ids => do
    wrPending d id
    match d with
    | .h n => pendRun (.h (n + 1)) ids
    | _ => pendRun d ids

/-- Words sent to a port in order. -/
def sendRun (p : Port) : List Word → CM Unit
  | [] => pure ()
  | v :: vs => do
    modify fun s => s.send p v
    sendRun p vs

/-- Reads whose values go to a run of destinations: pending registers or trellis entries, or a port, which receives the
words when they have returned (R183). -/
def readTo (us : List Use) (d : Dst) (acq : Bool) (mk : CM (List (AccOp × Word × Xlated))) : CM Unit :=
  match d with
  | .port p => do
    let vs ← awaitReads acq mk
    popPorts us
    sendRun p vs
  | _ => do
    let xs ← mk
    needRoom (xs.map fun x => x.2.2.place)
    popPorts us
    let ids ← issueReads acq xs
    pendRun d ids

/-! ## ld and st (R186) -/

/-- A tagged load: wait-full or consume (R178). -/
def taggedLoad (a : Src) (d : Dst) (z : BitVec 2) (o : BitVec 8) (op : Nat → ParkOp) : CM Unit := do
  let vs ← peek [.one a] (.one d) (pure ())
  let va := effective (vs.getD 0 0) o (szBytes z)
  let x ← checked va (szBytes z) .r
  let s ← get
  let v ← tagged va x (op (szBytes z)) (s.me.tagWait .tagged va (.one d))
  popPorts [.one a]
  wr d v

def execLd (a : Src) (d : Dst) (z t : BitVec 2) (o : BitVec 8) (s : State) : Out :=
  run (.one d) (
    if t = 1 ∧ !s.me.armed then taggedLoad a d z o .wfull
    else if t = 2 ∧ !s.me.armed then taggedLoad a d z o .consume
    else do
      let vs ← peek [.one a] (.one d) (pure ())
      let va := effective (vs.getD 0 0) o (szBytes z)
      readTo [.one a] d (t == 3) (do
        let x ← checked va (szBytes z) .r
        pure [(.load (szBytes z), va, x)])) s

/-- A store without a wait: each word is an access of its own (R187, R188). `mk` checks and gives the writes. -/
def storeAll (us : List Use) (untagged : Bool) (xs : List (Nat × Word × Word × Xlated)) : CM Unit := do
  needRoom (xs.map fun x => x.2.2.2.place)
  budget (xs.map fun x => (x.2.1, x.2.2.2.place, x.1))
  popPorts us
  go xs
where
  go : List (Nat × Word × Word × Xlated) → CM Unit
    | [] => pure ()
    | (n, va, v, x) :: rest => do
      let _ ← issue (.store n v untagged) va x false true false false
      go rest

def execSt (a b : Src) (z t : BitVec 2) (o : BitVec 8) (s : State) : Out :=
  let us := [Use.one a, .one b]
  run .none (do
    reservedIf (t == 3)
    let vs ← peek us .none (pure ())
    let n := szBytes z
    let va := effective (vs.getD 0 0) o n
    let x ← checked va n .w
    if t = 1 then
      budget [(va, x.place, n)]
      let s ← get
      let _ ← tagged va x (.produce n (vs.getD 1 0)) (s.me.tagWait .tagged va .none)
      popPorts us
    else storeAll us (t == 2) [(n, va, vs.getD 1 0, x)]) s

/-! ## Pairs and runs (R187, R188) -/

/-- Consecutive words from a checked address. -/
def wordsAt (va : Word) (k : Nat) (right : Right) : CM (List (Word × Xlated)) :=
  go va k
where
  go (va : Word) : Nat → CM (List (Word × Xlated))
    | 0 => pure []
    | n + 1 => do
      let x ← xlate va right
      let xs ← go (va + 8) n
      pure ((va, x) :: xs)

/-- TG of a pair or run load is plain or acq (R187). -/
def loadTg (t : BitVec 2) : CM Unit := reservedIf (t == 1 || t == 2)

/-- TG of a pair or run store is plain or untagged (R187). -/
def storeTg (t : BitVec 2) : CM Unit := reservedIf (t == 1 || t == 3)

def execLdp (a : Src) (d : Dst) (t : BitVec 2) (o : BitVec 8) (s : State) : Out :=
  run (.pair d) (do
    loadTg t
    let vs ← peek [.one a] (.pair d) (pure ())
    let va := effective (vs.getD 0 0) o 8
    readTo [.one a] d (t == 3) (do
      aligned va 16
      let xs ← wordsAt va 2 .r
      pure (xs.map fun p => (.load 8, p.1, p.2)))) s

def execStp (a b : Src) (t : BitVec 2) (o : BitVec 8) (s : State) : Out :=
  let us := [Use.one a, .pair b]
  run .none (do
    storeTg t
    let vs ← peek us .none (pure ())
    let va := effective (vs.getD 0 0) o 8
    aligned va 16
    let xs ← wordsAt va 2 .w
    storeAll us (t == 2) (xs.zipIdx.map fun p => (8, p.1.1, vs.getD (1 + p.2) 0, p.1.2))) s

def execLdm (a : Src) (d : Dst) (z t : BitVec 2) (o : BitVec 8) (s : State) : Out :=
  run (.run d (z.toNat + 1)) (do
    loadTg t
    let vs ← peek [.one a] (.run d (z.toNat + 1)) (pure ())
    let va := effective (vs.getD 0 0) o 8
    readTo [.one a] d (t == 3) (do
      aligned va 8
      let xs ← wordsAt va (z.toNat + 1) .r
      pure (xs.map fun p => (.load 8, p.1, p.2)))) s

/-- The sources of `stm` (R188): hB and the registers that follow; anything else is refused. -/
def stmUses (a b : Src) (k : Nat) : List Use :=
  match b with
  | .h n => if n.val + k ≤ 16 then .one a :: (List.range k).map fun i => .one (.h (Fin.ofNat 16 (n.val + i)))
            else [.one a, .one (.bad 63)]
  | _ => [.one a, .one (.bad 63)]

def execStm (a b : Src) (z t : BitVec 2) (o : BitVec 8) (s : State) : Out :=
  let us := stmUses a b (z.toNat + 1)
  run .none (do
    storeTg t
    let vs ← peek us .none (pure ())
    let va := effective (vs.getD 0 0) o 8
    aligned va 8
    let xs ← wordsAt va (z.toNat + 1) .w
    storeAll us (t == 2) (xs.zipIdx.map fun p => (8, p.1.1, vs.getD (1 + p.2) 0, p.1.2))) s

/-! ## Tags and touches (R189, R190) -/

def execTagr (a : Src) (d : Dst) (o : BitVec 8) (s : State) : Out :=
  run (.one d) (do
    let vs ← peek [.one a] (.one d) (pure ())
    let va := effective (vs.getD 0 0) o 8
    readTo [.one a] d false (do
      let x ← checked va 8 .r
      pure [(.tagRead, va, x)])) s

def execTagw (a b : Src) (o : BitVec 8) (s : State) : Out :=
  let us := [Use.one a, .one b]
  run .none (do
    let vs ← peek us .none (pure ())
    let va := effective (vs.getD 0 0) o 8
    let x ← checked va 8 .w
    let t := (vs.getD 1 0).extractLsb' 0 2
    let c ← ctx
    require (!(t == 3 && !c.priv)) .privReg 0 0
    needRoom [x.place]
    budgetWait [(va, x.place, 8)]
    popPorts us
    let _ ← issue (.tagWrite t) va x false true false false) s

def execTouch (a : Src) (z : BitVec 2) (o : BitVec 8) (s : State) : Out :=
  run .none (do
    let vs ← peek [.one a] .none (pure ())
    let va := effective (vs.getD 0 0) o (szBytes z)
    let x ← checked va (szBytes z) .r
    needRoom [x.place]
    popPorts [.one a]
    let _ ← issue .touch va x true false false false) s

end Sys2Proof.Machine
end

