-- ==== Sys2Proof/Machine/Atomics.lean ====
section
/-! DEFINITION. Atomics and signalling writes (spec/09_core_memory.md R191–R201). A returning atomic counts as an
outstanding load and as an outstanding store until it returns (R183, R202). -/

namespace Sys2Proof.Machine

/-- Bytes of an atomic: F[2] is 1 for 32 bits (R54). -/
def amoBytes (z : Bool) : Nat := if z then 4 else 8

/-- An access whose acknowledgement the instruction itself awaits: issued once; one that fails at its home is acknowledged
with its cause (R192). -/
def acknowledged (mk : CM Nat) : CM Unit := do
  match ← waitOf .loads with
  | some w =>
    let s ← get
    if w.vals.any fun y => y.2.isNone && s.me.flight.any fun a => a.id == y.1 && !a.failed? then leaveWith s
  | none =>
    needBudget
    let id ← mk
    pause { plainWait .loads with vals := [(id, none)] }

def execAmo (a b : Src) (p : BitVec 4) (z g q : Bool) (s : State) : Out :=
  let us := [Use.one a, .one b]
  run .none (do
    reservedIf (amoReserved p z)
    let vs ← peek us .none (pure ())
    let va := vs.getD 0 0
    let mk : CM Nat := do
      let x ← checked va (amoBytes z) .w
      needRoom [x.place]
      budgetWait [(va, x.place, amoBytes z)]
      issue (.atomic p (amoBytes z) (vs.getD 1 0) g false) va x false true q q
    if q then acknowledged mk
    else
      let _ ← mk
    popPorts us) s

/-- An access that writes and returns a value: to a pending destination, or to a port once it has returned (R183). -/
def exchange (us : List Use) (d : Dst) (size : Nat) (va : Word) (op : AccOp) (acqOk acqFail : Bool) : CM Unit := do
  let mk : CM Xlated := do
    let x ← checked va size .w
    needRoom [x.place]
    budgetWait [(va, x.place, size)]
    pure x
  match d with
  | .port p =>
    match ← waitOf .loads with
    | some w =>
      let s ← get
      raiseDeferred fun a => w.vals.any fun y => y.1 == a.id
      if w.vals.all fun y => y.2.isSome then
        popPorts us
        sendRun p (w.vals.map fun y => y.2.getD 0)
      else leaveWith s
    | none =>
      needBudget
      let x ← mk
      let id ← issue op va x true true acqOk acqFail
      pause { plainWait .loads with vals := [(id, none)] }
  | _ =>
    let x ← mk
    popPorts us
    let id ← issue op va x true true acqOk acqFail
    wrPending d id

def execAmor (a b : Src) (d : Dst) (p : BitVec 4) (z g q : Bool) (s : State) : Out :=
  let us := [Use.one a, .one b]
  run (.one d) (do
    reservedIf (amoReserved p z)
    let vs ← peek us (.one d) (pure ())
    exchange us d (amoBytes z) (vs.getD 0 0) (.atomic p (amoBytes z) (vs.getD 1 0) g true) q q) s

/-- `amod` (R194): A is the pair of target and redirect address. -/
def execAmod (a b : Src) (p : BitVec 4) (z g q : Bool) (s : State) : Out :=
  let us := [Use.pair a, .one b]
  run .none (do
    reservedIf (amoReserved p z)
    let vs ← peek us .none (pure ())
    let va := vs.getD 0 0
    let rd := vs.getD 1 0
    let x ← checked va (amoBytes z) .w
    let y ← checked rd 8 .w
    let w ← xlate (rd + 8) .w
    needRoom [x.place]
    budgetWait [(va, x.place, amoBytes z), (rd, y.place, 8)]
    popPorts us
    let gen := min x.gen (min y.gen w.gen)
    let _ ← issue (.atomicTo p (amoBytes z) (vs.getD 2 0) g y.part rd w.part) va { x with gen := gen } false true q q) s

/-- `cas` (R195): later accesses wait for it when either acquire bit is set; the outcome is known only at the home. -/
def execCas (a b : Src) (d : Dst) (z g x q : Bool) (s : State) : Out :=
  let us := [Use.one a, .pair b]
  run (.one d) (do
    let vs ← peek us (.one d) (pure ())
    exchange us d (amoBytes z) (vs.getD 0 0) (.cas (amoBytes z) (vs.getD 1 0) (vs.getD 2 0) g) q x) s

/-- A payload of one or two words and an arrival (R199). -/
def putSignal (us : List Use) (va w0 : Word) (w1 : Option Word) (arr : Word) : CM Unit := do
  let n := if w1.isSome then 16 else 8
  let x ← checked va n .w
  if w1.isSome then
    let _ ← xlate (va + 8) .w
  let y ← checked arr 8 .w
  needRoom [x.place]
  budgetWait [(va, x.place, n)]
  popPorts us
  let _ ← issue (.pay w0 w1 y.part arr) va { x with gen := min x.gen y.gen } false true false false

def execPutsig (a b c : Src) (s : State) : Out :=
  let us := [Use.one a, .one b, .one c]
  run .none (do
    let vs ← peek us .none (pure ())
    putSignal us (vs.getD 0 0) (vs.getD 1 0) none (vs.getD 2 0)) s

def execPutsig2 (a b c : Src) (s : State) : Out :=
  let us := [Use.one a, .pair b, .one c]
  run .none (do
    let vs ← peek us .none (pure ())
    putSignal us (vs.getD 0 0) (vs.getD 1 0) (some (vs.getD 2 0)) (vs.getD 3 0)) s

/-- An access of one word that only acknowledges (R198, R200). -/
def signal (us : List Use) (store : Bool) (va : Word) (op : AccOp) : CM Unit := do
  let x ← checked va 8 .w
  needRoom [x.place]
  meter store [(va, x.place, 8)]
  popPorts us
  let _ ← issue op va x false true false false

def execArm (a b : Src) (s : State) : Out :=
  let us := [Use.one a, .one b]
  run .none (do
    let vs ← peek us .none (pure ())
    signal us true (vs.getD 0 0) (.arm (vs.getD 1 0))) s

def execSig (a b : Src) (s : State) : Out :=
  let us := [Use.one a, .one b]
  run .none (do
    let vs ← peek us .none (pure ())
    signal us false (vs.getD 0 0) (.arrive (vs.getD 1 0).toNat (vs.getD 1 0).toNat)) s

end Sys2Proof.Machine
end

