-- ==== Sys2Proof/Machine/Control.lean ====
section
/-! DEFINITION. Branches, jumps, calls, hardware loops, block ends and refused words (spec/03_encoding.md R42–R46, R57,
R62–R63; spec/07_core_integer.md R146–R151). -/

namespace Sys2Proof.Machine

/-- The condition of `br` (R57). -/
def condHolds (n : BitVec 3) (a b : Word) : Bool :=
  match n.toNat with
  | 0 => a == b
  | 1 => a != b
  | 2 => a.slt b
  | 3 => !a.slt b
  | 4 => a.ult b
  | 5 => !a.ult b
  | 6 => a &&& b != 0
  | _ => a &&& b == 0

/-- The target of a relative offset: the header of the block plus 8 × the signed offset (R45). -/
def relTarget (hdr : Word) {n : Nat} (o : BitVec n) : Word := hdr + (o.signExtend 64 <<< 3)

/-- A transfer of control that retires (R45, R130). -/
def jumpTo (t : Word) : CM Unit := do
  transfer t
  retireWith fun n => n - 1

def execBr (a b : Src) (n : BitVec 3) (o : BitVec 9) (s : State) : Out :=
  runSelf .none (do
    let vs ← ops [.one a, .one b] .none
    let c ← ctx
    if condHolds n (vs.getD 0 0) (vs.getD 1 0) then jumpTo (relTarget c.hdr o) else retire) s

def execJmp (o : BitVec 24) (s : State) : Out :=
  runSelf .none (do
    let c ← ctx
    jumpTo (relTarget c.hdr o)) s

def execJr (a : Src) (s : State) : Out :=
  runSelf .none (do
    let vs ← ops [.one a] .none
    jumpTo (vs.getD 0 0)) s

/-- The instruction is the last word of its block (R46). -/
def Ctx.isLast (c : Ctx) : Bool := c.pc + 4 == c.blockEnd

/-- The address of the following header is written to h15, which wakes bank 1 (R46, R147). -/
def link (next : Word) : CM Unit := do
  modCtx Ctx.wake
  modCtx fun c => c.setReg 15 ⟨next, .present, none⟩

def execCall (o : BitVec 24) (s : State) : Out :=
  runSelf (.one (.h 15)) (do
    let c ← ctx
    require c.isLast .callNotLast 0 0
    prepare [] (.one (.h 15))
    transfer (relTarget c.hdr o)
    link c.nextHeader
    retireWith fun n => n - 1) s

def execCallr (a : Src) (s : State) : Out :=
  runSelf (.one (.h 15)) (do
    let c ← ctx
    require c.isLast .callNotLast 0 0
    let vs ← ops [.one a] (.one (.h 15))
    transfer (vs.getD 0 0)
    link c.nextHeader
    retireWith fun n => n - 1) s

/-- A hardware loop entered with a count (R148). -/
def startLoop (count : Nat) (o : BitVec 9) : CM Unit := do
  let c ← ctx
  if count = 0 then retire
  else
    require (c.loops.length < 4) .loopDepth 0 0
    let body := relTarget c.hdr o
    enter body .loop
    let ret : Int := (c.pc + 4).toInt - body.toInt
    modCtx fun x => { x with loops := ⟨body, count, ret, c.hdr, c.len, c.kind⟩ :: x.loops }
    retireWith fun n => n - 1

def execLoop (a : Src) (o : BitVec 9) (s : State) : Out :=
  runSelf .none (do
    let vs ← ops [.one a] .none
    startLoop ((vs.getD 0 0).toNat % 2 ^ 32) o) s

def execLoopi (n : BitVec 12) (o : BitVec 9) (s : State) : Out := runSelf .none (startLoop n.toNat o) s

def execBrk (o : BitVec 24) (s : State) : Out :=
  runSelf .none (do
    let c ← ctx
    require (!c.loops.isEmpty) .loopDepth 0 0
    enter (relTarget c.hdr o) .transfer
    modCtx fun x => { x with loops := x.loops.drop 1 }
    retireWith fun n => n - 1) s

/-- Control reaches the end of the block (R149): an iteration of the innermost loop closes where the block is its body,
else the following header is entered. It retires nothing. -/
def closeBlock : CM Unit := do
  let c ← ctx
  match c.loops with
  | e :: es =>
    if e.body = c.hdr then
      if 1 < e.rem then
        enter e.body .again
        modCtx fun x => { x with loops := { e with rem := e.rem - 1 } :: es }
      else
        -- no header check: registers and trellis as left
        modCtx fun x => { x with loops := es, pc := e.body + wordOfInt e.ret, hdr := e.hdr, len := e.len, kind := e.kind }
    else enter c.nextHeader .fallthrough
  | [] => enter c.nextHeader .fallthrough

/-- The core runs code of an activation, and stands at no instruction. -/
def Ctx.atEnd (c : Ctx) : Bool := c.pc == c.blockEnd && c.len != 0

/-- BLOCK_END (R149): made by the core when its program counter stands at the end of its block. -/
def execBlockEnd (s : State) : Out :=
  if s.ctx.atEnd && s.me.inl.isNone && s.me.wait.isNone && s.me.trapping.isNone && s.me.act.isSome then
    .next (runBody .none closeBlock s)
  else .next s

/-- YIELD_OVERRUN (R130): the count of the running activation is 0, and its next instruction, which would have retired,
raises the cause instead. -/
def execYieldOverrun (s : State) : Out :=
  if s.ctx.spent ∧ s.me.inl.isNone ∧ s.me.act.isSome then
    .next ((s.updCtx fun c => { c with spent := false }).take (causeOf .yieldOverrun 0 0)).1
  else .next s

/-- ILLEGAL_OPCODE (R62): an unassigned OP. -/
def execIllegalOpcode (_word : BitVec 32) (s : State) : Out := run .none (raise .illegalOpcode 0 0) s

/-- RESERVED_FIELD (R63): a reserved or unused field that is not zero. -/
def execReservedField (_word : BitVec 32) (s : State) : Out := run .none (raise .reservedField 0 0) s

def execNop (s : State) : Out := run .none (pure ()) s

end Sys2Proof.Machine
end

