-- ==== Sys2Proof/Machine/Flags.lean ====
section
/-! DEFINITION. The sticky floating-point flags and their traps (spec/06_core_state.md R126, R127; spec/08_core_packed.md
R153), and the element format of an instruction (spec/03_encoding.md R55). -/

namespace Sys2Proof.Machine

/-- The causes of the flags NV, DZ, OF, UF, NX, in the order in which they are raised (R127). -/
def flagCauses : List (Nat × Cause) :=
  [(0, .fpInvalid), (1, .fpDivzero), (2, .fpOverflow), (3, .fpUnderflow), (4, .fpInexact)]

/-- The union of the lanes' flags (R109). -/
def unionFlags (fs : List Flags) : Flags := fs.foldl (· ||| ·) 0

/-- The lanes, as a mask, that raise a flag: TINFO of an FP trap (R225). -/
def laneMask (fs : List Flags) (n : Nat) : Nat :=
  (fs.zipIdx).foldl (fun m p => if p.1.getLsbD n then m + 2 ^ p.2 else m) 0

/-- The first flag that is raised and whose trap enable is set (R127). -/
def trappedFlag (fps : Word) (fs : Flags) : Option (Nat × Cause) :=
  flagCauses.find? fun p => fs.getLsbD p.1 && bit fps (5 + p.1)

/-- Flags that an instruction raises, lane by lane: set, or the trap of an enabled one (R127). -/
def setFlags (fs : List Flags) : CM Unit := do
  let c ← ctx
  match trappedFlag c.fps (unionFlags fs) with
  | some (n, cause) => raise cause 0 (wordOf (laneMask fs n))
  | none => modCtx fun c => { c with fps := c.fps ||| (unionFlags fs).zeroExtend 64 }

/-- The format code that a field names: 000 takes FMT (R55). -/
def Ctx.fmtCode (c : Ctx) (f : BitVec 3) : Nat := if f = 0 then fld c.fmt 0 3 else f.toNat

/-- FMT_ILLEGAL, with TINFO the resolved code (R55, R154, R225). -/
def accept (ok : Nat → Bool) (f : BitVec 3) : CM Unit := do
  let c ← ctx
  require (ok (c.fmtCode f)) .fmtIllegal 0 (wordOf (c.fmtCode f))

/-- The formats of arithmetic: every code but `e2m1x16` (R154). -/
def arithFmt (k : Nat) : Bool := decide (1 ≤ k) && decide (k ≤ 6)

/-- Every format code (R154). -/
def anyFmt (k : Nat) : Bool := decide (1 ≤ k) && decide (k ≤ 7)

/-- The format of a code that has been accepted. -/
def fmtAt (k : Nat) : Fmt := (fmtOf k).getD Fmt.f64

end Sys2Proof.Machine
end

