-- ==== Sys2Proof/Machine/WideSum.lean ====
section
/-! DEFINITION. The wide sum WS128 and block scales (spec/05_numbers.md R101–R102, R110–R119). -/

namespace Sys2Proof.Machine

/-- What a WS128 stands for (R111): NaN, an infinity, or an exact value with its lost state. -/
inductive WsVal where
  | nan
  | inf (neg : Bool)
  | fin (v : Dyad) (lost : Bool)
  deriving DecidableEq, Repr

/-- The 112-bit two's-complement integer I of a WS128 (R110). -/
def WsPair.int (p : WsPair) : Int := sextInt (p.lo.toNat + fld p.hi 16 48 * 2 ^ 64) 112

/-- The value of any bits read as a WS128 (R111). -/
def WsPair.val (p : WsPair) : WsVal :=
  match fld p.hi 0 2 with
  | 0 => .fin ⟨p.int, (fld p.hi 2 14 : Int) - 8191⟩ false
  | 1 => .fin ⟨p.int, (fld p.hi 2 14 : Int) - 8191⟩ true
  | 2 => .inf (decide (p.int < 0))
  | _ => .nan

/-- The fixed words of R112. -/
def WsPair.zero : WsPair := ⟨0, 0⟩
def WsPair.nan : WsPair := ⟨0, 3⟩
def WsPair.inf (neg : Bool) : WsPair := if neg then ⟨0xFFFFFFFFFFFFFFFF, 0xFFFFFFFFFFFF0002⟩ else ⟨1, 2⟩

/-- floor(z × 2^k). -/
def shiftFloor (z k : Int) : Int := if 0 ≤ k then z * (2 ^ k.toNat : Nat) else z / (2 ^ (-k).toNat : Nat)

/-- Bits of an integer's place in two's complement: the least t with −2^t ≤ z < 2^t. -/
def signedBits (z : Int) : Nat :=
  if 0 ≤ z then (if z = 0 then 0 else ilog2 z.toNat + 1)
  else (if z = -1 then 0 else ilog2 ((-z).toNat - 1) + 1)

/-- ws_make (R112): the canonical words of a finite value, and whether it overflows to an infinity. -/
def wsMake (v : Dyad) (lostin : Bool) : WsPair × Bool :=
  if v.z = 0 then (⟨0, if lostin then 1 else 0⟩, false)
  else
    let a : Int := max 0 ((signedBits v.z : Int) + v.e + 8191 - 111)
    if 16383 < a then (WsPair.inf (decide (v.z < 0)), true)
    else
      let k := v.e + 8191 - a
      let i := shiftFloor v.z k
      let exact := 0 ≤ k ∨ i * (2 ^ (-k).toNat : Nat) = v.z
      let lost := lostin || !decide exact
      let n := (i % (2 ^ 112 : Nat)).toNat
      (⟨BitVec.ofNat 64 n, BitVec.ofNat 64 (n / 2 ^ 64 * 2 ^ 16 + a.toNat * 4 + if lost then 1 else 0)⟩, false)

/-- The canonical words of a value, and whether a finite one overflows. -/
def WsVal.make : WsVal → WsPair × Bool
  | .nan => (WsPair.nan, false)
  | .inf n => (WsPair.inf n, false)
  | .fin v l => wsMake v l

/-- x + y (R113), and whether finite operands overflow. -/
def wsAddOv (x y : WsPair) : WsPair × Bool :=
  match x.val, y.val with
  | .nan, _ => (WsPair.nan, false)
  | _, .nan => (WsPair.nan, false)
  | .inf n, .inf m => if n == m then (WsPair.inf n, false) else (WsPair.nan, false)
  | .inf n, _ => (WsPair.inf n, false)
  | _, .inf m => (WsPair.inf m, false)
  | .fin a l, .fin b m => wsMake (a.add b) (l || m)

def wsAdd (x y : WsPair) : WsPair := (wsAddOv x y).1

/-- A number that multiplies a WS128 (R114): a scale, or the product of the tensor scales. -/
abbrev Factor := Fp

/-- The product of two factors, formed exactly; an infinity times zero is NaN (R118 step 5). -/
def Fp.times (a b : Fp) : Fp :=
  match a, b with
  | .nan _, _ => .nan false
  | _, .nan _ => .nan false
  | .inf n, .inf m => .inf (xor n m)
  | .inf n, .fin m k _ => if k = 0 then .nan false else .inf (xor n m)
  | .fin n k _, .inf m => if k = 0 then .nan false else .inf (xor n m)
  | .fin n k e, .fin m j f => .fin (xor n m) (k * j) (e + f)

/-- x × s (R114), and whether a finite product overflows. -/
def wsMulOv (x : WsPair) (s : Factor) : WsPair × Bool :=
  match x.val, s with
  | .nan, _ => (WsPair.nan, false)
  | _, .nan _ => (WsPair.nan, false)
  | .inf n, .inf m => (WsPair.inf (xor n m), false)
  | .inf n, .fin m k _ => if k = 0 then (WsPair.nan, false) else (WsPair.inf (xor n m), false)
  | .fin v _, .inf m => if v.z = 0 then (WsPair.nan, false) else (WsPair.inf (xor (decide (v.z < 0)) m), false)
  | .fin v l, .fin m k e => wsMake (v.mul (Dyad.of m k e)) l

def wsMul (x : WsPair) (s : Factor) : WsPair := (wsMulOv x s).1

/-! ## Scales (R56, R101, R102) -/

/-- A scale's value from its format code SF (R56) and its byte. -/
def scaleOf (sf : BitVec 2) (byte : Nat) : Factor :=
  match sf.toNat with
  | 0 => if byte % 256 = 255 then .nan false else .fin false 1 ((byte % 256 : Nat) - 127 : Int)
  | 1 => Fmt.e5m2.decode (byte % 256)
  | 2 => Fmt.e4m3.decode (byte % 256)
  | _ => .fin false 1 0

/-- The value 1. -/
def Fp.one : Fp := .fin false 1 0

/-! ## Block sums (R117) -/

/-- The sum of exact products as it stands: NaN, infinite or finite. -/
def addProduct (acc : WsVal) (p : Fp) : WsVal :=
  match acc, p with
  | .nan, _ => .nan
  | _, .nan _ => .nan
  | .inf n, .inf m => if n == m then .inf n else .nan
  | .inf n, _ => .inf n
  | _, .inf m => .inf m
  | .fin v l, .fin n k e => .fin (v.add (Dyad.of n k e)) l

/-- The sum of a block's products (R117). -/
def blockSum (f : Fmt) (xs : List (Nat × Nat)) : WsPair :=
  ((xs.foldl (fun acc p => addProduct acc ((f.decode p.1).times (f.decode p.2))) (WsVal.fin Dyad.zero false)).make).1

/-- The sum of a block's products of two formats. -/
def blockSum2 (fa fb : Fmt) (xs : List (Nat × Nat)) : WsPair :=
  ((xs.foldl (fun acc p => addProduct acc ((fa.decode p.1).times (fb.decode p.2))) (WsVal.fin Dyad.zero false)).make).1

/-! ## Rounding (R118 step 6, R119) -/

/-- A finite value in state lost, with a non-zero bit below its anchor: nothing of any format's width stands there. -/
def lostDyad (v : Dyad) : Dyad := if v.z = 0 then ⟨1, -10000⟩ else ⟨v.z * 2 ^ 64 + 1, v.e - 64⟩

/-- A WS128 rounded to a format (R119). -/
def Fmt.ofWs (f : Fmt) (mode : BitVec 2) (sat : Bool) (x : WsPair) : Rounded :=
  match x.val with
  | .nan => ⟨f.canonNan, flNV⟩
  | .inf n => f.ofInf sat n
  | .fin v l => f.ofDyad mode sat (mode == 2#2) (if l then lostDyad v else v)

/-- Steps 5 and 6 of R118: the product with a factor, rounded once; a finite product that overflows rounds as such. DEDUCED
(log 76): R118 speaks of a finite WS128 carried out of the range; an infinite factor is an infinite operand, with no overflow. -/
def Fmt.ofWsScaled (f : Fmt) (mode : BitVec 2) (sat : Bool) (x : WsPair) (s : Factor) : Rounded :=
  let (p, ov) := wsMulOv x s
  if ov then ⟨f.overflow mode sat (match p.val with | .inf n => n | _ => false), flOF ||| flNX⟩
  else f.ofWs mode sat p

end Sys2Proof.Machine
end

