-- ==== Sys2Proof/Machine/Packed.lean ====
section
/-! DEFINITION. Packed floating-point, packed integer and wide-sum instructions (spec/08_core_packed.md R153–R174). -/

namespace Sys2Proof.Machine

/-- The lanes of a result, each from the same lane of every operand (R105, R153). -/
def eachLane (f : Fmt) (op : List Nat → Rounded) (vs : List Word) : List Rounded :=
  (List.range f.lanes).map fun i => op (vs.map fun v => lane v f.width i)

/-- Lanes delivered, with their flags (R153). -/
def deliverLanes (w : Nat) (d : Dst) (rs : List Rounded) : CM Unit := do
  setFlags (rs.map fun r => r.flags)
  wr d (ofLanes w (rs.map fun r => r.code))

/-- A lane-wise instruction (R153): its sources, its format, its operation on the lanes' codes. -/
def lanewise (us : List Use) (d : Dst) (ok : Nat → Bool) (f : BitVec 3) (op : Fmt → List Nat → Rounded) (s : State) :
    Out :=
  run (.one d) (do
    let vs ← opsFmt us (.one d) (accept ok f)
    let c ← ctx
    let fm := fmtAt (c.fmtCode f)
    deliverLanes fm.width d (eachLane fm (op fm) vs)) s

/-- A two-operand operation on values (R155). -/
def fp2 (op : Fmt → Fp → Fp → Rounded) (fm : Fmt) (xs : List Nat) : Rounded :=
  op fm (fm.decode (xs.getD 0 0)) (fm.decode (xs.getD 1 0))

/-- A one-operand operation on values (R157). -/
def fp1 (op : Fmt → Fp → Rounded) (fm : Fmt) (xs : List Nat) : Rounded := op fm (fm.decode (xs.getD 0 0))

/-! ## Arithmetic (R155–R160) -/

def execFadd (a b : Src) (d : Dst) (f : BitVec 3) (r : BitVec 2) (t : Bool) (s : State) : Out :=
  lanewise [.one a, .one b] d arithFmt f (fp2 fun fm => fm.add r t) s

def execFsub (a b : Src) (d : Dst) (f : BitVec 3) (r : BitVec 2) (t : Bool) (s : State) : Out :=
  lanewise [.one a, .one b] d arithFmt f (fp2 fun fm => fm.sub r t) s

def execFmul (a b : Src) (d : Dst) (f : BitVec 3) (r : BitVec 2) (t : Bool) (s : State) : Out :=
  lanewise [.one a, .one b] d arithFmt f (fp2 fun fm => fm.mul r t) s

def execFdiv (a b : Src) (d : Dst) (f : BitVec 3) (r : BitVec 2) (t : Bool) (s : State) : Out :=
  lanewise [.one a, .one b] d arithFmt f (fp2 fun fm => fm.div r t) s

def execFmin (a b : Src) (d : Dst) (f : BitVec 3) (s : State) : Out :=
  lanewise [.one a, .one b] d arithFmt f (fun fm xs => fm.minMax false (xs.getD 0 0) (xs.getD 1 0)) s

def execFmax (a b : Src) (d : Dst) (f : BitVec 3) (s : State) : Out :=
  lanewise [.one a, .one b] d arithFmt f (fun fm xs => fm.minMax true (xs.getD 0 0) (xs.getD 1 0)) s

/-- `fma` (R156): the base is hD, or q0 when D is 16, read after A and B. -/
def execFma (a b : Src) (d : Dst) (f : BitVec 3) (r : BitVec 2) (t : Bool) (s : State) : Out :=
  lanewise [.one a, .one b, .one (baseOf d)] d arithFmt f (fun fm xs =>
    fm.fma r t (fm.decode (xs.getD 0 0)) (fm.decode (xs.getD 1 0)) (fm.decode (xs.getD 2 0))) s

def execFsqrt (a : Src) (d : Dst) (f : BitVec 3) (r : BitVec 2) (t : Bool) (s : State) : Out :=
  lanewise [.one a] d arithFmt f (fp1 fun fm => fm.sqrt r t) s

def execFrcp (a : Src) (d : Dst) (f : BitVec 3) (r : BitVec 2) (t : Bool) (s : State) : Out :=
  lanewise [.one a] d arithFmt f (fp1 fun fm => fm.rcp r t) s

def execFrsq (a : Src) (d : Dst) (f : BitVec 3) (r : BitVec 2) (t : Bool) (s : State) : Out :=
  lanewise [.one a] d arithFmt f (fp1 fun fm => fm.rsqrt r t) s

def execFexp2 (a : Src) (d : Dst) (f : BitVec 3) (r : BitVec 2) (t : Bool) (s : State) : Out :=
  lanewise [.one a] d arithFmt f (fp1 fun fm => fm.exp2 r t) s

def execFround (a : Src) (d : Dst) (f : BitVec 3) (r : BitVec 2) (s : State) : Out :=
  lanewise [.one a] d arithFmt f (fun fm xs => fm.fround r (xs.getD 0 0)) s

/-- `fscl` (R158): B is a signed count, the same for every lane. -/
def execFscl (a b : Src) (d : Dst) (f : BitVec 3) (r : BitVec 2) (t : Bool) (s : State) : Out :=
  run (.one d) (do
    let vs ← opsFmt [.one a, .one b] (.one d) (accept arithFmt f)
    let c ← ctx
    let fm := fmtAt (c.fmtCode f)
    deliverLanes fm.width d
      (eachLane fm (fp1 (fun fm => fm.scale r t (vs.getD 1 0).toInt) fm) [vs.getD 0 0])) s

/-- The sign of a lane of `fsgn` (R159). -/
def signFor (op : BitVec 2) (sa sb : Bool) : Bool :=
  match op.toNat with
  | 0 => sb
  | 1 => !sb
  | 2 => xor sa sb
  | _ => false

def execFsgn (a b : Src) (d : Dst) (f : BitVec 3) (o : BitVec 2) (s : State) : Out :=
  run (.one d) (do
    reservedIf (o == 3#2 && b != .q 0)
    let vs ← opsFmt (if o = 3#2 then [.one a] else [.one a, .one b]) (.one d) (accept anyFmt f)
    let c ← ctx
    let fm := fmtAt (c.fmtCode f)
    let top := 2 ^ (fm.width - 1)
    wr d (ofLanes fm.width ((List.range fm.lanes).map fun i =>
      let x := lane (vs.getD 0 0) fm.width i
      let y := lane (vs.getD 1 0) fm.width i
      fm.signed (signFor o (x / top == 1) (y / top == 1)) (x % top)))) s

/-- The exact sum of values, rounded once (R160). -/
def sumValues (fm : Fmt) (r : BitVec 2) (t : Bool) (xs : List Fp) : Rounded :=
  if xs.any Fp.isNan then fm.nanResult (xs.any Fp.isSnan)
  else if xs.contains (.inf false) && xs.contains (.inf true) then fm.nanResult true
  else if xs.contains (.inf false) then fm.ofInf t false
  else if xs.contains (.inf true) then fm.ofInf t true
  else
    let sum := xs.foldl (fun acc x => match x with
      | .fin n m e => acc.add (Dyad.of n m e)
      | _ => acc) Dyad.zero
    let neg := if xs.all Fp.signBit then true else if xs.any Fp.signBit then r == 2#2 else false
    fm.ofDyad r t neg sum

/-- `fhsum` (R160): B = z adds the lanes of A alone. -/
def execFhsum (a b : Src) (d : Dst) (f : BitVec 3) (r : BitVec 2) (t : Bool) (s : State) : Out :=
  run (.one d) (do
    let vs ← opsFmt [.one a, .one b] (.one d) (accept arithFmt f)
    let c ← ctx
    let fm := fmtAt (c.fmtCode f)
    let words := if b = .z then [vs.getD 0 0] else vs
    let xs := (words.map fun w => (List.range fm.lanes).map fun i => fm.decode (lane w fm.width i)).flatten
    deliverLanes fm.width d [sumValues fm r t xs]) s

/-! ## Compare and class (R161, R162) -/

def execFcmp (a b : Src) (d : Dst) (f p : BitVec 3) (s : State) : Out :=
  if 6 ≤ p.toNat then run (.one d) (fail .reservedField) s
  else
    lanewise [.one a, .one b] d arithFmt f (fun fm xs =>
      let (holds, fl) := fcmpHolds p.toNat (fm.decode (xs.getD 0 0)) (fm.decode (xs.getD 1 0))
      ⟨if holds then 2 ^ fm.width - 1 else 0, fl⟩) s

def execFclass (a : Src) (d : Dst) (f : BitVec 3) (s : State) : Out :=
  lanewise [.one a] d arithFmt f (fun fm xs => ⟨fm.classOf (xs.getD 0 0), 0⟩) s

/-! ## Conversions and packing (R163–R169) -/

/-- `cvt`'s destination lanes: for each, the source lane it comes from; none where PART is out of its limits (R164). -/
def cvtLanes (src dst : Fmt) (part : Nat) : Option (List (Option Nat)) :=
  let ns := src.lanes
  let nd := dst.lanes
  if ns ≤ nd then
    if part < nd / ns then
      some ((List.range nd).map fun i => if part * ns ≤ i ∧ i < part * ns + ns then some (i - part * ns) else none)
    else none
  else if part < ns / nd then some ((List.range nd).map fun i => some (part * nd + i)) else none

def execCvt (a : Src) (p q : BitVec 3) (d : Dst) (f : BitVec 3) (r : BitVec 2) (t hi : Bool) (s : State) : Out :=
  let part := p.toNat + if hi then 8 else 0
  let map (c : Ctx) := cvtLanes (fmtAt (c.fmtCode q)) (fmtAt (c.fmtCode f)) part
  run (.one d) (do
    let vs ← opsFmt [.one a] (.one d) (do
      accept anyFmt f
      accept anyFmt q
      let c ← ctx
      require (map c).isSome .fmtIllegal 0 (wordOf (c.fmtCode f)))
    let c ← ctx
    let src := fmtAt (c.fmtCode q)
    let dst := fmtAt (c.fmtCode f)
    deliverLanes dst.width d (((map c).getD []).map fun o => match o with
      | some i => dst.convert r t (src.decode (lane (vs.getD 0 0) src.width i))
      | none => ⟨0, 0⟩)) s

def execCvti (a : Src) (u : Bool) (d : Dst) (f : BitVec 3) (r : BitVec 2) (s : State) : Out :=
  lanewise [.one a] d arithFmt f (fun fm xs =>
    let (v, fl) := toInteger fm.width u r (fm.decode (xs.getD 0 0))
    ⟨v, fl⟩) s

/-- `cvtf` (R165): rounded by R106, raising only NX. DEDUCED (log 75): R165 names the only flag of this instruction, so a 16-bit
lane that f16 cannot hold raises no OF, although R109 lists it. -/
def execCvtf (a : Src) (u : Bool) (d : Dst) (f : BitVec 3) (r : BitVec 2) (s : State) : Out :=
  lanewise [.one a] d arithFmt f (fun fm xs =>
    let x := fm.ofInteger fm.width u r (xs.getD 0 0)
    ⟨x.code, x.flags &&& flNX⟩) s

/-- The formats FP6 E2M3 and E3M2 (R104). -/
def Fmt.e2m3 : Fmt := ⟨6, 3, 1, .none⟩
def Fmt.e3m2 : Fmt := ⟨6, 2, 3, .none⟩

/-- A lane of `cvtx` (R166). -/
def cvtxLane (kind : BitVec 2) (part i : Nat) (x : Word) : Nat :=
  match kind.toNat with
  | 0 => (Fmt.e4m3.convert 0 false (Fmt.e2m3.decode (fld x (6 * i) 6))).code
  | 1 => (Fmt.e5m2.convert 0 false (Fmt.e3m2.decode (fld x (6 * i) 6))).code
  | _ => (Fmt.e4m3.ofInteger 4 false 0 (fld x (4 * (8 * part + i)) 4)).code

def execCvtx (a : Src) (p : Bool) (k : BitVec 2) (d : Dst) (s : State) : Out :=
  run (.one d) (do
    reservedIf (k == 3#2 || (p && decide (k.toNat < 2)))
    let vs ← ops [.one a] (.one d)
    wr d (ofLanes 8 ((List.range 8).map fun i => cvtxLane k (if p then 1 else 0) i (vs.getD 0 0)))) s

/-- The source format of `ppack` (R167). -/
def packSource (dst : Nat) (x : Bool) : Option Fmt :=
  match dst, x with
  | 2, false => some .f64
  | 3, false => some .f32
  | 4, false => some .f32
  | 5, false => some .bf16
  | 6, false => some .bf16
  | 5, true => some .f16
  | 6, true => some .f16
  | _, _ => none

/-- The source format of `punpk` (R168). -/
def unpackSource (dst : Nat) (x : Bool) : Option Fmt :=
  match dst, x with
  | 1, false => some .f32
  | 2, false => some .bf16
  | 2, true => some .f16
  | 3, false => some .e4m3
  | 4, false => some .e4m3
  | 3, true => some .e5m2
  | 4, true => some .e5m2
  | _, _ => none

def execPpack (a b : Src) (d : Dst) (f : BitVec 3) (r : BitVec 2) (t x : Bool) (s : State) : Out :=
  run (.one d) (do
    let vs ← opsFmt [.one a, .one b] (.one d) (accept (fun k => (packSource k x).isSome) f)
    let c ← ctx
    let dst := fmtAt (c.fmtCode f)
    let src := (packSource (c.fmtCode f) x).getD .f64
    deliverLanes dst.width d ((vs.map fun w => (List.range src.lanes).map fun i =>
      dst.convert r t (src.decode (lane w src.width i))).flatten)) s

def execPunpk (a : Src) (d : Dst) (f : BitVec 3) (x h : Bool) (s : State) : Out :=
  run (.one d) (do
    let vs ← opsFmt [.one a] (.one d) (accept (fun k => (unpackSource k x).isSome) f)
    let c ← ctx
    let dst := fmtAt (c.fmtCode f)
    let src := (unpackSource (c.fmtCode f) x).getD .f64
    deliverLanes dst.width d ((List.range dst.lanes).map fun i =>
      dst.convert 0 false (src.decode (lane (vs.getD 0 0) src.width ((if h then dst.lanes else 0) + i))))) s

/-- A byte of `pperm` (R169). -/
def permByte (x y z : Word) (j : Nat) : Nat :=
  let sel := fld z (8 * j) 8
  if 128 ≤ sel then 0
  else
    let k := sel % 16
    if k < 8 then fld x (8 * k) 8 else fld y (8 * (k - 8)) 8

def execPperm (a b : Src) (d : Dst) (c : Src) (s : State) : Out :=
  ternary a b c d (fun x y z => ofLanes 8 ((List.range 8).map (permByte x y z))) s

/-! ## Packed integers (R170, R171) -/

/-- A lane's value (R103, R170). -/
def laneInt (w : Nat) (u : Bool) (x : Nat) : Int := if u then ((x % 2 ^ w : Nat) : Int) else sextInt x w

/-- A value clamped to a lane's range (R170). -/
def clampLane (w : Nat) (u : Bool) (i : Int) : Int :=
  if u then max 0 (min (2 ^ w - 1) i) else max (-(2 ^ (w - 1) : Nat)) (min (2 ^ (w - 1) - 1) i)

/-- An operation of `pint` on a lane (R170). -/
def pintOp (o w : Nat) (u t : Bool) (x y : Nat) : Nat :=
  let a := laneInt w u x
  let b := laneInt w u y
  let i : Int := match o with
    | 0 => a + b
    | 1 => a - b
    | 2 => a * b
    | 3 => min a b
    | 4 => max a b
    | _ => if b ≤ a then a - b else b - a
  ((if t then clampLane w u i else i) % (2 ^ w : Nat)).toNat

def execPint (a b : Src) (d : Dst) (w u t : Bool) (o : BitVec 3) (s : State) : Out :=
  run (.one d) (do
    reservedIf (decide (6 ≤ o.toNat))
    let vs ← ops [.one a, .one b] (.one d)
    let n := if w then 16 else 8
    wr d (ofLanes n ((List.range (64 / n)).map fun i =>
      pintOp o.toNat n u t (lane (vs.getD 0 0) n i) (lane (vs.getD 1 0) n i)))) s

/-- Σ a_i × b_i (R171). -/
def dotInt (n : Nat) (ua ub : Bool) (x y : Word) : Int :=
  (List.range (64 / n)).foldl (fun acc i => acc + laneInt n ua (lane x n i) * laneInt n ub (lane y n i)) 0

def execPdoti (a b : Src) (d : Dst) (y x w : Bool) (s : State) : Out :=
  ternary a b (baseOf d) d (fun p q base => base + wordOfInt (dotInt (if w then 16 else 8) x y p q)) s

/-! ## Wide sums (R172–R174) -/

/-- Scale blocks of a word that SEL selects: first lane and number of lanes of each (R105, R172). -/
def pdotBlocks (fm : Fmt) (sel : Nat) : List (Nat × Nat × Nat) :=
  let all := if fm = .e2m1 then [(0, 0, 8), (1, 8, 8)] else [(0, 0, fm.lanes)]
  all.filter fun b => sel == 0 || b.1 == sel - 1

/-- `pdot` accepts a format with a selection and scales (R172). -/
def pdotAccepts (k sel : Nat) (scaled : Bool) : Bool :=
  decide (2 ≤ k) && decide (k ≤ 7) && !(sel == 2 && k != 7) && !(sel == 1 && decide (k ≤ 4)) && !(scaled && decide (k ≤ 4))

/-- The sum of the blocks of `pdot` (R172). -/
def pdotSum (fm : Fmt) (sel : Nat) (scaled : Bool) (scf x y c : Word) : WsPair :=
  (pdotBlocks fm sel).foldl (fun acc b =>
    let w := blockSum fm ((List.range b.2.2).map fun i => (lane x fm.width (b.2.1 + i), lane y fm.width (b.2.1 + i)))
    let w := if scaled then
        wsMul (wsMul w (scaleOf (scf.extractLsb' 0 2) (fld c (16 * b.1) 8))) (scaleOf (scf.extractLsb' 2 2) (fld c (16 * b.1 + 8) 8))
      else w
    wsAdd acc w) WsPair.zero

def execPdot (a b : Src) (d : Dst) (c : BitVec 4) (u : Bool) (sel : BitVec 2) (s : State) : Out :=
  run (.pair d) (do
    reservedIf (sel == 3#2 || (!u && c != 0#4))
    let vs ← opsFmt ([.one a, .one b] ++ if u then [Use.one (.h (Fin.ofNat 16 c.toNat))] else []) (.pair d)
      (accept (fun k => pdotAccepts k sel.toNat u) 0)
    let x ← ctx
    let p := pdotSum (fmtAt (x.fmtCode 0)) sel.toNat u x.mx.scf (vs.getD 0 0) (vs.getD 1 0) (vs.getD 2 0)
    wrPair d p.lo p.hi) s

/-- A wide-sum result with overflow as its one flag (R173). -/
def deliverWs (d : Dst) (r : WsPair × Bool) : CM Unit := do
  setFlags [if r.2 then flOF else 0]
  wrPair d r.1.lo r.1.hi

def execWsadd (a b : Src) (d : Dst) (s : State) : Out :=
  run (.pair d) (do
    let vs ← ops [.pair a, .pair b] (.pair d)
    deliverWs d (wsAddOv ⟨vs.getD 0 0, vs.getD 1 0⟩ ⟨vs.getD 2 0, vs.getD 3 0⟩)) s

def execWsscl (a b : Src) (d : Dst) (sf : BitVec 2) (s : State) : Out :=
  run (.pair d) (do
    let vs ← ops [.pair a, .one b] (.pair d)
    deliverWs d (wsMulOv ⟨vs.getD 0 0, vs.getD 1 0⟩ (scaleOf sf (fld (vs.getD 2 0) 0 8)))) s

/-- The product of the two tensor scales that a word holds (R174). -/
def tensorScales (x : Word) (bf : Bool) : Factor :=
  if bf then (Fmt.bf16.decode (fld x 0 16)).times (Fmt.bf16.decode (fld x 32 16))
  else (Fmt.f32.decode (fld x 0 32)).times (Fmt.f32.decode (fld x 32 32))

def execWsrnd (a b : Src) (d : Dst) (f : BitVec 3) (r : BitVec 2) (t bf : Bool) (s : State) : Out :=
  run (.one d) (do
    let vs ← opsFmt [.pair a, .one b] (.one d) (accept arithFmt f)
    let c ← ctx
    let fm := fmtAt (c.fmtCode f)
    deliverLanes fm.width d
      [fm.ofWsScaled r t ⟨vs.getD 0 0, vs.getD 1 0⟩ (tensorScales (vs.getD 2 0) bf)]) s

end Sys2Proof.Machine
end

