-- ==== Sys2Proof/Machine/Waits.lean ====
section
/-! DEFINITION. Waits, barriers and the expiry of bounded waits (spec/09_core_memory.md R179, R202–R207; spec/06 R123;
spec/03 R58). How long a bound is in steps is not fixed: an expiry is a step of its own. -/

namespace Sys2Proof.Machine

/-- LIM sets a bound (R58). -/
def limBounds (l : BitVec 7) : Bool := l != 0x7F#7

/-! ## waitc (R202) -/

/-- A count is within a limit: counts above 62 are held as 62, and 63 means do not care. -/
def within (n : Nat) (lim : BitVec 6) : Bool := lim == 63#6 || decide (min n 62 ≤ lim.toNat)

/-- A limit covers its class of accesses or commands. -/
def covers (lim : BitVec 6) : Bool := lim != 63#6

/-- The wait of `waitc`: deferred causes that it covers are raised first, the oldest first (R184, R215, R216). -/
def waitCounts (l s c t : BitVec 6) : CM Unit := do
  raiseOldest (fun a => (covers l && a.isLoad) || (covers s && a.isStore))
    (fun e => (covers c && e.ctx == .ch) || (covers t && e.ctx == .mx))
  let st ← get
  let k := st.me
  let ch := match k.act with | some a => a.chLive | none => 0
  let mx := match k.act with | some a => a.mxLive | none => 0
  if within k.loadsOut l && within k.storesOut s && within ch c && within mx t then pure ()
  else pause (plainWait .drain)

/-- Waits as `waitc _, #0, _, _`. -/
def drainStores : CM Unit := waitCounts 63 0 63 63

/-- Raises any deferred cause, oldest first, as `qpub`, `qrel`, `bar`, `barg` and `done` do (R184). -/
def anyDeferred : CM Unit := raiseDeferred fun _ => true

def execWaitc (l c2 c t : BitVec 6) (s : State) : Out :=
  run .none (do
    waitCounts l c2 c t
    if l = 0 ∧ c2 = 0 ∧ c = 0 ∧ t = 0 then modMe fun k => { k with ibuf := [] }) s

/-! ## waitg and waitm (R203, R204) -/

/-- A watch of a scratchpad word. -/
def watch (a b : Src) (d : Dst) (l : BitVec 7) (op : Word → ParkOp) (s : State) : Out :=
  let us := [Use.one a, .one b]
  run (.one d) (do
    let vs ← peek us (.one d) (pure ())
    let va := vs.getD 0 0
    let x ← checked va 8 .r
    let key := match x.place with
      | .spad k => k
      | _ => 0
    let v ← tagged va x (op (vs.getD 1 0)) ⟨.watch, limBounds l, va, 0, .no, false, key, .one d, []⟩
    popPorts us
    wr d v) s

def execWaitg (a b : Src) (d : Dst) (l : BitVec 7) (s : State) : Out :=
  watch a b d l (fun v => .gen (v.extractLsb' 0 8)) s

def execWaitm (a b : Src) (d : Dst) (l : BitVec 7) (s : State) : Out := watch a b d l .mask s

/-! ## waitt (R205) -/

/-- A stack with a channel that the configuration enables (R420). -/
def State.stackEnabled (s : State) (n : Nat) : Bool :=
  decide (n < 12) && (List.range 32).any fun c => !s.blob.channels.contains (n * 32 + c)

/-- A context handle is well formed and names an enabled stack (R205). -/
def State.handleOk (s : State) (h : Word) : Bool :=
  let kind := fld h 0 2
  kind != 3 && fld h 5 3 == 0 && fld h 12 52 == 0 &&
    (if kind = 2 then s.stackEnabled (fld h 8 4) else fld h 2 3 == 0 && fld h 8 4 == 0)

/-- The timeline that a handle names, as the running activation sees it (R231, R259, R395). -/
def State.timeline (s : State) (h : Word) : Word :=
  let k := s.me
  match fld h 0 2 with
  | 0 => wordOf k.mx.retired + (match k.act with | some a => a.mxOffset | none => 0)
  | 1 => wordOf k.chan.retired + (match k.act with | some a => a.chOffset | none => 0)
  | _ => wordOf (vget NmCtx.reset (s.stack (fld h 8 4)).ctxs (fld h 2 3)).retired

/-- The engine causes that a wait on a handle for a value delivers (R216, R277, R402). -/
def handleCause (h v : Word) (e : EngineCause) : Bool :=
  match fld h 0 2 with
  | 0 => e.ctx == .mx
  | 1 => e.ctx == .ch
  | _ => e.ctx == .nm (fld h 8 4) (fld h 2 3) && decide (e.value ≤ v.toNat)

def execWaitt (a b : Src) (d : Dst) (l : BitVec 7) (s : State) : Out :=
  let us := [Use.one a, .one b]
  run (.one d) (do
    let vs ← peek us (.one d) (pure ())
    let h := vs.getD 0 0
    let s ← get
    require (s.handleOk h) .badOperand 0 0
    raiseEngine (handleCause h (vs.getD 1 0))
    let t := s.timeline h
    if (vs.getD 1 0).toNat ≤ t.toNat then
      popPorts us
      wr d t
    else
      needBudget
      pause ⟨.timeline, limBounds l, 0, h, .no, false, 0, .one d, []⟩) s

/-! ## Barriers (R206) -/

/-- The launch, group, team and rank of a gang member. -/
def Core.member? (k : Core) : Option (Nat × Nat × Nat × Nat) :=
  match k.act with
  | some a => match a.source with
    | .member l g t r => some (l, g, t, r)
    | _ => none
  | none => none

/-- The barrier of a team or a group, its members, and those that have not ended. -/
def Launch.barrier (l : Launch) (g t : Nat) (grp : Bool) : Option (Barrier × List Nat × List Nat) :=
  match l.group? g with
  | none => none
  | some gr =>
    if grp then some (gr.bar, (gr.teams.map fun x => x.cores).flatten, (gr.teams.map fun x => x.live).flatten)
    else (gr.teams[t]?).map fun x => (x.bar, x.cores, x.live)

def Launch.setBarrier (l : Launch) (g t : Nat) (grp : Bool) (b : Barrier) : Launch :=
  if grp then l.updGroup g fun gr => { gr with bar := b } else l.updTeam g t fun tm => { tm with bar := b }

/-- A core's record in a list of arrivals or breakages is removed. -/
def without (core : Nat) (xs : List (Nat × Word)) : List (Nat × Word) := xs.filter fun p => p.1 != core

/-- An arrival at a barrier: once every member has arrived, all leave, or all break where the tags differ; a member that
has ended breaks it. -/
def Barrier.arrive (b : Barrier) (core : Nat) (tag : Word) (cores live : List Nat) : Barrier :=
  if live.length ≠ cores.length then { b with broken := b.broken ++ [(core, 2)] }
  else
    let arr := b.arrived ++ [(core, tag)]
    if arr.length < cores.length then { b with arrived := arr }
    else if arr.all fun p => p.2 == tag then { b with arrived := [], leaving := b.leaving ++ cores }
    else { b with arrived := [], broken := b.broken ++ arr.map fun p => (p.1, 1) }

/-- Where the checkpoint of a member of a team in checkpoint mode goes: the area of the team's descriptor plus 512 × the
member's index (R222); none for any other activation. -/
def State.ckptArea (s : State) (core rank : Nat) : Option Nat :=
  let c := (s.core core).ctx
  let d := s.descKey core c.lteam
  if c.lteam ≠ 0 ∧ bit (s.word d) 11 then some ((s.word (d + 24)).toNat + 512 * rank) else none

/-- The words of the running member's checkpoint: address and value (R222). -/
def State.ckptWords (s : State) (rank : Nat) (resume : Word) : List (Nat × Word) :=
  match s.ckptArea s.cur rank with
  | some area => (s.ctx.trapWords s.ctx.trap resume).map fun p => (area + p.1, p.2)
  | none => []

/-- Before a member's checkpoint: its registers and trellis hold their values, and none is absent (R222). -/
def needValues (rank : Nat) : CM Unit := do
  let s ← get
  if (s.ckptArea s.cur rank).isSome then
    if s.awaits then pause (plainWait .drain)
    fillRegs (List.range 16)

/-- A member of a team in checkpoint mode writes its checkpoint: 512 bytes laid out as a trap frame (R222). Its writes wait
for the store-budget meter (R273). -/
def checkpoint (rank : Nat) (resume : Word) : CM Unit := do
  let s ← get
  let ws := s.ckptWords rank resume
  budgetWait (ws.map fun p => (0, s.place (dieOf s.cur) p.1, 8))
  if !ws.isEmpty then modify fun s =>
    (ws.foldl (fun s p => s.plainStore (s.place (dieOf s.cur) p.1) p.2) s).updCtx fun c => { c with ckptKept := c.keeps }

/-- The barrier that a core has come to: its departure, its breakage, its arrival or its wait (R206). -/
def barrierStep (l g t rank : Nat) (grp : Bool) (tag : Word) (w : Wait) : CM Unit := do
  let s ← get
  match s.launch? l with
  | none => raise .barrierMismatch 0 0
  | some x =>
    match x.barrier g t grp with
    | none => raise .barrierMismatch 0 0
    | some (b, cores, live) =>
      let b := if (b.arrived.any fun p => p.1 == s.cur) || b.leaving.contains s.cur || (b.broken.any fun p => p.1 == s.cur)
        then b else b.arrive s.cur tag cores live
      match b.broken.find? fun p => p.1 == s.cur with
      | some p =>
        fun _ => .error (.leave ((s.setLaunch l (x.setBarrier g t grp { b with broken := without s.cur b.broken })).take
          (causeOf .barrierMismatch 0 p.2)).1)
      | none =>
        if b.leaving.contains s.cur then
          if !grp then checkpoint rank (s.ctx.pc + 4)
          modify fun s => s.setLaunch l (x.setBarrier g t grp { b with leaving := b.leaving.filter fun c => c != s.cur })
        else
          fun _ => .error (.leave ((s.setLaunch l (x.setBarrier g t grp b)).updMe fun k => { k with wait := some w }))

/-- `bar` and `barg` (R206). -/
def barrier (grp : Bool) (a : Src) (l : BitVec 7) (s : State) : Out :=
  run .none (do
    let vs ← peek [.one a] .none (pure ())
    anyDeferred
    drainStores
    let c ← ctx
    require ((if grp then c.lgroup else c.lteam) != 0) .barrierMismatch 0 0
    needBudget
    let s ← get
    match s.me.member? with
    | none => raise .barrierMismatch 0 0
    | some (la, g, t, rank) =>
      if !grp then needValues rank
      barrierStep la g t rank grp (vs.getD 0 0) ⟨.barrier grp, limBounds l, 0, 0, .no, true, 0, .none, []⟩
      popPorts [.one a]) s

def execBar (a : Src) (l : BitVec 7) (s : State) : Out := barrier false a l s
def execBarg (a : Src) (l : BitVec 7) (s : State) : Out := barrier true a l s

/-! ## Expiry (R123, R179, R203–R206, R209) -/

/-- A bounded wait of the running code expires: its cause is raised, unless its access has already been answered. -/
def expire (p : Wait → Bool) (body : Wait → CM Unit) (s : State) : Out :=
  match s.me.wait with
  | some w => if w.bounded && w.served == .no && p w then .next (runBody w.dests (body w) s) else .next s
  | none => .next s

def execPortTimeout (s : State) : Out :=
  expire (fun w => match w.what with | .port _ _ => true | _ => false) (fun w => raise .portTimeout 0 w.info) s

def execTagTimeout (s : State) : Out :=
  expire (fun w => w.what == .tagged || w.what == .produce) (fun w => raise .tagTimeout w.addr 0) s

/-- A member's arrival is withdrawn; none where its round has completed (R206). -/
def State.leaveBarrier (s : State) (core : Nat) (grp : Bool) : Option State :=
  match (s.core core).member? with
  | some (l, g, t, _) =>
    match s.launch? l with
    | some x => match x.barrier g t grp with
      | some (b, _, _) =>
        if b.arrived.any fun p => p.1 == core then
          some (s.setLaunch l (x.setBarrier g t grp { b with arrived := without core b.arrived }))
        else none
      | none => none
    | none => none
  | none => none

/-- Another member of the level at whose barrier a core waits is suspended: the bound does not run (R207). -/
def State.mateSuspended (s : State) (core : Nat) (grp : Bool) : Bool :=
  match (s.core core).member? with
  | some (l, g, t, _) => s.cores.any fun kc => match kc.2.susp with
    | some a => match a.source with
      | .member l' g' t' _ => l' == l && g' == g && (grp || t' == t)
      | _ => false
    | none => false
  | none => false

def execWaitTimeout (s : State) : Out :=
  match s.me.wait with
  | some w =>
    match w.what with
    | .watch => expire (fun _ => true) (fun w => raise .waitTimeout w.addr (s.word w.slot)) s
    | .timeline => expire (fun _ => true) (fun w => raise .waitTimeout 0 (s.timeline w.info)) s
    | .barrier grp =>
      if s.mateSuspended s.cur grp then .next s else
      match s.leaveBarrier s.cur grp with
      | some s' => expire (fun _ => true) (fun _ => raise .waitTimeout 0 0) s'
      | none => .next s
    | _ => .next s
  | none => .next s

end Sys2Proof.Machine
end

