-- ==== Sys2Proof/Machine/Queues.lean ====
section
/-! DEFINITION. The queue instructions (spec/09_core_memory.md R208–R210; portal queues, spec/21 R374). -/

namespace Sys2Proof.Machine

/-- TINFO of XLATE_PERM for a right. -/
def permOf (r : Right) : Word := permInfo r

/-- A queue descriptor, named by its canonical address: 64-aligned, in scratchpad, not poisoned, and open to the issuer's
partition where it is a portal (R208, R374). The operation waits for earlier accesses to its home (R38). -/
def descriptor (va : Word) (right : Right) (use : PortalUse) (w : WaitFor) : CM (Nat × Xlated) := do
  let x ← checked va 64 right
  let s ← get
  match x.place with
  | .spad q =>
    if s.mustWait x.strong x.pa then stall w
    match (List.range 8).find? fun i => s.tagAt (q + 8 * i) == tagPoison with
    | some i => raise .memPoison (va + wordOf (8 * i)) 0
    | none => pure ()
    require (s.portalAdmits q s.me.pid.toNat use) .xlatePerm va (permInfo right)
    pure (q, x)
  | _ => raise .tagMismatch va (tagInfo (s.tagOf x.place))

/-- QUEUE_CLOSED of a descriptor (R208, R209). -/
def closedAt {α : Type} (q : Nat) (va : Word) : CM α := fun s => raise .queueClosed va (s.qInfo q) s

/-- A wait on a queue (R209). -/
def queueWait (l : BitVec 7) (va : Word) (q : Nat) (d : Dst) : Wait :=
  ⟨.queue, limBounds l, va, 0, .no, false, q, .one d, []⟩

/-- Reserves the slot at TAIL, or waits for room: the slot's address (R209). -/
def reserve (va : Word) (l : BitVec 7) (d : Dst) : CM Word := do
  let (q, _) ← descriptor va .w .produce .queue
  let s ← get
  if s.qMalformed q || s.qClosed q then closedAt q va
  needBudget
  if s.qFull q then pause (queueWait l va q d)
  let slot := s.qSlotVa q (s.qTail q)
  set (s.qSet q 3 (s.qWord q 3 + 1))
  pure slot

def execQres (a : Src) (d : Dst) (l : BitVec 7) (s : State) : Out :=
  run (.one d) (do
    let vs ← peek [.one a] (.one d) (pure ())
    let slot ← reserve (vs.getD 0 0) l d
    popPorts [.one a]
    wr d slot) s

/-- The produce store of ST to a slot, as a signalling write, once the stores before it are acknowledged (R209). -/
def publish (slot : Word) (w : Wait) : CM Unit := do
  anyDeferred
  let s ← get
  if s.me.storesOut ≠ 0 then stall .produce
  let x ← checked slot 8 .w
  let c ← ctx
  let _ ← tagged slot x (.produce 8 c.st) w

def execQpub (a : Src) (s : State) : Out :=
  run .none (do
    let vs ← peek [.one a] .none (pure ())
    let s ← get
    publish (vs.getD 0 0) (s.me.tagWait .produce (vs.getD 0 0) .none)
    popPorts [.one a]) s

/-- `qpush` (R209): the reservation and the store of word 1 are made once; the produce store may wait after them. The
stores before it are acknowledged, and deferred causes raised, before it reserves: a cause of its `qpub` part then comes
from its own store of word 1 alone (DEDUCED, log 72). -/
def execQpush (a b : Src) (d : Dst) (l : BitVec 7) (s : State) : Out :=
  let us := [Use.one a, .one b]
  run (.one d) (do
    let vs ← peek us (.one d) (pure ())
    match ← waitOf .produce with
    | some w =>
      let s ← get
      publish (wordOf w.slot) { s.me.tagWait .produce (wordOf w.slot) (.one d) with slot := w.slot }
      popPorts us
      wr d (wordOf w.slot)
    | none =>
      let va := vs.getD 0 0
      anyDeferred
      let s ← get
      if s.me.storesOut ≠ 0 then stall .queue
      let (q, _) ← descriptor va .w .produce .queue
      let s ← get
      let slot := s.qSlotVa q (s.qTail q)
      let x ← if 2 ≤ s.qSize q ∧ !s.qMalformed q ∧ !s.qFull q ∧ !s.qClosed q then do
          let x ← checked (slot + 8) 8 .w
          needRoom [x.place]
          budgetWait [(slot + 8, x.place, 8)]
          pure (some x)
        else pure none
      let slot ← reserve va l d
      match x with
      | some x =>
        let _ ← issue (.store 8 (vs.getD 1 0) false) (slot + 8) x false true false false
      | none => pure ()
      let s ← get
      leaveWith (s.updMe fun k =>
        { k with wait := some { k.tagWait .produce slot (.one d) with bounded := false, slot := slot.toNat } })) s

def execQpop (a : Src) (d : Dst) (l : BitVec 7) (s : State) : Out :=
  run (.one d) (do
    let vs ← peek [.one a] (.one d) (pure ())
    let va := vs.getD 0 0
    let (q, _) ← descriptor va .r .consume .queue
    let s ← get
    if s.qMalformed q || (s.qClosed q && s.qWord q 2 == s.qWord q 6) then closedAt q va
    needBudget
    let slot := s.qSlotVa q (s.qHead q)
    let x ← checked slot 8 .r
    if s.mustWait x.strong x.pa then stall .queue
    match x.place with
    | .spad k =>
      let t := s.tagAt k
      if t = tagEmpty then pause (queueWait l va q d)
      require (t != tagPoison) .memPoison slot 0
      require (t != tagArrival) .tagMismatch slot (tagInfo t)
      popPorts [.one a]
      if s.qStamp q then modCtx fun c => { c with st := s.word k }
      wr d slot
    | p => raise .tagMismatch slot (tagInfo (s.tagOf p))) s

/-- `qrel` (R208, R209): a malformed descriptor defers QUEUE_CLOSED and changes nothing. -/
def execQrel (a : Src) (s : State) : Out :=
  run .none (do
    let vs ← peek [.one a] .none (pure ())
    anyDeferred
    waitCounts 0 63 63 63
    let va := vs.getD 0 0
    let (q, x) ← descriptor va .w .consume .drain
    let s ← get
    needRoom [x.place]
    if s.qMalformed q then
      popPorts [.one a]
      let id ← issue (.release x.part) va x false true false false
      modify fun s => s.setAccess s.cur id (.failed .queueClosed va (s.qInfo q))
    else
      let slot := s.qSlotVa q (s.qHead q)
      let y ← checked slot 8 .w
      needRoom [y.place]
      popPorts [.one a]
      let _ ← issue (.release x.part) slot { y with gen := min x.gen y.gen } false true false false) s

def execQinfo (a : Src) (d : Dst) (s : State) : Out :=
  run (.one d) (do
    let vs ← peek [.one a] (.one d) (pure ())
    let (q, _) ← descriptor (vs.getD 0 0) .r .info .drain
    let s ← get
    popPorts [.one a]
    wr d (s.qInfo q)) s

def execQclose (a : Src) (s : State) : Out :=
  run .none (do
    let vs ← peek [.one a] .none (pure ())
    let va := vs.getD 0 0
    let (q, _) ← descriptor va .w .consume .drain
    let s ← get
    if s.qMalformed q then closedAt q va
    popPorts [.one a]
    if !s.qClosed q then
      modify fun s => (s.qSet q 6 (s.qWord q 3)).qSet q 4 (s.qWord q 4 ||| 4)) s

/-- QUEUE_TIMEOUT (R209): the descriptor's HEAD and TAIL as they stand. -/
def execQueueTimeout (s : State) : Out :=
  expire (fun w => w.what == .queue || (w.what == .stagePut && s.putHeld s.cur s.me.outerCtx.priv)) (fun w => do
    let s ← get
    raise .queueTimeout w.addr (s.qInfo w.slot)) s

end Sys2Proof.Machine
end

