-- ==== Sys2Proof/Machine/Matrix.lean ====
section
/-! DEFINITION. The tile instructions and the command image (spec/12_matrix.md R228–R240, R242–R246). -/

namespace Sys2Proof.Machine

/-! ## The image (R234) -/

def imOpc (w : Word) : Nat := fld w 0 4
def imAcc (w : Word) : Nat := fld w 4 2
def imInit (w : Word) : Bool := bit w 6
def imTrb (w : Word) : Bool := bit w 7
def imFa (w : Word) : Nat := fld w 8 3
def imFb (w : Word) : Nat := fld w 11 3
def imSfa (w : Word) : BitVec 2 := w.extractLsb' 14 2
def imSfb (w : Word) : BitVec 2 := w.extractLsb' 16 2
/-- Scale blocks per scale (R239). -/
def imRep (w : Word) : Nat := 2 ^ fld w 18 2
def imOfmt (w : Word) : Nat := fld w 20 3
def imOrnd (w : Word) : BitVec 2 := w.extractLsb' 23 2
def imOsat (w : Word) : Bool := bit w 25
def imM (w : Word) : Nat := fld w 27 5
def imN (w : Word) : Nat := fld w 32 5
def imK (w : Word) : Nat := fld w 37 7
def imStra (w : Word) : Nat := fld w 44 8
def imStrb (w : Word) : Nat := fld w 52 8

/-- M, N, K and REP hold values that are not reserved (R233). -/
def imDims (w : Word) : Bool :=
  decide (1 ≤ imM w) && decide (imM w ≤ 16) && decide (1 ≤ imN w) && decide (imN w ≤ 16) && decide (1 ≤ imK w)
    && decide (imK w ≤ 64) && fld w 18 2 != 3

/-- Reserved bits and values of word 0, without those of OPC and INIT (R234). -/
def imWord0Bad (w : Word) : Bool := bit w 26 || fld w 60 4 != 0 || !imDims w

/-- A malformed image (R235): MX_CMD. -/
def imBad (w0 w1 w2 : Word) : Bool :=
  decide (8 ≤ imOpc w0) || imWord0Bad w0 || (imInit w0 && imOpc w0 != 0) ||
    (match imOpc w0 with
      | 0 => fld w1 46 18 != 0 || fld w2 46 18 != 0
      | 2 => false
      | 3 => false
      | 1 => w1 != 0 || w2 != 0
      | _ => w2 != 0)

/-- The class of a kind, by its native K (R236); none outside the table. -/
def nativeK (k : Nat) : Option Nat :=
  match k with
  | 7 => some 64
  | 5 => some 32
  | 6 => some 32
  | 3 => some 16
  | 4 => some 16
  | 2 => some 8
  | _ => none

/-- An output kind that `st` and `ld` accept (R242). -/
def outKind (k : Nat) : Bool := decide (2 ≤ k) && decide (k ≤ 6)

/-- Bytes of an element that a command writes or loads: `f32` for red (R242, R243). -/
def elemBytes (w : Word) : Nat := if imOpc w = 3 then 4 else (fmtAt (imOfmt w)).width / 8

/-- The memory row stride (R242). -/
def rowStride (w : Word) : Nat := if imStra w = 0 then 16 * elemBytes w else imStra w * 8

/-- A failure of a command: cause, TINFO, TADDR. -/
structure MxErr where
  cause : Cause
  info  : Word
  addr  : Word
  deriving DecidableEq, Repr

/-- MX_FORMAT and MX_DIM (R236, R238, R242, R254). -/
def mxFormat (w : Word) : Option MxErr :=
  let bad : Option MxErr := some ⟨.mxFormat, wordOf (imFa w + imFb w * 8 + imOfmt w * 64), 0⟩
  match imOpc w with
  | 0 =>
    match nativeK (imFa w), nativeK (imFb w) with
    | some ka, some kb =>
      if ka ≠ kb ∨ (imTrb w ∧ ka ≠ 16) ∨ (ka ≤ 16 ∧ (imSfa w ≠ 3 ∨ imSfb w ≠ 3)) then bad
      else if ka < imK w then some ⟨.mxDim, wordOf (imK w), 0⟩ else none
    | _, _ => bad
  | 2 => if outKind (imOfmt w) then none else bad
  | 6 => if outKind (imOfmt w) then none else bad
  | _ => none

/-! ## Local operands (R237–R240) -/

/-- The canonical address of a local alias of a core, aligned and populated (R240). -/
def State.localKey (s : State) (core : Nat) (va : Word) (align : Nat) : Option Nat :=
  if va.toNat % align ≠ 0 ∨ !isAliasRegion va.toNat then none
  else match aliasTarget core va.toNat with
    | some pa => match s.place (dieOf core) pa with
      | .spad k => some k
      | _ => none
    | none => none

/-- A read of a command: address, bytes, alignment, TINFO. -/
structure MxRead where
  va    : Word
  bytes : Nat
  align : Nat
  info  : Nat
  deriving DecidableEq, Repr

/-- The virtual address of an alias offset (R25). -/
def offsetVa (off : Nat) : Word := wordOf (aliasBase + off)

/-- Words of a line that hold n lanes of width w (R237). -/
def lineWords (w n : Nat) : Nat := (n * w + 63) / 64

/-- The reads of lines from an offset. -/
def lineReads (off stride lines words info : Nat) : List MxRead :=
  ((List.range lines).map fun i => (List.range words).map fun q =>
    (⟨offsetVa (off + i * stride + 8 * q), 8, 8, info⟩ : MxRead)).flatten

/-- Blocks of a row, and scale bytes that they use (R239). -/
def imBlocks (w : Word) : Nat := (imK w + 7) / 8
def scaleBytes (w : Word) : Nat := (imBlocks w + imRep w - 1) / imRep w

def scaleReads (sf : BitVec 2) (off rows n info : Nat) : List MxRead :=
  if sf = 3 then []
  else ((List.range rows).map fun i => (List.range n).map fun b => (⟨offsetVa (off + 8 * i + b), 1, 1, info⟩ : MxRead)).flatten

def strideOf (n : Nat) : Nat := if n = 0 then 32 else n * 8

/-- Lines of B, and lanes that each holds (R238). -/
def bLines (w : Word) : Nat := if imTrb w then imK w else imN w
def bLanes (w : Word) : Nat := if imTrb w then imN w else imK w

def aWords (w : Word) : Nat := lineWords (fmtAt (imFa w)).width (imK w)
def bWords (w : Word) : Nat := lineWords (fmtAt (imFb w)).width (bLanes w)

/-- Every read that a command makes (R237–R239, R243). -/
def mxReads (w0 w1 w2 : Word) : List MxRead :=
  match imOpc w0 with
  | 0 =>
    lineReads (fld w1 0 23) (strideOf (imStra w0)) (imM w0) (aWords w0) 0 ++
    lineReads (fld w1 23 23) (strideOf (imStrb w0)) (bLines w0) (bWords w0) 1 ++
    scaleReads (imSfa w0) (fld w2 0 23) (imM w0) (scaleBytes w0) 2 ++
    scaleReads (imSfb w0) (fld w2 23 23) (imN w0) (scaleBytes w0) 3
  | 5 => (List.range 512).map fun i => ⟨w1 + wordOf (8 * i), 8, if i % 2 = 0 then 16 else 8, 4⟩
  | 7 => (List.range 512).map fun i => ⟨w1 + wordOf (8 * i), 8, if i % 2 = 0 then 16 else 8, 4⟩
  | 6 => ((List.range (imM w0)).map fun i => (List.range (imN w0)).map fun j =>
      (⟨w1 + wordOf (i * rowStride w0 + j * elemBytes w0), elemBytes w0, elemBytes w0, 4⟩ : MxRead)).flatten
  | _ => []

/-- MX_ADDR (R240, R242). -/
def State.mxAddr (s : State) (core : Nat) (w0 w1 w2 : Word) : Option MxErr :=
  let e := elemBytes w0
  if (imOpc w0 = 2 ∨ imOpc w0 = 3 ∨ imOpc w0 = 6) ∧ (w1.toNat % e ≠ 0 ∨ rowStride w0 % e ≠ 0) then some ⟨.mxAddr, 4, w1⟩
  else if imOpc w0 = 4 ∧ w1.toNat % 16 ≠ 0 then some ⟨.mxAddr, 4, w1⟩
  else if imOpc w0 = 6 ∧ w1.toNat % 8 ≠ 0 then some ⟨.mxAddr, 4, w1⟩
  else
    match (mxReads w0 w1 w2).find? fun r => (s.localKey core r.va r.align).isNone with
    | some r => some ⟨.mxAddr, wordOf r.info, r.va⟩
    | none => none

/-- The checks of R236–R242, in their order (R244). -/
def State.mxCheck (s : State) (core : Nat) (w0 w1 w2 : Word) : Option MxErr :=
  match mxFormat w0 with
  | some e => some e
  | none => s.mxAddr core w0 w1 w2

/-! ## Issue (R229, R231, R244) -/

/-- A command that the unit has taken from its inbox. -/
def MxCmd.taken (m : MxCmd) : Bool := m.done || m.pos != 0

/-- QUEUED of MSTAT: commands in the inbox (R233). -/
def Mx.queued (x : Mx) : Nat := (x.inbox.filter fun m => !m.taken).length

/-- MSTAT as it reads (R233). -/
def Core.mstat (k : Core) : Word :=
  wordOf (min k.mx.queued 8) ||| bit1 (k.mx.inbox.any MxCmd.taken) 4 ||| bit1 k.ctx.mx.follow 5
    ||| (k.ctx.mx.flags.zeroExtend 64 <<< 16)

/-- Word 0 of an image sampled from the registers (R244). -/
def MxRegs.word0 (r : MxRegs) (opc : Nat) (acc : BitVec 2) (init : Bool) : Word :=
  wordOf opc ||| (acc.zeroExtend 64 <<< 4) ||| bit1 init 6 ||| bit1 (bit r.tdim 17) 7 |||
    wordOf (fld r.fmta 0 3 * 2 ^ 8 + fld r.fmtb 0 3 * 2 ^ 11 + fld r.scf 0 6 * 2 ^ 14 + fld r.tof 0 6 * 2 ^ 20
      + fld r.tdim 0 17 * 2 ^ 27 + fld r.tdim 18 16 * 2 ^ 44)

/-- A command placed in the inbox of the running core's unit; the value that its D receives (R231). -/
def State.enterMx (s : State) (w0 w1 w2 w3 : Word) : Word × State :=
  let k := s.me
  let v := k.mx.issued + 1
  let m : MxCmd := ⟨w0, w1, w2, w3, k.ctx.st, none, k.ctx.pc, k.ctx.priv, v, true, k.nextId, 0, false⟩
  let seen := wordOf v + (match k.act with | some a => a.mxOffset | none => 0)
  (seen, s.updMe fun k =>
    { k with
      mx := { k.mx with inbox := k.mx.inbox ++ [m], issued := v }
      act := k.act.map fun a => { a with mxLive := a.mxLive + 1, mxLast := seen } })

/-- The inbox has room, or the core stalls (R229). -/
def needInbox (w : WaitFor) : CM Unit := do
  let s ← get
  if 8 ≤ s.me.mx.queued then stall w

/-- A tile instruction that builds its image from the registers (R244). `pre` is a refusal that comes before MX_ADDR. -/
def tile (us : List Use) (d : Dst) (img : MxRegs → List Word → Word × Word × Word × Word)
    (pre : List Word → Option MxErr) (s : State) : Out :=
  run (.one d) (do
    let vs ← peek us (.one d) (pure ())
    let c ← ctx
    let (w0, w1, w2, w3) := img c.mx vs
    let s ← get
    match (match mxFormat w0 with
      | some e => some e
      | none => match pre vs with
        | some e => some e
        | none => s.mxAddr s.cur w0 w1 w2) with
    | some e => raise e.cause e.addr e.info
    | none => pure ()
    needInbox .drain
    popPorts us
    let s ← get
    let (v, s) := s.enterMx w0 w1 w2 w3
    set s
    wr d v) s

/-- The alias offset of an address, where it is a local alias (R240, R244). -/
def offsetOf (va : Word) : Option Nat :=
  if aliasBase ≤ va.toNat ∧ va.toNat - aliasBase < 2 ^ 23 then some (va.toNat - aliasBase) else none

def execTmm (a b : Src) (d : Dst) (i : Bool) (c : BitVec 2) (s : State) : Out :=
  tile [.one a, .one b] d (fun r vs =>
    (r.word0 0 c i, wordOf ((offsetOf (vs.getD 0 0)).getD 0 + (offsetOf (vs.getD 1 0)).getD 0 * 2 ^ 23),
      wordOf (fld r.scpa 0 23 + fld r.scpb 0 23 * 2 ^ 23), 0))
    (fun vs =>
      if (offsetOf (vs.getD 0 0)).isNone then some ⟨.mxAddr, 0, vs.getD 0 0⟩
      else if (offsetOf (vs.getD 1 0)).isNone then some ⟨.mxAddr, 1, vs.getD 1 0⟩ else none) s

def execTzero (b : Src) (d : Dst) (c : BitVec 2) (s : State) : Out :=
  tile [.one b] d (fun r vs => (r.word0 1 c false, 0, 0, vs.getD 0 0)) (fun _ => none) s

/-- A tile instruction with an address and an arrival word. -/
def tileAt (opc : Nat) (a b : Src) (d : Dst) (c : BitVec 2) (s : State) : Out :=
  tile [.one a, .one b] d (fun r vs => (r.word0 opc c false, vs.getD 0 0, 0, vs.getD 1 0)) (fun _ => none) s

/-- A tile instruction that rounds with the tensor scales. -/
def tileOut (opc : Nat) (a b : Src) (d : Dst) (c : BitVec 2) (s : State) : Out :=
  tile [.one a, .one b] d (fun r vs =>
    (r.word0 opc c false, vs.getD 0 0, wordOf (fld r.tsa 0 32 + fld r.tsb 0 32 * 2 ^ 32), vs.getD 1 0)) (fun _ => none) s

def execTst (a b : Src) (d : Dst) (c : BitVec 2) (s : State) : Out := tileOut 2 a b d c s
def execTred (a b : Src) (d : Dst) (c : BitVec 2) (s : State) : Out := tileOut 3 a b d c s
def execTws (a b : Src) (d : Dst) (c : BitVec 2) (s : State) : Out := tileAt 4 a b d c s
def execTwsl (a b : Src) (d : Dst) (c : BitVec 2) (s : State) : Out := tileAt 5 a b d c s
def execTld (a b : Src) (d : Dst) (c : BitVec 2) (s : State) : Out := tileAt 6 a b d c s
def execTacc (a b : Src) (d : Dst) (c : BitVec 2) (s : State) : Out := tileAt 7 a b d c s

/-- The registers that `tcfg` writes (R245). -/
def MxRegs.configured (r : MxRegs) (a b : Word) : MxRegs :=
  { r with
    fmta := wordOf (imFa a), fmtb := wordOf (imFb a), scf := wordOf (fld a 14 6)
    tdim := wordOf (fld a 27 17 + (if bit a 7 then 2 ^ 17 else 0) + fld a 44 16 * 2 ^ 18)
    tof := wordOf (fld a 20 6), scpa := wordOf (fld b 0 23), scpb := wordOf (fld b 23 23) }

def execTcfg (a b : Src) (s : State) : Out :=
  run .none (do
    let vs ← ops [.one a, .one b] .none
    require (!imWord0Bad (vs.getD 0 0) && fld (vs.getD 1 0) 46 18 == 0) .reservedField 0 0
    modCtx fun c => { c with mx := c.mx.configured (vs.getD 0 0) (vs.getD 1 0) }) s

/-- `tcmd` (R246): four loads of the image, then its entry with ST. -/
def execTcmd (a : Src) (d : Dst) (s : State) : Out :=
  run (.one d) (do
    let vs ← peek [.one a] (.one d) (pure ())
    let va := vs.getD 0 0
    let s ← get
    if (s.localKey s.cur va 32).isNone ∨ (s.localKey s.cur (va + 24) 8).isNone then raise .mxAddr va 5
    let ws ← loadWords (wordsAt va 4 .r)
    needInbox .loads
    popPorts [.one a]
    let s ← get
    let (v, s) := s.enterMx (ws.getD 0 0) (ws.getD 1 0) (ws.getD 2 0) (ws.getD 3 0)
    set s
    wr d v) s

end Sys2Proof.Machine
end

