-- ==== Sys2Proof/Machine/Engines.lean ====
section
/-! DEFINITION. How an engine reads, writes and signals on behalf of a core (spec/02_addresses.md R37, R39; 14 R265, R272,
R273; 23 R382): translation at its own level, the store-budget meter, full write queues, the order of the write lanes,
migrating lines, and the home's answer. -/

namespace Sys2Proof.Machine

/-- What a home or the translation answers an engine: it must wait, it is done, or it fails with a cause. -/
inductive EngAns where
  | wait
  | ok (s : State)
  | fail (c : Cause) (s : State)
  deriving DecidableEq, Repr

/-- A write at a place: refused by the meter or a full write queue for now, or performed (R39, R273). -/
def State.writeAt (s : State) (core : Nat) (x : Xlated) (n : Nat) (v : Word) : EngAns :=
  let cl := clusterOf core
  if metered x.place && !(s.cluster cl).passes (writeCost n) then .wait
  else if s.wqFull x.place then .wait
  else match s.settleLine (dieOf core) x.mig x.place with
    | .error (c, _) => .fail c s
    | .ok s =>
      match s.homeStore core x.place n v false with
      | .ok s => .ok (s.spend cl x.place n)
      | .error (c, _) => .fail c s

/-- A write of an engine that uses no request ring goes behind what its cluster has injected (R382). -/
def State.inLane (s : State) (core : Nat) (x : Xlated) (go : EngAns) : EngAns :=
  if s.laneBusy (clusterOf core) none x.place then .wait else go

/-- A plain store of `n` bytes by an engine, at a level of a core. -/
def State.engineStore (s : State) (core : Nat) (sup : Bool) (va : Word) (n : Nat) (v : Word) : EngAns :=
  match s.translateNow core sup va .w with
  | (.ok x, s) => s.inLane core x (s.writeAt core x n v)
  | (.fault c _, s) => .fail c s
  | (.miss, _) => .wait

/-- A non-returning atomic of `n` bytes at a place (R243). -/
def State.atomicAt (s : State) (core : Nat) (x : Xlated) (op : BitVec 4) (n : Nat) (v stamp : Word) : EngAns :=
  let cl := clusterOf core
  if metered x.place && !(s.cluster cl).passes (writeCost n) then .wait
  else if s.wqFull x.place then .wait
  else match s.settleLine (dieOf core) x.mig x.place with
    | .error (c, _) => .fail c s
    | .ok s =>
      match s.homeAtomic core x.place op n v false stamp with
      | .ok (_, f, s) => .ok ((s.homeFlags x.place f).spend cl x.place n)
      | .error (c, _) => .fail c (s.afterRead x.place n)

def State.engineAtomic (s : State) (core : Nat) (sup : Bool) (va : Word) (op : BitVec 4) (n : Nat) (v stamp : Word) :
    EngAns :=
  match s.translateNow core sup va .w with
  | (.ok x, s) => s.inLane core x (s.atomicAt core x op n v stamp)
  | (.fault c _, s) => .fail c s
  | (.miss, _) => .wait

/-- An arrival at a place, with its amounts in bytes mode and in the others (R197). -/
def State.arriveAt (s : State) (core : Nat) (x : Xlated) (bytes other : Nat) (stamp : Word) : EngAns :=
  match s.settleLine (dieOf core) x.mig x.place with
  | .error (c, _) => .fail c s
  | .ok s =>
    match s.arrive x.place bytes other stamp with
    | .ok s => .ok s
    | .error (c, _) => .fail c s

/-- An arrival by an engine. An address that is not a multiple of 8 fails as ALIGN. -/
def State.engineArrive (s : State) (core : Nat) (sup : Bool) (va : Word) (bytes other : Nat) (stamp : Word) : EngAns :=
  if va.toNat % 8 ≠ 0 then .fail .align s else
  match s.translateNow core sup va .w with
  | (.ok x, s) => s.arriveAt core x bytes other stamp
  | (.fault c _, s) => .fail c s
  | (.miss, _) => .wait

/-- A read of `n` bytes at a place: the value, or the cause, with the state that the read leaves. -/
def State.readAt (s : State) (core : Nat) (x : Xlated) (n : Nat) : Except Cause Word × State :=
  match s.settleLine (dieOf core) x.mig x.place with
  | .error (c, _) => (.error c, s)
  | .ok s =>
    match s.homeRead x.place n with
    | .ok (v, s) => (.ok v, s)
    | .error (c, _) => (.error c, s.afterRead x.place n)

/-- A read of `n` bytes by an engine: the value, or the cause, with the state that the read leaves. -/
def State.engineRead (s : State) (core : Nat) (sup : Bool) (va : Word) (n : Nat) : Except Cause Word × State :=
  match s.translateNow core sup va .r with
  | (.ok x, s) => s.readAt core x n
  | (.fault c _, s) => (.error c, s)
  | (.miss, s) => (.error .xlateMiss, s)

/-- Words read by an engine in order, until one fails: the cause and the address. -/
def State.engineWords (core : Nat) (sup : Bool) (va : Word) : Nat → State → Except (Cause × Word) (List Word) × State
  | 0, s => (.ok [], s)
  | n + 1, s =>
    match s.engineRead core sup va 8 with
    | (.error c, s) => (.error (c, va), s)
    | (.ok w, s) =>
      match State.engineWords core sup (va + 8) n s with
      | (.ok ws, s) => (.ok (w :: ws), s)
      | (.error e, s) => (.error e, s)

/-- The deferred cause of an engine (R216): TDPC holds the issuing instruction. -/
def engineRec (c : Cause) (addr info pc : Word) : CauseRec := ⟨c, addr, info, pc, true, true, none⟩

end Sys2Proof.Machine
end

