-- ==== Sys2Proof/Machine/MatrixUnit.lean ====
section
/-! DEFINITION. The matrix unit at work (spec/12_matrix.md R228–R231, R235–R243, R249–R255). Each event row runs the oldest
unfinished command of the current core's inbox; one that writes makes one write in each step. -/

namespace Sys2Proof.Machine

/-! ## Delivery of a command's cause and flags (R233, R255) -/

/-- Flags that go to MSTAT of the activation that the core runs (R233). -/
def State.mxFlags (s : State) (core : Nat) (f : Flags) : State :=
  s.updCore core fun k => k.updCtxOf false fun c => { c with mx := { c.mx with flags := c.mx.flags ||| astatFlags f } }

/-- A copy command's cause, delivered to the activation that issued it, or passed on where it has ended (R277). -/
def State.chCause (s : State) (core value : Nat) (r : CauseRec) : State :=
  match (s.core core).chan.inbox.find? fun m => m.value == value && m.owned with
  | some m => s.updCore core fun k => { k with causes := k.causes ++ [⟨.ch, value, r, m.after⟩] }
  | none => s.ceFault core r.cause r.addr r.info

/-- A command's cause (R255): to the issuing activation; for a follow-on command, to that of the copy; else passed on. -/
def State.mxCause (s : State) (core : Nat) (m : MxCmd) (e : MxErr) : State :=
  let r := engineRec e.cause e.addr e.info m.pc
  match m.from? with
  | some c => s.chCause c m.value r
  | none =>
    if m.owned then s.updCore core fun k => { k with causes := k.causes ++ [⟨.mx, m.value, r, m.after⟩] }
    else s.toKiosk core e.cause e.addr e.info

/-- Changes the oldest unfinished command of a unit. -/
def State.updCmd (s : State) (core : Nat) (f : MxCmd → MxCmd) : State :=
  s.updCore core fun k =>
    match findIdx (fun m => !m.done) k.mx.inbox 0 with
    | some (i, m) => { k with mx := { k.mx with inbox := setNth k.mx.inbox i (f m) } }
    | none => k

/-- The command has failed: it has no arrival, and it retires (R230). -/
def State.mxFail (s : State) (core : Nat) (m : MxCmd) (e : MxErr) : State :=
  (s.mxCause core m e).updCmd core fun m => { m with done := true }

/-- The command's work is done: its arrival, then its end (R242, R243). -/
def State.mxDone (s : State) (core : Nat) (m : MxCmd) (bytes : Nat) : State :=
  if m.w3 = 0 then s.updCmd core fun m => { m with done := true }
  else match s.engineArrive core m.sup m.w3 bytes 1 m.stamp with
    | .ok s => s.updCmd core fun m => { m with done := true }
    | .fail c s => s.mxFail core m ⟨.mxSignal, c.code.zeroExtend 64, m.w3⟩
    | .wait => s

/-! ## Accumulators (R228, R252) -/

def State.acc (s : State) (core a : Nat) : Accum := vget Accum.reset (s.core core).mx.accs a

def State.setAcc (s : State) (core a : Nat) (x : Accum) : State :=
  s.updCore core fun k => { k with mx := { k.mx with accs := vset k.mx.accs a x } }

/-- An element of an accumulator. -/
def Accum.elem (x : Accum) (i j : Nat) : WsPair := SMap.get WsPair.zero x.elems (16 * i + j)

/-- An accumulator with an element replaced. -/
def Accum.put (x : Accum) (i j : Nat) (v : WsPair) : Accum :=
  { x with cond := .held, elems := SMap.set WsPair.zero x.elems (16 * i + j) v }

/-- Element numbers of the first `n` columns of `m` rows. -/
def cells (m n : Nat) : List (Nat × Nat) := ((List.range m).map fun i => (List.range n).map fun j => (i, j)).flatten

/-- Elements of an absent accumulator read from the spill area (R252), with the state that the reads leave, or the address
of one that cannot be read. -/
def State.spilled (core base : Nat) : List (Nat × Nat) → Accum → State → Except Nat Accum × State
  | [], x, s => (.ok x, s)
  | p :: ps, x, s =>
    let a := base + 256 * p.1 + 16 * p.2
    match s.place (dieOf core) a with
    | .hbm k =>
      if s.offline k then (.error a, s)
      else
        let s := s.readLine k 16
        if s.poisoned k then (.error a, s)
        else State.spilled core base ps (x.put p.1 p.2 (WsPair.val ⟨s.word k, s.word (k + 8)⟩).make.1) s
    | _ => (.error a, s)

/-- The accumulator that a command names, filled where it is absent (R252). -/
def State.fillAcc (s : State) (core a : Nat) : Except Nat Unit × State :=
  let x := s.acc core a
  match x.cond with
  | .absent =>
    match State.spilled core x.spill (cells 16 16) Accum.reset s with
    | (.ok y, s) => (.ok (), s.setAcc core a { y with cond := .held })
    | (.error p, s) => (.error p, s)
  | .lost => (.error x.spill, s)
  | _ => (.ok (), s)

/-! ## Local reads (R237–R240) -/

/-- The number that the `n` bytes at a local address hold. -/
def State.localBytes (s : State) (core : Nat) (va : Word) (n : Nat) : Nat :=
  match s.localKey core va 1 with
  | some k => readBytes s.mem k n
  | none => 0

/-- The bits of a line that the unit reads. -/
def State.localLine (s : State) (core off words : Nat) : Nat :=
  (List.range words).foldl (fun n q => n + s.localBytes core (offsetVa (off + 8 * q)) 8 * 2 ^ (64 * q)) 0

/-- Lane k of a line, of width w. -/
def lineLane (line w k : Nat) : Nat := line / 2 ^ (w * k) % 2 ^ w

/-- The first read of a command that meets tag 11 (R240). -/
def State.mxPoisoned (s : State) (core : Nat) (w0 w1 w2 : Word) : Option MxErr :=
  match (mxReads w0 w1 w2).find? fun r =>
      match s.localKey core r.va 1 with
      | some k => s.tagAt k == tagPoison
      | none => false with
  | some r => some ⟨.mxPoison, wordOf r.info, r.va⟩
  | none => none

/-- The WS128 of element (i, j) of a local source, canonical (R243). -/
def State.localPair (s : State) (core : Nat) (va : Word) (i j : Nat) : WsPair :=
  let a := va + wordOf (256 * i + 16 * j)
  (WsPair.val ⟨wordOf (s.localBytes core a 8), wordOf (s.localBytes core (a + 8) 8)⟩).make.1

/-! ## Order (R249, R250) -/

/-- Stores and atomics that the issuing activation made to its scratchpads before the command and that are still to be
performed: the command's reads wait for them. -/
def State.mxBehind (s : State) (core : Nat) (m : MxCmd) : Bool :=
  m.from?.isNone && m.owned && (s.core core).flight.any fun a =>
    decide (a.id < m.after) && a.op.writes && a.parts.any fun p =>
      match s.place (dieOf core) p.pa with
      | .spad k => spadCluster k == clusterOf core
      | _ => false

/-- Commands that read local operands. -/
def readsLocal (opc : Nat) : Bool := opc == 0 || opc == 5 || opc == 6 || opc == 7

/-- Runs the oldest unfinished command of the current core's unit, if its OPC is the one given: the checks of R235 and
R236–R242, poison, the fill of an absent accumulator, then its work. -/
def State.opc (s : State) (n : Nat) (work : MxCmd → State → State) : Out :=
  let core := s.cur
  match findIdx (fun m => !m.done) s.me.mx.inbox 0 with
  | none => .next s
  | some (_, m) =>
    if imOpc m.w0 ≠ n then .next s
    else if m.pos ≠ 0 then .next (work m s)
    else if imBad m.w0 m.w1 m.w2 then .next (s.mxFail core m ⟨.mxCmd, m.w0, 0⟩)
    else match s.mxCheck core m.w0 m.w1 m.w2 with
      | some e => .next (s.mxFail core m e)
      | none =>
        if readsLocal n && s.mxBehind core m then .next s
        else match s.fillAcc core (imAcc m.w0) with
          | (.error p, s) => .next (s.mxFail core m ⟨.restorePoison, 0, wordOf p⟩)
          | (.ok _, s) =>
            match s.mxPoisoned core m.w0 m.w1 m.w2 with
            | some e => .next (s.mxFail core m e)
            | none => .next (work m s)

/-! ## mm (R241) -/

/-- One block's contribution: the block sum and its two scales, and whether it overflows. -/
def mmBlock (w0 : Word) (as bs : List Nat) (sa sb : Nat) (i j b : Nat) : WsPair × Bool :=
  let fa := fmtAt (imFa w0)
  let fb := fmtAt (imFb w0)
  let a := fun k => lineLane (as.getD i 0) fa.width k
  let bb := fun k => if imTrb w0 then lineLane (bs.getD k 0) fb.width j else lineLane (bs.getD j 0) fb.width k
  let ks := ((List.range 8).map fun q => 8 * b + q).filter fun k => decide (k < imK w0)
  let w := blockSum2 fa fb (ks.map fun k => (a k, bb k))
  let p := wsMulOv w (scaleOf (imSfa w0) sa)
  let q := wsMulOv p.1 (scaleOf (imSfb w0) sb)
  (q.1, p.2 || q.2)

/-- The blocks of an element, in rising order (R241, R118 step 4). -/
def mmElem (w0 : Word) (as bs : List Nat) (sca scb : Nat → Nat → Nat) (i j : Nat) : WsPair × Bool :=
  (List.range (imBlocks w0)).foldl (fun acc b =>
    let w := mmBlock w0 as bs (sca i b) (scb j b) i j b
    let r := wsAddOv acc.1 w.1
    (r.1, acc.2 || w.2 || r.2)) (WsPair.zero, false)

/-- The product added into the accumulator (R241). -/
def State.mm (s : State) (core : Nat) (m : MxCmd) : State :=
  let w := m.w0
  let as := (List.range (imM w)).map fun i => s.localLine core (fld m.w1 0 23 + i * strideOf (imStra w)) (aWords w)
  let bs := (List.range (bLines w)).map fun i => s.localLine core (fld m.w1 23 23 + i * strideOf (imStrb w)) (bWords w)
  let sca := fun i b => s.localBytes core (offsetVa (fld m.w2 0 23 + 8 * i + b / imRep w)) 1
  let scb := fun j b => s.localBytes core (offsetVa (fld m.w2 23 23 + 8 * j + b / imRep w)) 1
  let x := if imInit w then Accum.reset else s.acc core (imAcc w)
  let r := (cells (imM w) (imN w)).foldl (fun (r : Accum × Bool) p =>
    let v := mmElem w as bs sca scb p.1 p.2
    let t := wsAddOv (r.1.elem p.1 p.2) v.1
    (r.1.put p.1 p.2 t.1, r.2 || v.2 || t.2)) ({ x with cond := .held }, false)
  let s := s.setAcc core (imAcc w) r.1
  s.mxFlags core (if r.2 then flOF else 0)

def execOpcMm (s : State) : Out := s.opc 0 fun m s => (s.mm s.cur m).mxDone s.cur m 0

def execOpcZero (s : State) : Out :=
  s.opc 1 fun m s => (s.setAcc s.cur (imAcc m.w0) Accum.reset).mxDone s.cur m 0

/-! ## Writes (R242, R243) -/

/-- The positions that a writing command writes, in their order: how many, and the address and the bytes of each (R242,
R243). -/
def MxCmd.count (m : MxCmd) : Nat := if imOpc m.w0 = 4 then 512 else imM m.w0 * imN m.w0
def MxCmd.cellVa (m : MxCmd) (p : Nat) : Word :=
  if imOpc m.w0 = 4 then m.w1 + wordOf (8 * p)
  else m.w1 + wordOf (p / imN m.w0 * rowStride m.w0 + p % imN m.w0 * elemBytes m.w0)
def MxCmd.cellBytes (m : MxCmd) : Nat := if imOpc m.w0 = 4 then 8 else elemBytes m.w0

/-- Bytes that its writes come to (R242, R243). -/
def MxCmd.bytes (m : MxCmd) : Nat := m.count * m.cellBytes

/-- The writes of a command cover a line, of the number given, whole (R390). -/
def MxCmd.covers (m : MxCmd) (line : Nat) : Bool :=
  (List.range 64).all fun b =>
    let o := (wordOf (64 * line + b) - m.w1).toNat
    if imOpc m.w0 = 4 then decide (o < 4096)
    else (List.range (imM m.w0)).any fun i =>
      decide (i * rowStride m.w0 ≤ o) && decide (o < i * rowStride m.w0 + imN m.w0 * elemBytes m.w0)

/-- The positions that lie in a line. -/
def MxCmd.mates (m : MxCmd) (line : Nat) : List Nat :=
  (List.range m.count).filter fun p => decide ((m.cellVa p).toNat / 64 = line)

/-- The value that goes to a position, with the flags of its rounding. -/
abbrev MxValue := State → MxCmd → Nat → Word × Flags

/-- A line of HBM written whole by the unit (R390, R393): it clears poison, and needs no pull. -/
def State.lineAt (s : State) (core : Nat) (x : Xlated) (k : Nat) (ws : List (Nat × Nat × Word)) : EngAns :=
  let cl := clusterOf core
  if metered x.place && !(s.cluster cl).passes (writeCost 64) then .wait
  else if s.wqFull x.place then .wait
  else if s.offline k then .fail .stackOffline s
  else
    let s := ws.foldl (fun (s : State) w => s.write (k / 64 * 64 + w.1) w.2.1 w.2.2) (s.renewLine x.mig k)
    .ok ((s.enqueueWrite (k / 64 * 64) 64).spend cl x.place 64)

/-- The store of a position (R242): none while a line that the command covers whole is being gathered; the last of its
positions writes the line. -/
def State.mxStore (s : State) (core : Nat) (m : MxCmd) (val : MxValue) (p : Nat) : Option EngAns :=
  let va := m.cellVa p
  match s.translateNow core m.sup va .w with
  | (.fault c _, s) => some (.fail c s)
  | (.miss, _) => some .wait
  | (.ok x, s') =>
    let one := some (s'.inLane core x (s'.writeAt core x m.cellBytes (val s m p).1))
    match x.place with
    | .hbm k =>
      let line := va.toNat / 64
      if !m.covers line then one
      else if (m.mates line).getLast? ≠ some p then none
      else some (s'.inLane core x (s'.lineAt core x k ((m.mates line).map fun q =>
        ((m.cellVa q).toNat % 64, m.cellBytes, (val s m q).1))))
    | _ => one

/-- One write of a command, from its position on (R242, R243; log 15): positions that write nothing of their own are passed
over. After the last the command's work is done. -/
def State.mxWrites (core : Nat) (val : MxValue) (wr : State → MxCmd → Nat → Option EngAns) : Nat → State → MxCmd → State
  | 0, s, _ => s
  | fuel + 1, s, m =>
    if m.count ≤ m.pos then s.mxDone core m m.bytes
    else
      let f := (val s m m.pos).2
      let next := fun (s : State) => (s.mxFlags core f).updCmd core fun x => { x with pos := m.pos + 1 }
      match wr s m m.pos with
      | some .wait => s
      | some (.fail c s) => (s.mxFlags core f).mxFail core m ⟨.mxWrite, c.code.zeroExtend 64, m.cellVa m.pos⟩
      | some (.ok s) => next s
      | none => State.mxWrites core val wr fuel (next s) { m with pos := m.pos + 1 }

/-- The rounded element that st and red write (R242, R243). -/
def State.mxRounded (core : Nat) : MxValue := fun s m p =>
  let f := if imOpc m.w0 = 3 then Fmt.f32 else fmtAt (imOfmt m.w0)
  let r := f.ofWsScaled (imOrnd m.w0) (imOsat m.w0) ((s.acc core (imAcc m.w0)).elem (p / imN m.w0) (p % imN m.w0))
    (tensorScales m.w2 false)
  (wordOf r.code, r.flags)

/-- The words of the accumulator that ws stores (R243). -/
def State.mxRaw (core : Nat) : MxValue := fun s m p =>
  let e := (s.acc core (imAcc m.w0)).elem (p / 32) (p / 2 % 16)
  (if p % 2 = 0 then e.lo else e.hi, 0)

def execOpcSt (s : State) : Out :=
  s.opc 2 fun m s =>
    State.mxWrites s.cur (State.mxRounded s.cur) (fun s m p => s.mxStore s.cur m (State.mxRounded s.cur) p) 257 s m

def execOpcRed (s : State) : Out :=
  s.opc 3 fun m s =>
    State.mxWrites s.cur (State.mxRounded s.cur) (fun s m p =>
      some (s.engineAtomic s.cur m.sup (m.cellVa p) 9 4 (State.mxRounded s.cur s m p).1 m.stamp)) 257 s m

def execOpcWs (s : State) : Out :=
  s.opc 4 fun m s =>
    State.mxWrites s.cur (State.mxRaw s.cur) (fun s m p => s.mxStore s.cur m (State.mxRaw s.cur) p) 513 s m

/-! ## Loads (R243) -/

def execOpcWsl (s : State) : Out :=
  s.opc 5 fun m s =>
    let core := s.cur
    let x := (cells 16 16).foldl (fun (x : Accum) p => x.put p.1 p.2 (s.localPair core m.w1 p.1 p.2)) Accum.reset
    (s.setAcc core (imAcc m.w0) { x with cond := .held }).mxDone core m 0

/-- The exact value of an element as a canonical WS128 (R243). -/
def Fp.toWs : Fp → WsPair
  | .nan _ => WsPair.nan
  | .inf n => WsPair.inf n
  | .fin n k e => (wsMake (Dyad.of n k e) false).1

def execOpcLd (s : State) : Out :=
  s.opc 6 fun m s =>
    let core := s.cur
    let f := fmtAt (imOfmt m.w0)
    let x := (cells (imM m.w0) (imN m.w0)).foldl (fun (x : Accum) p =>
      x.put p.1 p.2 (f.decode (s.localBytes core (m.cellVa (p.1 * imN m.w0 + p.2)) (elemBytes m.w0))).toWs) Accum.reset
    (s.setAcc core (imAcc m.w0) { x with cond := .held }).mxDone core m 0

def execOpcAcc (s : State) : Out :=
  s.opc 7 fun m s =>
    let core := s.cur
    let a := imAcc m.w0
    let x := s.acc core a
    let r := (cells 16 16).foldl (fun (r : Accum × Bool) p =>
      let t := wsAddOv (x.elem p.1 p.2) (s.localPair core m.w1 p.1 p.2)
      (r.1.put p.1 p.2 t.1, r.2 || t.2)) ({ x with cond := .held }, false)
    ((s.setAcc core a r.1).mxFlags core (if r.2 then flOF else 0)).mxDone core m 0

/-! ## Retirement (R229–R231, R253) -/

/-- A follow-on command has retired: its copy's command counts one fewer (R253, R267). -/
def State.followRetires (s : State) (m : MxCmd) : State :=
  match m.from? with
  | some c => s.updCore c fun k =>
      { k with chan := { k.chan with inbox := k.chan.inbox.map fun x =>
          if x.value = m.value then { x with out := x.out - 1 } else x } }
  | none => s

/-- The oldest command retires once its work is finished; one whose OPC is reserved fails first (R230, R235). -/
def State.mxRetire (s : State) (core : Nat) : State :=
  match (s.core core).mx.inbox with
  | [] => s
  | m :: _ =>
    let s := if !m.done && decide (8 ≤ imOpc m.w0) then s.mxFail core m ⟨.mxCmd, m.w0, 0⟩ else s
    match (s.core core).mx.inbox with
    | [] => s
    | m :: rest =>
      if !m.done then s else
      let s := s.updCore core fun k =>
        { k with
          mx := { k.mx with inbox := rest, retired := k.mx.retired + 1 }
          act := if m.owned then k.act.map fun a => { a with mxLive := a.mxLive - 1 } else k.act }
      s.followRetires m

def execMatrixCommandRetire (s : State) : Out := .next (s.mxRetire s.cur)

end Sys2Proof.Machine
end

