-- ==== Sys2Proof/Machine/Requests.lean ====
section
/-! DEFINITION. Idle cores and pre-emption requests (spec/17_dispatch_tasks.md R313, R330; spec/19_dispatch_grids.md R354;
spec/09_core_memory.md R207; spec/25_system.md R411). -/

namespace Sys2Proof.Machine

/-- The core's partition is halted on its die, or a resize moves the core: nothing starts and nothing resumes (R330). -/
def State.halted (s : State) (core : Nat) : Bool :=
  let p := (s.core core).pid.toNat
  (s.die (dieOf core)).phalt.getLsbD p || (s.part p).moving.contains core

/-- DORD.POOL (R310). -/
def Core.pool (k : Core) : Bool := bit k.dord 2

/-- The core runs nothing, and nothing is on its way to it. -/
def Core.idle (k : Core) : Bool :=
  k.act.isNone && k.susp.isNone && k.inl.isNone && k.trapping.isNone && k.disp.asking.isNone && k.disp.popped.isNone

/-- An idle core with POOL set, bound to no stage (R350, R366). -/
def State.idlePool (s : State) (core : Nat) : Bool :=
  let k := s.core core
  s.coreLive core && k.idle && k.pool && k.disp.stage.isNone && !s.halted core

/-- The gate of a grid's scoreboard slot is closed (R348, R354). -/
def State.gateClosed (s : State) (l : Launch) : Bool := (vget Board.reset (s.die l.home).boards l.slot).closed

/-- The gate of the activation's group is closed without drain mode (R354). -/
def State.gated (s : State) (a : Act) : Bool :=
  match a.source with
  | .member l _ _ _ => match s.launch? l with
    | some x => s.gateClosed x && !x.drain
    | none => false
  | _ => false

/-! ## The die queue (R320, R329) -/

def State.pgBase (s : State) (d p : Nat) : Word := SMap.get 0 (s.die d).regs (0x1000 + 32 * p)
def State.pgPos (s : State) (d p : Nat) : Word := vget 0 (s.die d).pgpos p
def State.pgLog2 (s : State) (d p : Nat) : Nat := fld (s.pgBase d p) 0 5

/-- The queue is configured: LOG2 from 4 to 20 (R320, R329). -/
def State.pgReady (s : State) (d p : Nat) : Bool := decide (4 ≤ s.pgLog2 d p) && decide (s.pgLog2 d p ≤ 20)

/-- Slots written and not handed out, modulo 2^32. -/
def State.pgDepth (s : State) (d p : Nat) : Nat :=
  (fld (s.pgPos d p) 32 32 + 2 ^ 32 - fld (s.pgPos d p) 0 32) % 2 ^ 32

/-- The physical address of the slot of a position. -/
def State.pgSlot (s : State) (d p pos : Nat) : Nat := fld (s.pgBase d p) 6 46 * 64 + 64 * (pos % 2 ^ s.pgLog2 d p)

/-! ## PAUTO (R330) -/

/-- Launch members that wait on a die for a pool core: their partition and priority. -/
def State.waiting (s : State) (d : Nat) : List (Nat × Nat) :=
  ((List.range 16).map fun p =>
    if s.pgReady d p then
      (List.range (s.pgDepth d p)).map fun i =>
        match s.place d (s.pgSlot d p (fld (s.pgPos d p) 0 32 + i)) with
        | .hbm k => (p, fld (s.word (k + 56)) 5 6)
        | _ => (p, 0)
    else []).flatten ++
  (s.launches.map fun kl =>
    if kl.2.kind = 1 ∧ kl.2.home = d ∧ !s.gateClosed kl.2 then
      (kl.2.groups.filter fun g => g.phase == .released).map fun _ => (kl.2.part, kl.2.prio)
    else []).flatten

/-- The activation for which PAUTO may name a core: the one it runs, or the one it keeps suspended while it runs nothing; a
core that runs one beside a suspended one takes no request (R313; log 52). -/
def Core.nameable (k : Core) : Option Act :=
  match k.act, k.susp with
  | some a, none => some a
  | none, x => x
  | some _, some _ => none

/-- The pool core whose activation has the lowest priority below a bound, the lowest id on ties. -/
def State.victim (s : State) (d p below : Nat) (taken : List Nat) : Option Nat :=
  ((s.partCores p).filter fun c => dieOf c == d && (s.core c).pool && !taken.contains c).foldl (fun best c =>
    match (s.core c).nameable, best with
    | some a, none => if a.prio < below then some c else none
    | some a, some b => match (s.core b).nameable with
      | some x => if a.prio < below ∧ (a.prio < x.prio ∨ (a.prio = x.prio ∧ c < b)) then some c else some b
      | none => some b
    | none, b => b) none

/-- Cores whose dispatcher has received a die-queue slot that outranks the suspended activation: the slot's member still
waits, and for that core (log 52). -/
def State.outranked (s : State) (d delta : Nat) : List Nat :=
  (s.cores.filter fun kc => dieOf kc.1 == d && kc.2.pool &&
    match kc.2.act, kc.2.susp, kc.2.disp.popped with
    | none, some a, some p => decide (a.prio < fld (p.words.getD 7 0) 5 6 - delta)
    | _, _, _ => false).map Prod.fst

/-- The cores that PAUTO names on a die: one for each waiting member (R330). -/
def State.autoNamed (s : State) (d : Nat) : List Nat :=
  let w := (s.die d).pauto
  if !bit w 0 then []
  else
    (s.waiting d).foldl (fun taken m =>
      if (s.partCores m.1).any fun c => dieOf c == d && s.idlePool c then taken
      else match s.victim d m.1 (m.2 - fld w 1 6) taken with
        | some c => c :: taken
        | none => taken) (s.outranked d (fld w 1 6))

/-- A pool core that PAUTO has had pre-empted and that runs nothing since: it takes the member that waits (log 52). -/
def State.givenUp (s : State) (core : Nat) : Bool :=
  let k := s.core core
  k.susp.isSome && s.coreLive core && { k with susp := none }.idle && k.pool && k.disp.stage.isNone && !s.halted core &&
    (s.autoNamed (dieOf core)).contains core

/-! ## Requests (R207, R313, R330) -/

/-- A pre-emption request of R330 stands for a core: also for a suspended group member beside which it runs another
activation (R354). -/
def State.requested (s : State) (core : Nat) : Bool :=
  let d := s.die (dieOf core)
  let k := s.core core
  (SMap.get 0 d.preq (clusterOf core % 256)).getLsbD (core % 16) || s.halted core ||
    k.act.any s.gated || k.susp.any s.gated ||
    (s.autoNamed (dieOf core)).contains core

/-- A gang request stands for a team or group: a request stands for every member core of it (R207). -/
def State.gangRequested (s : State) (l g t : Nat) (grp : Bool) : Bool :=
  match (s.launch? l).bind fun x => x.group? g with
  | none => false
  | some gr =>
    let cores := if grp then (gr.teams.map fun x => x.cores).flatten
      else match gr.teams[t]? with
        | some x => x.cores
        | none => []
    cores.all s.requested

end Sys2Proof.Machine
end

