-- ==== Sys2Proof/Machine/CopyChannel.lean ====
section
/-! DEFINITION. Copy channels (spec/14_cluster_engine.md R258–R270, R276–R278; 12 R253): `chain`, `cstat`, `ccan`, the
transfer records, their completion and landing, follow-on commands and retirement; and R271, R272, R278, R279. A channel
runs the records of a chain side by side (R267). Each event row makes one request, one delivery or one completion. -/

namespace Sys2Proof.Machine

/-! ## Multicast groups (R299–R301) -/

/-- The entry's fields (R299). -/
def mcgEgress (w : Word) : Nat := fld w 0 4
def mcgLocal (w : Word) : Nat := fld w 4 16
def mcgValid (w : Word) : Bool := bit w 20
/-- ROOTC: die × 256 + cluster. -/
def mcgRoot (w : Word) : Nat := fld w 22 10

/-- The cluster across a mesh link N, E, S, W; none at the boundary. -/
def linkTo (cl : Nat) (link : Nat) : Option Nat :=
  let x := meshX cl
  let y := meshY cl
  match link with
  | 0 => if 0 < y then some (clusterAt x (y - 1)) else none
  | 1 => if x < 31 then some (clusterAt (x + 1) y) else none
  | 2 => if y < 23 then some (clusterAt x (y + 1)) else none
  | _ => if 0 < x then some (clusterAt (x - 1) y) else none

/-- Cores of a cluster that a 16-bit mask names. -/
def maskCores (cl mask : Nat) : List Nat :=
  ((List.range 16).filter fun i => mask / 2 ^ i % 2 == 1).map fun i => cl * 16 + i

/-- The tree of a group from a list of routers to visit: the cores delivered to, and whether the tables agree. -/
def State.mcgWalk (s : State) (plane g : Nat) : Nat → List Nat → List Nat → List Nat × Bool
  | 0, _, _ => ([], false)
  | _ + 1, [], _ => ([], true)
  | n + 1, cl :: rest, seen =>
    let w := s.mcgEntry cl plane g
    if !mcgValid w || seen.contains cl then ([], false)
    else
      let links := (List.range 4).filter fun i => mcgEgress w / 2 ^ i % 2 == 1
      let next := links.map (linkTo cl)
      let r := s.mcgWalk plane g n (rest ++ next.filterMap id) (cl :: seen)
      (maskCores cl (mcgLocal w) ++ r.1, r.2 && next.all Option.isSome)

/-- The members that a multicast from a core reaches; none where the group is not loaded (R300, R301). Where the tables do
not agree, an undefined subset of the cores found (log 20). -/
def State.members (s : State) (core plane g : Nat) : Option (List Nat) :=
  let w := s.mcgEntry (clusterOf core) plane g
  if !mcgValid w then none
  else
    let r := s.mcgWalk plane g 800 [mcgRoot w] []
    if r.2 then some (r.1.filter s.coreLive)
    else some (((r.1.filter s.coreLive).zipIdx.filter fun p => Config.reaches (s.tick + p.2)).map Prod.fst)

/-! ## Records (R260–R262) -/

def recOp (w0 : Word) : Nat := fld w0 0 4
def recDone (w0 : Word) : Nat := fld w0 4 2
def recFcore (w0 : Word) : Nat := fld w0 16 14
def recFmc (w0 : Word) : Bool := bit w0 30

/-- A record's words. -/
abbrev Rec := List Word

def Rec.w (r : Rec) (i : Nat) : Word := r.getD i 0
def Rec.xw (r : Rec) : Nat := fld (r.w 3) 0 16
def Rec.yn (r : Rec) : Nat := fld (r.w 3) 16 12
def Rec.zn (r : Rec) : Nat := fld (r.w 3) 28 12
def Rec.ssy (r : Rec) : Int := sextInt (fld (r.w 3) 40 24) 24
def Rec.dsy (r : Rec) : Int := sextInt (fld (r.w 4) 0 24) 24
def Rec.ssz (r : Rec) : Int := sextInt (fld (r.w 4) 24 20) 20
def Rec.dsz (r : Rec) : Int := sextInt (fld (r.w 4) 44 20) 20
def Rec.lbs (r : Rec) : Nat := fld (r.w 5) 0 6
def Rec.bt (r : Rec) : Word := r.w 5 >>> 8
def Rec.foff (r : Rec) : Nat := fld (r.w 7) 0 6
def Rec.next (r : Rec) : Word := keep (r.w 7) 0xFFFFFFFFFFFFC0

/-- CE_RECORD (R262). -/
def Rec.bad (r : Rec) : Bool :=
  let w0 := r.w 0
  let op := recOp w0
  !bit w0 63 || decide (2 < op) || recDone w0 == 3 || fld w0 7 9 != 0 || fld w0 31 32 != 0 || r.xw == 0 ||
  fld (r.w 5) 6 2 != 0 || r.lbs == 1 || r.lbs == 2 || decide (40 < r.lbs) || r.foff == 1 || fld (r.w 7) 56 8 != 0 ||
  (op == 1 && (fld (r.w 2) 12 4 != 0 || fld (r.w 2) 39 25 != 0 || fld (r.w 6) 23 41 != 0)) ||
  (r.lbs != 0 && (op == 2 || decide (r.ssz < 0))) || (recFmc w0 && op != 1)

/-- The base of the destination, and the completion target (R261, R264). -/
def Rec.dst (r : Rec) : Word := if recOp (r.w 0) = 1 then offsetVa (fld (r.w 2) 16 23) else r.w 2
def Rec.tgt (r : Rec) : Word := if recOp (r.w 0) = 1 then offsetVa (fld (r.w 6) 0 23) else r.w 6

/-- CE_ADDR: the first address word that is not a multiple of 8, with its TINFO (R263, R277). -/
def Rec.misaligned (r : Rec) : Option MxErr :=
  let bad := fun (w : Word) => decide (w.toNat % 8 ≠ 0)
  if recOp (r.w 0) != 2 && bad (r.w 1) then some ⟨.ceAddr, 1, r.w 1⟩
  else if bad r.dst then some ⟨.ceAddr, 2, r.dst⟩
  else if recDone (r.w 0) != 0 && bad r.tgt then some ⟨.ceAddr, 3, r.tgt⟩
  else if r.lbs != 0 && bad r.bt then some ⟨.ceAddr, 5, r.bt⟩
  else none

/-- Destination bytes of a record. -/
def Rec.total (r : Rec) : Nat := 8 * r.xw * (r.yn + 1) * (r.zn + 1)

/-! ## Ends of commands (R258, R259, R267) -/

def State.updChan (s : State) (core : Nat) (f : Channel → Channel) : State :=
  s.updCore core fun k => { k with chan := f k.chan }

/-- Commands waiting in the inbox (R258, R269): a running one waits no longer. -/
def Channel.queued (c : Channel) : Nat :=
  c.inbox.length - match c.inbox with
    | m :: _ => if m.runs.isEmpty then 0 else 1
    | [] => 0

/-- Changes the command that the channel runs. -/
def State.updHead (s : State) (core : Nat) (f : ChCmd → ChCmd) : State :=
  s.updChan core fun c => match c.inbox with
    | m :: ms => { c with inbox := f m :: ms }
    | [] => c

/-- Changes a record that the command has started. -/
def State.updRun (s : State) (core i : Nat) (f : ChRun → ChRun) : State :=
  s.updHead core fun m => { m with runs := m.runs.mapIdx fun j r => if j = i then f r else r }

/-- The channel's requests leave the core's request ring. -/
def State.clearMarks (s : State) (core : Nat) : State :=
  s.updCore core fun k => { k with flight := k.flight.filter fun a => !a.isChan }

/-- The channel's oldest command retires, and the timeline advances (R267). -/
def State.chRetire (s : State) (core : Nat) : State :=
  match (s.core core).chan.inbox with
  | [] => s
  | m :: rest =>
    (s.clearMarks core).updCore core fun k =>
      { k with
        chan := { k.chan with inbox := rest, held := k.chan.held.filter fun f => f.value != m.value, retired := k.chan.retired + 1 }
        act := if m.owned then k.act.map fun a => { a with chLive := a.chLive - 1 } else k.act }

/-- A record that the command has started, or was about to start, fails: OWN stays set, no later record of the chain runs,
and the command retires as failed once the others have retired (R253, R267, R277). -/
def State.chFail (s : State) (core i : Nat) (e : MxErr) : State :=
  match (s.core core).chan.inbox with
  | [] => s
  | m :: _ =>
    ((s.chCause core m.value (engineRec e.cause e.addr e.info m.pc)).clearMarks core).updHead core fun m =>
      { m with cancelled := true, runs := m.runs.take i ++ (m.runs.drop (i + 1)).filter fun r => r.landed }

/-- A cause of a translation or of a read at a home: CE_XLATE (R277). -/
def ceXlate (c : Cause) (va : Word) : MxErr := ⟨.ceXlate, c.code.zeroExtend 64, va⟩

/-! ## Reads (R263, R278) -/

/-- What a read of a channel gives. -/
inductive ChRead where
  | wait
  | ok (v : Word) (s : State)
  | poison (s : State)
  | fail (c : Cause) (s : State)
  deriving DecidableEq, Repr

/-- Accesses that the issuing activation made before the `chain` and that go before a request of the channel (R278,
R279). -/
def State.chBehind (s : State) (core : Nat) (m : ChCmd) (p : PartAt) : Bool :=
  (s.core core).flight.any fun a => decide (a.id < m.after) && s.goesBefore core p a

def State.chRead (s : State) (core : Nat) (m : ChCmd) (va : Word) : ChRead :=
  match s.translateNow core m.sup va .r with
  | (.ok x, s) =>
    if s.chBehind core m x.part then .wait
    else match s.readAt core x 8 with
      | (.ok v, s) => .ok v s
      | (.error .memPoison, s) => .poison s
      | (.error c, s) => .fail c s
  | (.fault c _, s) => .fail c s
  | (.miss, _) => .wait

/-- What reading a list of words gives: the words, with none for a poisoned one. -/
inductive ChReads where
  | wait
  | ok (vs : List (Option Word)) (s : State)
  | fail (c : Cause) (va : Word) (s : State)
  deriving DecidableEq, Repr

def State.chReads (core : Nat) (m : ChCmd) : List Word → State → ChReads
  | [], s => .ok [] s
  | va :: vas, s =>
    let go (v : Option Word) (s : State) : ChReads :=
      match State.chReads core m vas s with
      | .ok vs s => .ok (v :: vs) s
      | r => r
    match s.chRead core m va with
    | .wait => .wait
    | .ok v s => go (some v) s
    | .poison s => go none s
    | .fail c s => .fail c va s

/-- The position of the first poisoned word. -/
def firstPoison (vs : List (Option Word)) : Option Nat := (findIdx Option.isNone vs 0).map Prod.fst

/-! ## The request ring (R271) -/

/-- What the request ring answers a request of the channel: it goes on, with its entry if it needed one; it has entered the
ring; or it waits there, or for room. -/
inductive RingAns where
  | go (entry : Option Access)
  | entered (s : State)
  | wait
  deriving DecidableEq, Repr

/-- The entry of a request of the channel in the core's request ring. -/
def State.mark? (s : State) (core : Nat) (va : Word) (write : Bool) : Option Access :=
  (s.core core).flight.find? fun a =>
    (match a.op with
      | .chan _ w => w == write
      | _ => false) && a.va == va

/-- A request of the channel to a home (R271): it goes at once to the core's own private and its cluster's shared
scratchpad; elsewhere it takes an entry of the core's request ring and goes when it has been injected, a write in the order
of its lane (R382). -/
def State.ringAsk (s : State) (core : Nat) (x : Xlated) (va : Word) (bytes : Nat) (write : Bool) : RingAns :=
  if bypasses core x.place then .go none
  else match s.mark? core va write with
    | some a =>
      if a.injected && !(write && s.laneBusy (clusterOf core) (some a.order) x.place) then .go (some a) else .wait
    | none =>
      if 32 ≤ (s.core core).ringCount then .wait
      else .entered (s.updCore core fun k =>
        { k with
          nextId := k.nextId + 1
          flight := k.flight ++ [{
            id := k.nextId, op := .chan bytes write, va := va, pa := x.pa, pc := 0, isLoad := false, isStore := false,
            acqOk := false, acqFail := false, strong := x.strong, migrating := x.mig, injected := false, order := 0,
            live := false, gen := x.gen, stamp := 0, inl := false, state := .issued }] })

/-- The request has been made: its entry of the ring is over. -/
def State.unmark (s : State) (core : Nat) (entry : Option Access) : State :=
  match entry with
  | some a => s.updCore core fun k => { k with flight := k.flight.filter fun b => b.id != a.id }
  | none => s

/-- The cause of a request that has gone unanswered (R410). -/
def unanswered : Option Access → Option Cause
  | some a => match a.state with
    | .failed c _ _ => some c
    | _ => none
  | none => none

/-- What a read request gives. -/
inductive ChFetch where
  | wait
  | entered (s : State)
  | ok (vs : List (Option Word)) (s : State)
  | fail (c : Cause) (va : Word) (s : State)
  deriving DecidableEq, Repr

/-- A read request for words, through the ring. -/
def State.chFetch (s : State) (core : Nat) (m : ChCmd) (vas : List Word) : ChFetch :=
  let va := vas.headD 0
  let ring := match (s.translateNow core m.sup va .r).1 with
    | .ok x => s.ringAsk core x va (8 * vas.length) false
    | _ => .go none
  match ring with
  | .wait => .wait
  | .entered s => .entered s
  | .go entry =>
    match unanswered entry with
    | some c => .fail c va s
    | none =>
      match State.chReads core m vas s with
      | .wait => .wait
      | .ok vs s => .ok vs (s.unmark core entry)
      | .fail c va s => .fail c va s

/-! ## Starting a record (R262, R263, R267) -/

/-- Records of a command whose follow-on commands are not all delivered; the images of a record count as one (R266; log
73). -/
def Channel.undelivered (c : Channel) (m : ChCmd) : Nat :=
  (((c.held.filter fun f => f.value == m.value).map fun f => f.record).eraseDups).length

/-- The record has landed and its follow-on command is not held yet. -/
def ChRun.toPass (r : ChRun) : Bool := r.landed && !r.passed && Rec.foff r.words != 0

/-- The address of the record that the channel may start: the chain's first, or NEXT of the one started last; none while
four follow-on commands are held and a fifth is to be (R266, R267). -/
def Channel.starts (c : Channel) : Option (ChCmd × Word) :=
  match c.inbox with
  | m :: _ =>
    if m.cancelled then none
    else match m.runs.getLast? with
      | none => some (m, m.first)
      | some r =>
        if Rec.next r.words ≠ 0 ∧ !(decide (4 ≤ c.undelivered m) && m.runs.any ChRun.toPass) then some (m, Rec.next r.words)
        else none
  | [] => none

/-- A record as it starts. -/
def ChRun.start (va : Word) (r : Rec) (members : List Nat) : ChRun :=
  { va := va, words := r, done := 0, total := r.total, planes := 0, plane := r.w 1, members := members, pieces := [],
    chunks := [], final := [], landed := false, passed := false, cleared := false, before := [], stained := [] }

/-- Reads a record and checks it: it becomes a running record, or fails. `ops` tells which records the event runs. -/
def State.chStart (s : State) (core : Nat) (m : ChCmd) (va : Word) (ops : Nat → Bool) : Option State :=
  let i := m.runs.length
  match s.chFetch core m ((List.range 8).map fun i => va + wordOf (8 * i)) with
  | .wait => none
  | .entered s => some s
  | .fail c a s => if ops 3 then some (s.chFail core i (ceXlate c a)) else none
  | .ok vs s =>
    match firstPoison vs with
    | some q => if ops 3 then some (s.chFail core i ⟨.cePoison, 0, va + wordOf (8 * q)⟩) else none
    | none =>
      let r : Rec := vs.map fun v => v.getD 0
      if !ops (min (recOp (r.w 0)) 3) then none
      else if r.bad then some (s.chFail core i ⟨.ceRecord, r.w 0, va⟩)
      else match r.misaligned with
        | some e => some (s.chFail core i e)
        | none =>
          let run (ms : List Nat) : State := s.updHead core fun m =>
            { m with runs := (m.runs.filter fun r => !r.cleared) ++ [ChRun.start va r ms] }
          if recOp (r.w 0) = 1 then
            match s.members core 0 (fld (r.w 2) 0 12) with
            | some ms => some (run ms)
            | none => some (s.chFail core i ⟨.mcGroupInvalid, wordOf (fld (r.w 2) 0 12), 0⟩)
          else some (run [core])

/-! ## Reading (R262, R263, R271) -/

/-- The position of a word of a record in the order written: word, run, plane. -/
def Rec.pos (w : Rec) (p : Nat) : Nat × Nat × Nat := (p % w.xw, p / w.xw % (w.yn + 1), p / (w.xw * (w.yn + 1)))

/-- The destination address of a word. -/
def Rec.dstWord (w : Rec) (p : Nat) : Word :=
  let (x, y, z) := w.pos p
  w.dst + wordOfInt (8 * (z : Int) * w.dsz + 8 * ((y : Int) * w.dsy + (x : Int)))

/-- Words of the request that begins at a word: within one chunk and one run. -/
def Rec.span (w : Rec) (p : Nat) : Nat := min (w.xw - (w.pos p).1) (64 - p % 64)

/-- The destination words of a request at some cores, translated; the first that fails, with its cause. -/
def State.chTargets (sup : Bool) : List (Nat × Word) → State → Except (Cause × Word) (List (Nat × Word × Xlated)) × State
  | [], s => (.ok [], s)
  | (m, va) :: rest, s =>
    match s.translateNow m sup va .w with
    | (.ok x, s) =>
      match State.chTargets sup rest s with
      | (.ok xs, s) => (.ok ((m, va, x) :: xs), s)
      | r => r
    | (.fault c _, s) => (.error (c, va), s)
    | (.miss, s) => (.error (.xlateMiss, va), s)

/-- The canonical address of a memory place. -/
def keyOf : Place → Option Nat
  | .spad k => some k
  | .hbm k => some k
  | .ext k => some k
  | .away k _ => some k
  | _ => none

/-- What a word of memory holds; none where it is poisoned. -/
def State.held (s : State) (k : Nat) : Option Word :=
  if s.tagAt k == tagPoison || s.poisoned k then none else some (s.word k)

/-- What is remembered of the destination words of a request before they are written the first time (R262). -/
def State.remember (s : State) (m : SMap (Option Word)) (xs : List (Nat × Word × Xlated)) : SMap (Option Word) :=
  xs.foldl (fun m x => match keyOf x.2.2.place with
    | some k => if (SMap.find m k).isSome then m else SMap.put m k (s.held k)
    | none => m) m

/-- The words that a request's source words give, where source and destination overlap (R262): for each either the word
as the record found it or a value that the record has written there, a free choice (log 27). `old` holds the words found,
`now` the words of this request in their order with their destinations' addresses. -/
def State.overlap (old : SMap (Option Word)) :
    List (Option Nat × Option Word) → List (List (Option Nat)) → List (Option Nat × Option Word) → State →
      List (Option Word) × State
  | [], _, _, s => ([], s)
  | (key, v) :: rest, dsts, now, s =>
    let written := match key with
      | some k => ((now.find? fun p => p.1 == some k).map Prod.snd).toList
      | none => []
    let found := match key with
      | some k => (SMap.find old k).toList
      | none => []
    let all := v :: (found ++ written)
    let r := if all.length = 1 then (0, s) else s.choose all.length
    let w := all.getD r.1 v
    let q := State.overlap old rest (dsts.drop 1) ((dsts.headD []).map (fun d => (d, w)) ++ now) r.2
    (w :: q.1, q.2)

/-- DEP holds the record's reads back: an earlier record of the chain has not landed (R260, R262). -/
def ChCmd.depends (m : ChCmd) (i : Nat) (r : ChRun) : Bool :=
  bit (Rec.w r.words 0) 6 && (m.runs.take i).any fun q => !q.landed

/-- The base of a plane that begins: SRC, or its block's place by the table, whose entry is read now (R262). -/
def State.chPlane (s : State) (core : Nat) (m : ChCmd) (i : Nat) (r : ChRun) (z : Nat) : Option State :=
  let w : Rec := r.words
  let l : Int := 8 * (z : Int) * w.ssz
  let put (s : State) (base : Word) : Option State := some (s.updRun core i fun r => { r with planes := z + 1, plane := base })
  if w.lbs = 0 then put s (w.w 1 + wordOfInt l)
  else
    let b := 2 ^ w.lbs
    let va := w.bt + wordOf (8 * (l.toNat / b))
    match s.chFetch core m [va] with
    | .wait => none
    | .entered s => some s
    | .fail c va s => some (s.chFail core i (ceXlate c va))
    | .ok vs s =>
      match vs.headD none with
      | none => some (s.chFail core i ⟨.cePoison, 1, va⟩)
      | some e =>
        if e.toNat % 8 ≠ 0 then some (s.chFail core i ⟨.ceAddr, 4, e⟩) else put s (e + wordOf (l.toNat % b) + w.w 1)

/-- A record's next read request, or the words of a fill (R262, R271). -/
def State.chTake (s : State) (core : Nat) (m : ChCmd) (i : Nat) (r : ChRun) : Option State :=
  let w : Rec := r.words
  let p := r.done / 8
  let (x, y, z) := w.pos p
  let n := w.span p
  let fill := decide (recOp (w.w 0) = 2)
  if r.total ≤ r.done ∨ (!fill ∧ m.depends i r) then none
  else if !fill ∧ r.planes ≤ z then s.chPlane core m i r z
  else
    let put (s : State) (vs : List (Option Word)) : State :=
      let bad := (vs.filter Option.isNone).length
      let piece : ChPiece := ⟨r.done, vs, r.members, false⟩
      (s.updRun core i fun r =>
        { r with done := r.done + 8 * n, pieces := r.pieces ++ if r.members.isEmpty then [] else [piece] }).updCore core fun k =>
          { k with act := if m.owned then k.act.map fun a => { a with chPoison := sat 255 (a.chPoison + bad) } else k.act }
    if fill then some (put s (List.replicate n (some (w.w 1))))
    else
      let srcs := (List.range n).map fun (q : Nat) => r.plane + wordOfInt (8 * ((y : Int) * w.ssy + x + (q : Int)))
      match s.chFetch core m srcs with
      | .wait => none
      | .entered s => some s
      | .fail c va s => some (s.chFail core i (ceXlate c va))
      | .ok vs s =>
        let keys := srcs.map fun va => match s.translateHit core m.sup va .r with
          | .ok x => keyOf x.place
          | _ => none
        let dests := (List.range n).map fun q => r.members.map fun c =>
          match (s.translateNow c m.sup (w.dstWord (p + q)) .w).1 with
          | .ok x => keyOf x.place
          | _ => none
        let (vs, s) := State.overlap r.before (keys.zip vs) dests [] s
        some (put s vs)

/-! ## Writing (R262–R264, R271–R273) -/

/-- HBM lines that the words of a request cover whole, with MIG of their translation (R390). -/
def wholeLines (xs : List (Nat × Word × Xlated)) : List (Nat × Bool) :=
  let ks := xs.filterMap fun p => match p.2.2.place with
    | .hbm k => some (k, p.2.2.mig)
    | _ => none
  ks.filter fun q => q.1 % 64 == 0 && (List.range 8).all fun i => ks.any fun r => r.1 == q.1 + 8 * i

/-- The write queues have no room for a request's lines (R379). -/
def State.wqCrowded (s : State) (xs : List (Nat × Word × Xlated)) : Bool :=
  let new := (xs.filterMap fun p => match p.2.2.place with
    | .hbm k => if (s.queuedLine k).isNone then some (k / 64 * 64) else none
    | _ => none).eraseDups
  new.any fun k => decide (64 < (s.writeQueue k).length +
    (new.filter fun j => stackOf j == stackOf k && channelOf j == channelOf k).length)

/-- One destination word written at its home (R263): a clean one is stored; a poisoned one gives tag 11 in scratchpad, and
poisons its HBM line when the request's words are all written. `own` are the lines that the record itself has poisoned,
which its further words do not fail at (DEDUCED, log 73). -/
def State.chWrite (s : State) (core : Nat) (own : List Nat) (x : Xlated) (v : Option Word) : Except HomeErr State :=
  match s.settleLine (dieOf core) x.mig x.place with
  | .error e => .error e
  | .ok s =>
    match x.place, v with
    | .hbm k, v =>
      if s.offline k then .error (.stackOffline, wordOf (stackOf k))
      else if s.poisoned k ∧ !own.contains (k / 64 * 64) then .error (.memPoison, 0)
      else .ok ((match v with
        | some v => s.write k 8 v
        | none => s).enqueueWrite k 8)
    | .spad k, none =>
      if s.tagAt k = tagArrival then .error (.tagMismatch, tagInfo tagArrival) else .ok ((s.setTag k tagPoison).changed k)
    | _, none => .ok s
    | pl, some v => s.homeStore core pl 8 v false

/-- Words written one after another: the first that fails ends it. -/
def State.chWrites (core : Nat) (own : List Nat) :
    List ((Nat × Word × Xlated) × Option Word) → State → Except (Cause × Word) Unit × State
  | [], s => (.ok (), s)
  | ((_, va, x), v) :: rest, s =>
    match s.chWrite core own x v with
    | .ok s => State.chWrites core own rest s
    | .error (c, _) => (.error (c, va), s)

/-- HBM lines that receive poison (R263). -/
def poisonedLines (ws : List ((Nat × Word × Xlated) × Option Word)) : List Nat :=
  ws.filterMap fun p => match p.1.2.2.place, p.2 with
    | .hbm k, none => some (k / 64 * 64)
    | _, _ => none

/-- Bytes of a record that are written at a core. -/
def ChRun.wrote (r : ChRun) (c : Nat) : Nat :=
  ((r.pieces.filter fun q => q.left.contains c).map fun q => q.start).foldl min r.done

/-- A record started earlier has still to write at one of these homes (R272). -/
def State.chAhead (s : State) (m : ChCmd) (r : ChRun) (homes : List Nat) : Bool :=
  r.members.any fun c =>
    (List.range ((r.total - r.wrote c) / 8)).any fun q =>
      match (s.translateNow c m.sup (Rec.dstWord r.words (r.wrote c / 8 + q)) .w).1 with
      | .ok x => homes.contains (homeKey x.place)
      | _ => false

/-- The core `c` has received a piece. -/
def ChRun.received (r : ChRun) (start c : Nat) : ChRun :=
  let ps := r.pieces.map fun q => if q.start = start then { q with left := q.left.filter fun d => d != c } else q
  { r with pieces := ps.filter fun q => !q.left.isEmpty }

/-- A piece of a record written at one of the cores that receive it: its tokens are taken and it enters the ring; when it
has been injected its words go to their homes, behind the accesses of R279 and the writes of R272. -/
def State.chDeliver (s : State) (core : Nat) (m : ChCmd) (i : Nat) (r : ChRun) (q : ChPiece) (c : Nat) : Option State :=
  let w : Rec := r.words
  let n := q.vals.length
  let va := w.dstWord (q.start / 8)
  match State.chTargets m.sup ((List.range n).map fun j => (c, w.dstWord (q.start / 8 + j))) s with
  | (.error (e, va), s) => some (s.chFail core i (ceXlate e va))
  | (.ok xs, s) =>
    let homes := xs.map fun x => homeKey x.2.2.place
    let far := xs.find? fun x => !bypasses core x.2.2.place
    let cost := xs.find? fun x => metered x.2.2.place
    let lined := xs.any fun x => s.laneBusy (clusterOf core) (some (match s.mark? core va true with
      | some a => a.order
      | none => 0)) x.2.2.place
    let ring := match far with
      | some x => s.ringAsk core x.2.2 va (8 * n) true
      | none => .go none
    if xs.any (fun x => s.chBehind core m x.2.2.part) ∨ (m.runs.take i).any (fun e => s.chAhead m e homes) then none
    else match ring with
      | .wait => none
      | .entered s' =>
        match cost with
        | some x =>
          if q.paid then some s'
          else if !(s.cluster (clusterOf core)).passes (writeCost (8 * n)) then none
          else some ((s'.spend (clusterOf core) x.2.2.place (8 * n)).updRun core i fun r =>
            { r with pieces := r.pieces.map fun p => if p.start = q.start then { p with paid := true } else p })
        | none => some s'
      | .go entry =>
        if let some c := unanswered entry then some (s.chFail core i ⟨.ceWrite, c.code.zeroExtend 64, va⟩)
        else if s.wqCrowded xs ∨ lined then none
        else
          let before := s.remember r.before xs
          let ws := xs.zip q.vals
          let whole := wholeLines xs
          let own := r.stained.filter fun k => !whole.any fun l => l.1 == k
          match State.chWrites core own ws (whole.foldl (fun s l => State.renewLine s l.2 l.1) s) with
          | (.error (e, va), s) => some (s.chFail core i ⟨.ceWrite, e.code.zeroExtend 64, va⟩)
          | (.ok _, s) =>
            let bad := poisonedLines ws
            let s := bad.foldl (fun (s : State) k => s.setPoison k true) s
            let s := if q.left.length ≤ 1 then s.unmark core entry else s
            some (s.updRun core i fun r => { r.received q.start c with before := before, stained := (bad ++ own).eraseDups })

/-! ## The channel's steps (R267) -/

/-- Takes one of several ways to go on that can be gone: a free choice where there are several. -/
def State.oneOf (s : State) (ways : List (State → Option State)) : State :=
  match ways with
  | [] => s
  | [f] => (f s).getD s
  | _ =>
    let (n, t) := s.choose ways.length
    ((ways.drop n ++ ways.take n).findSome? fun f => f t).getD s

/-- A record's deliveries: to each core its oldest piece. -/
def ChRun.deliveries (r : ChRun) : List (ChPiece × Nat) :=
  r.members.filterMap fun c => (r.pieces.find? fun q => q.left.contains c).map fun q => (q, c)

/-- A step of the current core's channel: a delivery or the next read of a running record of the event's kind, or the start
of one. -/
def State.chStep (s : State) (ops : Nat → Bool) : State :=
  let core := s.cur
  match s.me.chan.inbox with
  | [] => s
  | m :: _ =>
    let runs := (m.runs.zipIdx).filter fun p => ops (recOp (Rec.w p.1.words 0))
    let writes := (runs.map fun p => p.1.deliveries.map fun d => fun (s : State) => s.chDeliver core m p.2 p.1 d.1 d.2).flatten
    let reads := runs.map fun p => fun (s : State) => s.chTake core m p.2 p.1
    let starts := (s.me.chan.starts).toList.map fun st => fun (s : State) => s.chStart core st.1 st.2 ops
    s.oneOf (writes ++ reads ++ starts)

/-- COPY (R262); a record that cannot be run fails here. -/
def execCopyRecord (s : State) : Out := .next (s.chStep fun n => n == 0 || n == 3)

/-- MULTICAST_COPY (R264). -/
def execMulticastCopy (s : State) : Out := .next (s.chStep fun n => n == 1)

/-- FILL (R262). -/
def execFillRecord (s : State) : Out := .next (s.chStep fun n => n == 2)

/-! ## Completion (R264, R265) -/

/-- One completion write at a core: an arrival, or a bit of the bitmap; `f` makes it and `ok` notes it. -/
def State.chSignal (s : State) (core : Nat) (m : ChCmd) (i c : Nat) (va : Word) (f : State → Xlated → EngAns)
    (ok : ChRun → ChRun) : Option State :=
  match s.translateNow c m.sup va .w with
  | (.fault e _, s) => some (s.chFail core i (ceXlate e va))
  | (.miss, _) => none
  | (.ok x, s) =>
    if s.chBehind core m x.part then none
    else match s.ringAsk core x va 8 true with
      | .wait => none
      | .entered s => some s
      | .go entry =>
        match (match unanswered entry with | some c => EngAns.fail c s | none => f s x) with
        | .wait => none
        | .fail e s => some (s.chFail core i ⟨.ceSignal, e.code.zeroExtend 64, va⟩)
        | .ok s => some ((s.unmark core entry).updRun core i ok)

/-- The bytes of chunk k are accepted at a core, and its completion there is still to be made. -/
def ChRun.chunkDue (r : ChRun) (k c : Nat) : Bool :=
  !r.landed && recDone (Rec.w r.words 0) != 0 && decide (512 * k < r.total) && !r.chunks.contains (c, k) &&
    decide (min r.total (512 * k + 512) ≤ r.wrote c)

/-- The completion of chunk k of a record at a core (R265). -/
def State.chChunk (s : State) (core : Nat) (m : ChCmd) (i : Nat) (r : ChRun) (k c : Nat) : Option State :=
  let w : Rec := r.words
  let note := fun (r : ChRun) => { r with chunks := (c, k) :: r.chunks }
  if recDone (w.w 0) = 1 then
    s.chSignal core m i c w.tgt (fun s x => s.arriveAt c x (min 512 (r.total - 512 * k)) 0 m.stamp) note
  else
    s.chSignal core m i c (w.tgt + wordOf (8 * (k / 64)))
      (fun s x => s.atomicAt core x 2 8 (wordOf (2 ^ (k % 64))) m.stamp) note

/-- CHUNK_COMPLETION (R264, R265): a chunk whose bytes are accepted is counted, or its bit is set, at one of the cores that
receive it. -/
def execChunkCompletion (k : Nat) (s : State) : Out :=
  let core := s.cur
  match s.me.chan.inbox with
  | [] => .next s
  | m :: _ =>
    .next (s.oneOf ((m.runs.zipIdx).map fun p => (p.1.members.filter (p.1.chunkDue k)).map fun c =>
      fun (s : State) => s.chChunk core m p.2 p.1 k c).flatten)

/-! ## Landing, follow-on commands, retirement (R266, R267) -/

/-- Every completion write before the final arrival has been made. -/
def ChRun.completed (r : ChRun) : Bool :=
  recDone (Rec.w r.words 0) == 0 ||
    (List.range ((r.total + 511) / 512)).all fun k => r.members.all fun c => r.chunks.contains (c, k)

/-- Word 0 with OWN clear, written back (R266). -/
def ownClear (w0 : Word) : Word := keep w0 0x7FFFFFFFFFFFFFFF

/-- The cores that a record's follow-on command goes to (R266). -/
def ChRun.followers (r : ChRun) : List Nat :=
  if recFmc (Rec.w r.words 0) then r.members else [recFcore (Rec.w r.words 0)]

/-- The final arrival of DONE 01 at a core (R265). -/
def State.chFinal (s : State) (core : Nat) (m : ChCmd) (i : Nat) (r : ChRun) (c : Nat) : Option State :=
  s.chSignal core m i c (Rec.tgt r.words) (fun s x => s.arriveAt c x 0 1 m.stamp) fun r => { r with final := c :: r.final }

/-- A record that has landed: its follow-on commands are held for delivery, at most four of a command's at once (R266). -/
def State.chPass (s : State) (core : Nat) (m : ChCmd) (i : Nat) (r : ChRun) : Option State :=
  let w : Rec := r.words
  if w.foff = 0 then some (s.updRun core i fun r => { r with passed := true })
  else if 4 ≤ (s.core core).chan.undelivered m then none
  else match r.followers.find? fun c => !s.inPart (s.core core).pid.toNat c with
    | some c => some (s.chFail core i ⟨.ceFollow, wordOf c, r.va⟩)
    | none =>
      let img := r.va + wordOf (32 * w.foff)
      match s.chFetch core m ((List.range 4).map fun q => img + wordOf (8 * q)) with
      | .wait => none
      | .entered s => some s
      | .fail c va s => some (s.chFail core i (ceXlate c va))
      | .ok vs s =>
        match firstPoison vs with
        | some q => some (s.chFail core i ⟨.cePoison, 2, img + wordOf (8 * q)⟩)
        | none =>
          let g := fun q => (vs.getD q none).getD 0
          let fs := r.followers.map fun c => (⟨c, g 0, g 1, g 2, g 3, m.stamp, m.pc, m.sup, m.value, r.va⟩ : Follow)
          some ((s.updRun core i fun r => { r with passed := true }).updChan core fun c => { c with held := c.held ++ fs })

/-- Word 0 written back with OWN clear, once the follow-on commands are delivered (R266, R277). -/
def State.chClear (s : State) (core : Nat) (m : ChCmd) (i : Nat) (r : ChRun) : Option State :=
  if (s.core core).chan.held.any fun f => f.record == r.va && f.value == m.value then none
  else match s.translateNow core m.sup r.va .w with
    | (.fault c _, s) => some (s.chFail core i (ceXlate c r.va))
    | (.miss, _) => none
    | (.ok x, s) =>
      if s.chBehind core m x.part then none
      else match s.ringAsk core x r.va 8 true with
        | .wait => none
        | .entered s => some s
        | .go entry =>
          match (match unanswered entry with
            | some c => EngAns.fail c s
            | none => s.writeAt core x 8 (ownClear (Rec.w r.words 0))) with
          | .wait => none
          | .fail c s => some (s.chFail core i ⟨.ceWrite, c.code.zeroExtend 64, r.va⟩)
          | .ok s => some ((s.unmark core entry).updRun core i fun r => { r with cleared := true })

/-- The ways in which the end of a record goes on. -/
def ChRun.ends (core : Nat) (m : ChCmd) (i : Nat) (r : ChRun) : List (State → Option State) :=
  let due := if recDone (Rec.w r.words 0) = 1 then r.members.filter fun c => !r.final.contains c else []
  if r.cleared then []
  else if r.passed then [fun s => s.chClear core m i r]
  else if r.landed then [fun s => s.chPass core m i r]
  else if r.done < r.total ∨ !r.pieces.isEmpty ∨ !r.completed then []
  else if due.isEmpty then [fun s => some (s.updRun core i fun r => { r with landed := true })]
  else due.map fun c => fun s => s.chFinal core m i r c

/-- RECORD_LANDING (R265, R266): the final arrivals, the landing, the follow-on commands and OWN of a record, one after
another. -/
def execRecordLanding (s : State) : Out :=
  match s.me.chan.inbox with
  | [] => .next s
  | m :: _ => .next (s.oneOf ((m.runs.zipIdx).map fun p => p.1.ends s.cur m p.2).flatten)

/-- The matrix unit of a core accepts follow-on commands now (R253). -/
def State.follows (s : State) (core : Nat) : Bool :=
  let k := s.core core
  (match k.act with
    | some a => a.ending.isNone
    | none => false) && k.outerCtx.mx.follow && !s.requested core && decide (k.mx.queued < 8)

/-- FOLLOW_ON_DELIVERY (R253, R266): a held command enters its matrix inbox. -/
def execFollowOnDelivery (idx : Nat) (s : State) : Out :=
  let core := s.cur
  match s.me.chan.held[idx]? with
  | some f =>
    if (s.me.chan.held.take idx).any (fun g => g.core == f.core) ∨ !s.follows f.core then .next s
    else
      let cmd : MxCmd :=
        ⟨f.w0, f.w1, f.w2, f.w3, f.stamp, some core, f.pc, f.sup, f.value, false, 0, 0, false⟩
      let s := s.updCore f.core fun k => { k with mx := { k.mx with inbox := k.mx.inbox ++ [cmd], issued := k.mx.issued + 1 } }
      .next (s.updChan core fun c =>
        { c with
          held := dropNth c.held idx
          inbox := c.inbox.map fun m => if m.value = f.value then { m with out := m.out + 1 } else m })
  | none => .next s

/-- Every record that a command has started has retired, and it starts no more (R267, R270). -/
def Channel.spent (c : Channel) (m : ChCmd) : Bool :=
  m.runs.all ChRun.cleared && !(c.held.any fun f => f.value == m.value) && m.out == 0 &&
    (m.cancelled || (match m.runs.getLast? with
      | some r => Rec.next r.words == 0
      | none => false))

/-- CHAIN_RETIRE (R267): the channel's oldest command retires. A suspended activation that waits to end may then leave. -/
def execChainRetire (s : State) : Out :=
  match s.me.chan.inbox with
  | m :: _ => .next (if s.me.chan.spent m then (s.chRetire s.cur).leaveSusp s.cur else s)
  | [] => .next s

/-! ## Instructions (R268–R270) -/

/-- The timeline of the channel as the activation sees a value of it (R259). -/
def Core.chSeen (k : Core) (v : Nat) : Word := wordOf v + (match k.act with | some a => a.chOffset | none => 0)

def execChain (a : Src) (d : Dst) (s : State) : Out :=
  run (.one d) (do
    let vs ← peek [.one a] (.one d) (pure ())
    let va := vs.getD 0 0
    aligned va 64
    let s ← get
    let k := s.me
    if 8 ≤ k.chan.queued then pause (plainWait .drain)
    popPorts [.one a]
    let v := k.chan.issued + 1
    let m : ChCmd := ⟨va, k.ctx.st, k.ctx.priv, k.ctx.pc, v, true, k.nextId, [], 0, false⟩
    modMe fun k =>
      { k with
        chan := { k.chan with inbox := k.chan.inbox ++ [m], issued := v }
        act := k.act.map fun a => { a with chLive := a.chLive + 1, chLast := k.chSeen v } }
    wr d (k.chSeen v)) s

/-- The last value that the activation received for a context (R269). -/
def Act.lastOf (a : Act) (h : Word) : Word :=
  match fld h 0 2 with
  | 0 => a.mxLast
  | 1 => a.chLast
  | _ => wordOf (((a.nm.reverse.find? fun n => n.stack == fld h 8 4 && n.ctx == fld h 2 3).map fun n => n.value).getD 0)

/-- Item 10 of `cstat` (R269). -/
def Core.chStat (k : Core) : Word :=
  bit1 (match k.chan.inbox with | m :: _ => !m.runs.isEmpty | [] => false) 0 ||| bit1 (!k.chan.held.isEmpty) 1 |||
    wordOf (min k.chan.queued 8 * 4 + (match k.act with | some a => sat 255 a.chPoison | none => 0) * 256)

def execCstat (a b : Src) (d : Dst) (s : State) : Out :=
  run (.one d) (do
    let vs ← ops [.one a, .one b] (.one d)
    let h := vs.getD 0 0
    let item := vs.getD 1 0
    let s ← get
    require (s.handleOk h && decide (item.toNat ≤ 2) && (item != 2 || fld h 0 2 == 1)) .badOperand 0 0
    let k := s.me
    let last := match k.act with
      | some x => x.lastOf h
      | none => 0
    wr d (if item = 0 then s.timeline h else if item = 1 then last else k.chStat)) s

/-- `ccan` (R270): cancelled commands retire in their turn with no further request, write or completion; undelivered
follow-on commands are discarded. -/
def Channel.cancel (c : Channel) : Channel :=
  { c with
    inbox := c.inbox.map fun m => if m.owned then { m with cancelled := true, runs := [] } else m
    held := c.held.filter fun f => !c.inbox.any fun m => m.owned && m.value == f.value }

def execCcan (d : Dst) (s : State) : Out :=
  run (.one d) (do
    let _ ← ops [] (.one d)
    let s ← get
    let k := s.me
    let v := match (k.chan.inbox.filter fun m => m.owned).getLast? with
      | some m => k.chSeen m.value
      | none => k.chSeen k.chan.retired
    modify fun s => s.clearMarks s.cur
    modMe fun k => { k with chan := k.chan.cancel, act := k.act.map fun a => { a with chLast := v } }
    wr d v) s

end Sys2Proof.Machine
end

