-- ==== Sys2Proof/Machine/System.lean ====
section
/-! DEFINITION. Control registers and system instructions (spec/06_core_state.md R122, R125, R126; spec/10_core_traps.md
R211, R212, R217, R218, R222–R224; 09 R181; 12 R232; 16 R285; 17 R309; 25 R414; 02 R35). -/

namespace Sys2Proof.Machine

/-! ## Control registers (R125, R126, R223) -/

/-- Who may read or write a register. -/
inductive RegRight where
  | none | u | s
  deriving DecidableEq, Repr

/-- The rights of a register number: read, write; none for a number that no table lists (R125, R223). -/
def cregRights (n : Nat) : Option (RegRight × RegRight) :=
  if n ≤ 1 then some (.u, .none)
  else if n = 2 then some (.u, .u)
  else if 0x100 ≤ n ∧ n ≤ 0x102 then some (.u, .u)
  else if n = 0x200 then some (.u, .u)
  else if n = 0x201 then some (.u, .s)
  else if 0x220 ≤ n ∧ n ≤ 0x237 then some (.u, .u)
  else if 0x238 ≤ n ∧ n ≤ 0x23E then some (.u, .none)
  else if n = 0x23F then some (.s, .s)
  else if 0x240 ≤ n ∧ n ≤ 0x24B then some (.u, .s)
  else if n = 0x300 ∨ n = 0x301 then some (.u, .u)
  else if 0x302 ≤ n ∧ n ≤ 0x307 then some (.u, .none)
  else if n = 0x308 then some (.u, .s)
  else if 0x400 ≤ n ∧ n ≤ 0x409 then some (.u, .u)
  else if n = 0x40A then some (.u, .none)
  else if n = 0x40B then some (.u, .s)
  else if 0x500 ≤ n ∧ n ≤ 0x502 then some (.u, .s)
  else if n = 0x600 then some (.u, .s)
  else if n = 0x601 ∨ n = 0x602 then some (.u, .none)
  else if 0x610 ≤ n ∧ n ≤ 0x615 then some (.u, .s)
  else none

/-- The right admits an access at a level. -/
def RegRight.admits (r : RegRight) (sup : Bool) : Bool :=
  match r with
  | .none => false
  | .u => true
  | .s => sup

/-- INBSTAT (R286). -/
def Core.inbstat (k : Core) : Word :=
  wordOf (k.disp.inbox.length % 32 + k.drops % 256 * 256) ||| bit1 (k.disp.current.isSome || k.inl.isSome) 5

/-- A listed register's value for the running code. -/
def State.creg (s : State) (n : Nat) : Word :=
  let k := s.me
  let c := k.ctx
  if n = 0 then wordOf s.cur
  else if n = 1 then k.pid.zeroExtend 64
  else if n = 2 then c.cstat
  else if n = 0x100 then c.fmt
  else if n = 0x101 then c.fps
  else if n = 0x102 then c.st
  else if n = 0x200 then k.cmask.zeroExtend 64
  else if n = 0x201 then k.inbstat
  else if 0x238 ≤ n ∧ n ≤ 0x23E then 0
  else if 0x220 ≤ n ∧ n ≤ 0x23F then vget 0 k.clsh (n - 0x220)
  else if n = 0x240 then k.dord
  else if 0x241 ≤ n ∧ n ≤ 0x244 then vget 0 k.rring (n - 0x241)
  else if 0x245 ≤ n ∧ n ≤ 0x248 then vget 0 k.rrpos (n - 0x245)
  else if n = 0x249 then k.dqcfg
  else if n = 0x24A then k.dqpos
  else if n = 0x24B then k.steal
  else if n = 0x300 then c.trap.tbase
  else if n = 0x301 then c.trap.tframe
  else if n = 0x302 then c.trap.tcause
  else if n = 0x303 then c.trap.tpc
  else if n = 0x304 then c.trap.taddr
  else if n = 0x305 then c.trap.tinfo
  else if n = 0x306 then c.trap.tdpc
  else if n = 0x307 then c.trap.tstat
  else if n = 0x308 then k.sysvec
  else if n = 0x400 then c.mx.fmta
  else if n = 0x401 then c.mx.fmtb
  else if n = 0x402 then c.mx.scpa
  else if n = 0x403 then c.mx.scpb
  else if n = 0x404 then c.mx.scf
  else if n = 0x405 then c.mx.tsa
  else if n = 0x406 then c.mx.tsb
  else if n = 0x407 then c.mx.tdim
  else if n = 0x408 then c.mx.tof
  else if n = 0x409 then k.mstat
  else if n = 0x40A then s.timeline 0
  else if n = 0x40B then k.mxsave
  else if n = 0x500 then k.memctl
  else if n = 0x501 then k.tagto
  else if n = 0x502 then k.portto
  else if n = 0x600 then k.ybud
  else if n = 0x601 then wordOf c.ycnt
  else if n = 0x602 then c.gate.zeroExtend 64
  else if n = 0x610 then c.lteam
  else if n = 0x611 then c.lgroup
  else if n = 0x612 then c.lgrid
  else if n = 0x613 then c.lgraph
  else if n = 0x614 then c.lpart
  else c.lsrc

/-- The bits of a register that are not reserved. -/
def cregMask (n : Nat) : Nat :=
  if n = 2 then 0xFFFF003F
  else if n = 0x100 ∨ n = 0x400 ∨ n = 0x401 ∨ n = 0x240 then 7
  else if n = 0x101 then 0x3FF
  else if n = 0x200 then 0x80FFFFFF
  else if n = 0x201 then 0xFF3F
  else if 0x220 ≤ n ∧ n ≤ 0x23F then 0xFFFFFFFFFFFFFFF9
  else if 0x241 ≤ n ∧ n ≤ 0x244 then 0x1F1FFF8
  else if n = 0x249 then 0x1F1FFC0
  else if n = 0x24B then 0xFFFFFF
  else if n = 0x300 ∨ n = 0x308 then 0x00FFFFFFFFFFFFF9
  else if n = 0x301 then 0x00FFFFFFFFFFFE00
  else if n = 0x402 ∨ n = 0x403 then 0x7FFFFF
  else if n = 0x404 ∨ n = 0x408 then 0x3F
  else if n = 0x405 ∨ n = 0x406 then 0xFFFFFFFF
  else if n = 0x407 then 0x3FFFFFFFF
  else if n = 0x409 then 0xF003F
  else if n = 0x40B then 0xFFFFFFFFFC000
  else if n = 0x500 then 1
  else if n = 0x501 ∨ n = 0x502 then 0x7F
  else if n = 0x600 then 0x1FFFF
  else 0xFFFFFFFFFFFFFFFF

/-- A value that a register's map marks reserved (R125). -/
def cregBad (n : Nat) (v : Word) : Bool :=
  keep v (cregMask n) != v ||
    (if n = 0x600 then decide (v.toNat < 16) || decide (65536 < v.toNat)
    else if 0x241 ≤ n ∧ n ≤ 0x244 then decide (12 < fld v 20 4)
    else if n = 0x249 then decide (11 < fld v 20 4)
    else if n = 0x404 then fld v 4 2 == 3
    else if n = 0x407 then
      decide (fld v 0 5 < 1) || decide (16 < fld v 0 5) || decide (fld v 5 5 < 1) || decide (16 < fld v 5 5)
        || decide (fld v 10 7 < 1) || decide (64 < fld v 10 7)
    else false)

/-- CSTAT after a write (R126): at U GATELOSS alone; ABSENT is kept. -/
def Ctx.writeCstat (c : Ctx) (v : Word) : Ctx :=
  let c := if bit v 1 then { c with gateloss := false } else c
  if c.priv then { c with priv := bit v 0, resumed := bit v 2, retries := v.extractLsb' 3 3 } else c

/-- A register written by the running code, its rights and value having been checked. -/
def State.cregWrite (s : State) (n : Nat) (v : Word) : State :=
  let sup := s.ctx.priv
  if n = 2 then s.updCtx fun c => c.writeCstat v
  else if n = 0x100 then s.updCtx fun c => { c with fmt := v }
  else if n = 0x101 then s.updCtx fun c => { c with fps := v }
  else if n = 0x102 then s.updCtx fun c => { c with st := v }
  else if n = 0x200 then s.updMe fun k =>
    { k with cmask := (v.truncate 32 &&& 0xFFFFFF#32) ||| (if sup then v.truncate 32 else k.cmask) &&& 0x80000000#32 }
  else if n = 0x201 then s.updMe fun k => if fld v 8 8 = 0 then { k with drops := 0 } else k
  else if 0x220 ≤ n ∧ n ≤ 0x23F then s.updMe fun k => { k with clsh := vset k.clsh (n - 0x220) v }
  else if n = 0x240 then s.updMe fun k => { k with dord := v }
  else if 0x241 ≤ n ∧ n ≤ 0x244 then s.updMe fun k => { k with rring := vset k.rring (n - 0x241) v }
  else if 0x245 ≤ n ∧ n ≤ 0x248 then s.updMe fun k => { k with rrpos := vset k.rrpos (n - 0x245) v }
  else if n = 0x249 then s.updMe fun k => { k with dqcfg := v }
  else if n = 0x24A then s.updMe fun k => { k with dqpos := v }
  else if n = 0x24B then s.updMe fun k => { k with steal := v }
  else if n = 0x300 then s.updCtx fun c => { c with trap := { c.trap with tbase := v } }
  else if n = 0x301 then s.updCtx fun c => { c with trap := { c.trap with tframe := v } }
  else if n = 0x308 then s.updMe fun k => { k with sysvec := v }
  else if n = 0x400 then s.updCtx fun c => { c with mx := { c.mx with fmta := v } }
  else if n = 0x401 then s.updCtx fun c => { c with mx := { c.mx with fmtb := v } }
  else if n = 0x402 then s.updCtx fun c => { c with mx := { c.mx with scpa := v } }
  else if n = 0x403 then s.updCtx fun c => { c with mx := { c.mx with scpb := v } }
  else if n = 0x404 then s.updCtx fun c => { c with mx := { c.mx with scf := v } }
  else if n = 0x405 then s.updCtx fun c => { c with mx := { c.mx with tsa := v } }
  else if n = 0x406 then s.updCtx fun c => { c with mx := { c.mx with tsb := v } }
  else if n = 0x407 then s.updCtx fun c => { c with mx := { c.mx with tdim := v } }
  else if n = 0x408 then s.updCtx fun c => { c with mx := { c.mx with tof := v } }
  else if n = 0x409 then s.updCtx fun c =>
    { c with mx := { c.mx with follow := bit v 5, flags := v.extractLsb' 16 4 } }
  else if n = 0x40B then s.updMe fun k => { k with mxsave := v }
  else if n = 0x500 then s.updMe fun k => { k with memctl := v }
  else if n = 0x501 then s.updMe fun k => { k with tagto := v }
  else if n = 0x502 then s.updMe fun k => { k with portto := v }
  else if n = 0x600 then s.updMe fun k => { k with ybud := v }
  else if n = 0x610 then s.updCtx fun c => { c with lteam := v }
  else if n = 0x611 then s.updCtx fun c => { c with lgroup := v }
  else if n = 0x612 then s.updCtx fun c => { c with lgrid := v }
  else if n = 0x613 then s.updCtx fun c => { c with lgraph := v }
  else if n = 0x614 then s.updCtx fun c => { c with lpart := v }
  else if n = 0x615 then s.updCtx fun c => { c with lsrc := v }
  else s

/-- A number that no range lists (R125, R223). -/
def unlisted (n : BitVec 12) : Bool := (cregRights n.toNat).isNone

/-- PRIV_REG where a right is refused (R223). -/
def needRight (n : BitVec 12) (write : Bool) : CM Unit := do
  let c ← ctx
  let ok := match cregRights n.toNat with
    | some (r, w) => (if write then w else r).admits c.priv
    | none => false
  require ok .privReg 0 (n.zeroExtend 64)

/-- A new value for a register: refused where it sets a reserved bit or value, or bit 31 of CMASK at U (R125, R285). -/
def putCreg (n : BitVec 12) (v : Word) : CM Unit := do
  let s ← get
  if n = 0x200 && bit v 31 && !s.ctx.priv && !s.me.cmask.getLsbD 31 then raise .privReg 0 (n.zeroExtend 64)
  require (!cregBad n.toNat v) .reservedField 0 0
  set (s.cregWrite n.toNat v)

def execGetc (d : Dst) (n : BitVec 12) (s : State) : Out :=
  run (.one d) (do
    reservedIf (unlisted n)
    checks [] (.one d)
    needRight n false
    let _ ← ops [] (.one d)
    let s ← get
    wr d (s.creg n.toNat)) s

def execSetc (a : Src) (n : BitVec 12) (s : State) : Out :=
  run .none (do
    reservedIf (unlisted n)
    let vs ← ops [.one a] .none
    needRight n true
    putCreg n (vs.getD 0 0)) s

/-- `swpc` and `setcb`: a new value made of the old one and the source (R223). -/
def exchangeCreg (a : Src) (d : Dst) (n : BitVec 12) (f : Word → Word → Word) (s : State) : Out :=
  run (.one d) (do
    reservedIf (unlisted n)
    let vs ← ops [.one a] (.one d)
    needRight n false
    needRight n true
    let s ← get
    let old := s.creg n.toNat
    putCreg n (f old (vs.getD 0 0))
    wr d old) s

def execSwpc (a : Src) (d : Dst) (n : BitVec 12) (s : State) : Out := exchangeCreg a d n (fun _ v => v) s

def execSetcb (a : Src) (d : Dst) (k : Bool) (n : BitVec 12) (s : State) : Out :=
  exchangeCreg a d n (fun old v => if k then old &&& ~~~v else old ||| v) s

/-! ## sys and tret (R217, R218) -/

/-- CALL_NOT_LAST of `sys` (R218). An unassigned device service is a reserved value of the encoding and comes before it
(R64, R414). -/
def needLast : CM Unit := do
  let c ← ctx
  require c.isLast .callNotLast 0 0

def execSys (a : Src) (n : BitVec 12) (s : State) : Out :=
  runSelf .none (do
    let s ← get
    let c := s.ctx
    reservedIf (decide (0xF00 ≤ n.toNat) && c.priv)
    needLast
    let vs ← peek [.one a] .none (pure ())
    let s ← get
    require (decide (n.toNat < 0xF00) && !c.trap.intrap && bit s.me.sysvec 0) .privInstr 0 0
    if s.entryWaits then pause (plainWait .drain)
    popPorts [.one a]
    retireWith fun k => k - 1
    let s ← get
    let t := { c.trap with tcause := 0, tpc := c.pc, taddr := vs.getD 0 0, tinfo := n.zeroExtend 64, tdpc := 0,
                           intrap := true, insys := true }
    leaveWith (s.trapEnter (causeOf .trapSw (vs.getD 0 0) (n.zeroExtend 64)) t c.blockEnd true (hdrField s.me.sysvec))) s

/-- The context that a frame reloads (R217), at a level; YCNT is not reloaded. `kept` is what the core kept beside the
frame's words. -/
def State.returned (s : State) (c : Ctx) (rd : FrameReader) (h : Word) (sup : Bool) (kept : Kept) : Ctx :=
  let g := fun o => (rd o).getD 0
  let gate := gateFrom c.gate (g 0x180)
  { c with
    regs := frameRegs rd (fld (g 0x108) 0 16) .present
    trellis := frameTrellis rd (fld (g 0x108) 16 5)
    loops := s.frameLoops s.cur sup kept.loops rd
    fmt := keep (g 0x160) 7, fps := keep (g 0x168) 0x3FF, st := g 0x170, gate := gate
    bankLost := gate != 0 && (gate == 2 || kept.lost), lsrc := g 0x188, gateloss := bit (g 0x158) 1, priv := sup
    trap := { c.trap with intrap := false, insys := false }
    pc := g 0x100, hdr := g 0x1C8, len := hdrLen h, kind := hdrKind h, latch := none, spent := false }

/-- A cause that `tret` passes to containment: the walk ends the instruction, unless the cause is ignored (R220). -/
def tretContain (c : Cause) (addr info : Word) : CM Unit := do
  let s ← get
  match s.containCause (causeOf c addr info) with
  | (s', false) => leaveWith s'
  | (s', true) => set s'

/-- The resume address lies in the block, or at its end (R217). -/
def resumeOk (hdr h resume : Word) : Bool :=
  decide (resume.toNat % 4 = 0) && decide (hdr.toNat + 8 ≤ resume.toNat)
    && decide (resume.toNat ≤ hdr.toNat + 8 + 4 * hdrLen h)

/-- The words of a frame at HDR and at the resume address lead back into a block: its header, or none (R217). -/
def State.resumeBlock (s : State) (core : Nat) (sup : Bool) (rd : FrameReader) : Option Word :=
  let hdr := (rd 0x1C8).getD 0
  let s := (s.translateNow core sup hdr .x).2
  let s := (s.translateNow core sup (hdr + 8) .x).2
  match s.checkHeader core sup hdr .transfer with
  | .ok h => if resumeOk hdr h ((rd 0x100).getD 0) then some h else none
  | _ => none

/-- `tret` and `tret:up` (R217). The instruction buffer is empty from here on, however it ends (R12). TINFO of TRAP_FRAME is
the original code: TCAUSE's, and for an unnamed code of `tret:up` that code (R225). -/
def execTret (e : Bool) (s : State) : Out :=
  runSelf .none (do
    let c ← ctx
    require c.trap.intrap .privInstr 0 0
    let orig := keep c.trap.tcause 0xFF
    let s ← get
    match s.frameKey with
    | none =>
      modMe fun k => { k with ibuf := [] }
      tretContain .trapFrame 0 orig
    | some f =>
      if s.frameBusy f then pause (plainWait .drain)
      modMe fun k => { k with ibuf := [] }
      let rd := s.frameAt f
      if e then
        match rd 0x1A0 with
        | none => tretContain .trapFrame 0 orig
        | some w =>
          modCtx fun c => { c with trap := { c.trap with intrap := false, insys := false } }
          match Cause.ofCode (w.truncate 8) with
          | none => tretContain .trapFrame 0 (keep w 0xFF)
          | some k =>
            tretContain k ((rd 0x1B0).getD 0) ((rd 0x1B8).getD 0)
            retire
      else if (frameReads rd).any fun o => (rd o).isNone then tretContain .trapFrame 0 orig
      else
        let sup := c.priv && bit ((rd 0x158).getD 0) 0
        match s.resumeBlock s.cur sup rd with
        | some h =>
          retireWith fun k => k - 1
          modCtx fun t => { s.returned t rd h sup c.frameKept with ycnt := t.ycnt }
        | none => tretContain .badTarget 0 0) s

/-! ## RESUME_TEAM (R222, R414) -/

/-- The words of a checkpoint at a physical address, as a core reads them back; none for a poisoned one (R222). -/
def State.ckptAt (s : State) (core area : Nat) : FrameReader := fun o =>
  match s.place (dieOf core) (area + o) with
  | .spad k => if s.tagAt k = tagPoison then none else some (s.word k)
  | .hbm k => if s.poisoned k then none else some (s.word k)
  | _ => none

/-- A member of a stopped team reloads its checkpoint as `tret` reloads a frame, and replays (R222). A member that has yet
to enter its first block stands in its entry state, which is its checkpoint. -/
def State.replay (s : State) (core rank : Nat) (area : Nat) : State :=
  let was := s.cur
  let c := (s.core core).outerCtx
  if c.len = 0 then s else
  let rd := s.ckptAt core (area + 512 * rank)
  let s := { s with cur := core }
  let sup := c.priv && bit ((rd 0x158).getD 0) 0
  let s :=
    if (frameReads rd).any fun o => (rd o).isNone then
      (s.containCause (causeOf .trapFrame 0 (keep c.trap.tcause 0xFF))).1
    else match s.resumeBlock core sup rd with
      | some h => s.updMe fun k =>
          { k.setOuter (s.returned c rd h sup c.ckptKept) none with ibuf := [], trapping := none }
      | none => (s.containCause (causeOf .badTarget 0 0)).1
  { s with cur := was }

/-- The stopped team whose descriptor lies at an address: its launch, group, team and the team itself. -/
def State.stoppedTeam (s : State) (key : Nat) : Option (Nat × Nat × Nat × Team) :=
  s.launches.findSome? fun kl => kl.2.groups.findSome? fun g =>
    (g.teams.zipIdx).findSome? fun p =>
      if p.1.stopped && s.descKey (p.1.cores.headD 0) (wordOf p.1.desc) == key then some (kl.1, g.index, p.2, p.1) else none

/-- The team resumes: a retry of its level is used, and every member replays (R222). -/
def State.resumeTeam (s : State) (key : Nat) : State :=
  match s.stoppedTeam key with
  | none => s
  | some (l, g, t, tm) =>
    let s := s.updLaunch l fun x => x.updTeam g t fun tm => { tm with stopped := false, bar := Barrier.empty }
    let s := s.writeWord key (setFld (s.word key) 5 3 (lvlUsed (s.word key) + 1))
    let area := (s.word (key + 24)).toNat
    (tm.cores.zipIdx).foldl (fun s p => if tm.live.contains p.1 then s.replay p.1 p.2 area else s) s

/-- A device service (R414): at U PRIV_INSTR. A descriptor that names no stopped team changes nothing. -/
def execResumeTeam (a : Src) (s : State) : Out :=
  run .none (do
    needLast
    let vs ← peek [.one a] .none (pure ())
    let c ← ctx
    require c.priv .privInstr 0 0
    popPorts [.one a]
    modify fun s => s.resumeTeam (s.descKey s.cur (vs.getD 0 0))) s

/-! ## The others (R224) -/

/-- Reserved bits of the pair of `xinv` (R224). -/
def xinvBad (lo hi : Word) : Bool := fld hi 18 46 != 0 || fld lo 6 6 != 0 || fld lo 56 8 != 0 || decide (44 < fld lo 0 6)

/-- `xinv` (R35, R224): TGEN advances, and an invalidation is on its way to every live cluster engine. TGEN advances when
`xinv` is issued (DESIGN CHOICE, log 69: R35 says only that it has advanced by the commit). -/
def execXinv (a b : Src) (s : State) : Out :=
  run .none (do
    let us := [Use.pair a, Use.one b]
    let vs ← peek us .none (pure ())
    let c ← ctx
    require c.priv .privInstr 0 0
    let lo := vs.getD 0 0
    let hi := vs.getD 1 0
    require (!xinvBad lo hi) .reservedField 0 0
    let x ← checked (vs.getD 2 0) 8 .w
    popPorts us
    modify fun s =>
      let i : Inval := ⟨keep lo 0xFFFFFFFFFFF000, fld lo 0 6, hi.truncate 16, bit hi 16, bit hi 17, x.pa, s.tgen + 1, c.st⟩
      s.liveClusters.foldl (fun s cl => s.updCluster cl fun k => { k with invals := k.invals ++ [i] })
        { s with tgen := s.tgen + 1 }) s

def execXprobe (a : Src) (d : Dst) (s : State) : Out :=
  run (.one d) (do
    let vs ← peek [.one a] (.one d) (pure ())
    let s ← get
    match s.translate s.cur s.ctx.priv (vs.getD 0 0) .r with
    | .miss => awaitWalk (vs.getD 0 0)
    | r =>
      popPorts [.one a]
      wr d (probeWord r)) s

def execStamp (a : Src) (d : Dst) (f : BitVec 2) (s : State) : Out :=
  if f = 1 then
    run (.one d) (do
      reservedIf (a != .q 0)
      let _ ← ops [] (.one d)
      let s ← get
      wr d (wordOf s.ns)) s
  else
    run .none (do
      reservedIf (decide (2 ≤ f.toNat) || d != .h 0)
      let vs ← ops [.one a] .none
      modCtx fun c => { c with st := vs.getD 0 0 }) s

def execCyc (d : Dst) (r : Bool) (s : State) : Out :=
  run (.one d) (do
    let _ ← ops [] (.one d)
    let s ← get
    wr d (if r then wordOf s.me.retired else wordOf s.cycles)) s

def execEbreak (i : BitVec 13) (s : State) : Out := run .none (raise .trapSw 0 (i.zeroExtend 64)) s

def execRfill (s : State) : Out := run .none (fillRegs (List.range 16)) s

def execGate (m : BitVec 2) (s : State) : Out :=
  run .none (do
    reservedIf (m == 3#2)
    modCtx fun c =>
      if m = 0 then c.wake
      else if m = 1 then { c with gate := 1 } else { c with gate := 2, bankLost := true }) s

/-! ## Translation engines (R30, R34, R35) -/

/-- TRANSLATION_WALK (R30): a walker completes the walk of a queued miss; its leaf enters the buffer. -/
def execTranslationWalk (cluster miss : Nat) (s : State) : Out :=
  let k := s.cluster cluster
  match k.misses[miss]? with
  | none => .next s
  | some m =>
    if m.result.isSome then .next s else
    match s.walk (cluster / 256) m.root m.va with
    | (.leaf pte size, s) =>
      .next (s.updCluster cluster fun k =>
        { k.fill s.victimEntry m.asid m.va pte size with misses := dropNth k.misses miss })
    | (.miss lvl bad, s) =>
      .next (s.updCluster cluster fun k =>
        { k with misses := setNth k.misses miss { m with result := some (.miss lvl bad) } })

/-- A buffered translation that an invalidation removes (R35, R224). -/
def Inval.hits (i : Inval) (t : Tlb) : Bool :=
  let span := 2 ^ i.log2 * 4096
  let lo := i.va.toNat / span * span
  let a := t.page * 2 ^ t.size
  (if bit t.pte 7 then i.glob else t.asid == i.asid) && (i.all || (decide (lo < a + 2 ^ t.size) && decide (a < lo + span)))

/-- TRANSLATION_INVALIDATION (R35): matching entries go, the generation is adopted, older walks start again, and one is
added to the arrival word. A failure there is passed on by the engine (R275). -/
def execTranslationInvalidation (cluster : Nat) (s : State) : Out :=
  let k := s.cluster cluster
  match k.invals with
  | [] => .next s
  | i :: rest =>
    let s := s.updCluster cluster fun k =>
      { k with
        invals := rest, gen := max k.gen i.gen, tlb := k.tlb.filter fun t => !i.hits t
        misses := k.misses.map fun m => if m.gen < i.gen then { m with gen := i.gen, result := none } else m }
    match s.arrive (s.place (dieOf (cluster * 16)) i.arr) 1 1 i.stamp with
    | .ok s => .next s
    | .error (c, info) => .next (s.ceFault (cluster * 16) c 0 info)

end Sys2Proof.Machine
end

