-- ==== Sys2Proof/Machine/Messages.lean ====
section
/-! DEFINITION. Messages, inboxes, inline active messages and in-network reduction (spec/16_messages.md R281–R302). -/

namespace Sys2Proof.Machine

/-! ## Headers, classes and inboxes (R282, R287–R289) -/

/-- The header word of a message (R287). -/
def Message.header (m : Message) : Word :=
  wordOf (m.tag.toNat + m.src % 2 ^ 14 * 2 ^ 32 + m.payload.length % 8 * 2 ^ 56 + m.cls % 32 * 2 ^ 59) ||| bit1 m.inl 55

/-- PRIO of a class in the router of a cluster (R282, R299). -/
def State.classPrio (s : State) (cl cls : Nat) : Nat := fld (routerRead (s.router cl) 2 (8 * cls)) 3 2

/-- CMASK masks a class (R289). -/
def Core.masked (k : Core) (cls : Nat) : Bool := k.cmask.getLsbD cls

/-- CLSH.PRIO of a class (R286). -/
def Core.clshPrio (k : Core) (cls : Nat) : Nat := fld (vget 0 k.clsh cls) 61 3

/-- A waiting message goes before another: higher priority, then lower class; age decides the rest (R289). -/
def Core.goesFirst (k : Core) (a b : Message) : Bool :=
  decide (k.clshPrio b.cls < k.clshPrio a.cls) || (k.clshPrio a.cls == k.clshPrio b.cls && decide (a.cls < b.cls))

/-- The message that R289 chooses among those that a test admits. -/
def Core.chosen (k : Core) (p : Message → Bool) : Option Message :=
  (k.disp.inbox.filter fun m => p m && !k.masked m.cls).foldl (fun best m => match best with
    | none => some m
    | some b => if k.goesFirst m b then some m else some b) none

/-- The reply that a `sendw` of the core awaits (R297). -/
def Core.awaitsReply (k : Core) (m : Message) : Bool :=
  let w := match k.inl with
    | some i => i.outerWait
    | none => k.wait
  match w with
  | some w => w.what == .reply && m.cls == fld w.addr 52 5 && m.src == fld w.addr 32 14 && m.tag.toNat == fld w.addr 0 32
  | none => false

/-- The inbox of 16 has a free entry for a message: two are kept for awaited replies and one for class 31, and what goes
beyond them stands among the other 13 (R288). -/
def Core.hasRoom (k : Core) (m : Message) : Bool :=
  let awaited := (k.disp.inbox.filter k.awaitsReply).length
  let high := (k.disp.inbox.filter fun x => !k.awaitsReply x && x.cls == 31).length
  let others := k.disp.inbox.length - awaited - high
  decide (others + (awaited - 2) + (high - 1) < 13) ||
    (if k.awaitsReply m then decide (awaited < 2) else m.cls == 31 && high == 0)

/-- MESSAGE_ACCEPT (R284, R291): a message enters its inbox once there is room; messages of one class from one core to one
core in the order sent; none before an aged one of higher priority. A message to the kiosk becomes its request. -/
def execMessageAccept (msg : Nat) (s : State) : Out :=
  match s.msgs[msg]? with
  | none => .next s
  | some f =>
    let before := s.msgs.take msg
    let prio := fun (x : Flight) => s.classPrio (clusterOf f.dest) x.msg.cls
    if (before.any fun g => g.dest == f.dest && g.msg.cls == f.msg.cls && g.msg.src == f.msg.src) ||
        (s.msgs.any fun g => g.aged && g.dest == f.dest && decide (prio f < prio g)) then .next s
    else if f.dest = 0x3FFF then
      .next { s with msgs := dropNth s.msgs msg
                     kiosk := { s.kiosk with requests := s.kiosk.requests ++ [(f.msg.src, f.msg)] } }
    else if !(s.core f.dest).hasRoom f.msg then .next s
    else
      .next (State.updCore { s with msgs := dropNth s.msgs msg } f.dest fun k =>
        { k with disp := { k.disp with inbox := k.disp.inbox ++ [f.msg] } })

/-- FLIT_AGE_PRIORITY (R283). -/
def execFlitAgePriority (msg : Nat) (s : State) : Out :=
  match s.msgs[msg]? with
  | some f => .next { s with msgs := setNth s.msgs msg { f with aged := true } }
  | none => .next s

/-! ## Sending (R295–R297) -/

def sdTag (d : Word) : BitVec 32 := d.truncate 32
def sdDest (d : Word) : Nat := fld d 32 14
def sdMc (d : Word) : Bool := bit d 46
def sdLen (d : Word) : Nat := if fld d 48 3 = 0 then 8 else fld d 48 3
def sdClass (d : Word) : Nat := fld d 52 5

/-- A reserved bit of a descriptor (R295). -/
def sdReserved (d : Word) : Bool := bit d 47 || bit d 51 || fld d 57 7 != 0 || (sdMc d && fld d 44 2 != 0)

/-- The checks of a descriptor, in their order; the cores that the message goes to (R296). -/
def sendChecks (d : Word) : CM (List Nat) := do
  let s ← get
  let cls := sdClass d
  require (!(decide (24 ≤ cls) && decide (cls ≤ 30)) && !(cls == 31 && (!s.ctx.priv || s.me.inl.isSome)) && decide (cls ≤ 31))
    .msgClass 0 (wordOf cls)
  match s.me.inl with
  | some i => if i.sent || sdMc d || sdDest d != i.msg.src then raise .inlineIllegal 0 (wordOf i.slot)
  | none => pure ()
  if sdMc d then
    match s.members s.cur 2 (fld d 32 12) with
    | some ms => pure ms
    | none => raise .mcGroupInvalid 0 (wordOf (fld d 32 12))
  else if cls = 31 ∧ sdDest d = 0x3FFF then pure [0x3FFF]
  else if s.inPart s.me.pid.toNat (sdDest d) then pure [sdDest d]
  else raise .msgDest 0 (wordOf (sdDest d))

/-- A message is held up before its destination: its inbox is full, and a message of its class already waits there, or the
sender is itself the destination (R288). -/
def State.blocked (s : State) (m : Message) (dest : Nat) : Bool :=
  dest != 0x3FFF && !(s.core dest).hasRoom m &&
    (dest == s.cur || s.msgs.any fun f => f.dest == dest && f.msg.cls == m.cls)

/-- The message injected for each destination, or a stall (R288, R296). -/
def inject (w : WaitFor) (d : Word) (inl : Bool) (payload : List Word) (dests : List Nat) : CM Unit := do
  let s ← get
  let m : Message := ⟨sdClass d, sdTag d, s.cur, inl, s.ctx.st, payload⟩
  if dests.any (s.blocked m) then stall w
  set { s with msgs := s.msgs ++ dests.map fun c => Flight.mk c m false }
  modMe fun k => { k with inl := k.inl.map fun i => { i with sent := true } }

/-- The uses of a register payload, once LEN is known: hB and those that follow; nothing for z (R296). -/
def payloadUses (a b : Src) (n : Nat) : List Use :=
  match b with
  | .z => [.one a]
  | _ => stmUses a b n

/-- B of a send names a register or z (R296). -/
def payloadB : Src → Src
  | .h n => .h n
  | .z => .z
  | _ => .bad 63

/-- The descriptor and the payload of a register send. -/
def registerPayload (a b : Src) (dst : DestSpec) (pre : Word → CM Unit) : CM (Word × List Word × List Nat) := do
  checks [.one a, .one (match payloadB b with | .bad v => .bad v | _ => .z)] dst
  let vs ← peek [.one a] dst (pure ())
  let d := vs.getD 0 0
  pre d
  require (!sdReserved d) .reservedField 0 0
  let dests ← sendChecks d
  let us := payloadUses a b (sdLen d)
  let ws ← peek us dst (pure ())
  pure (d, if b = .z then List.replicate (sdLen d) 0 else ws.drop 1, dests)

def execSend (a b : Src) (s : State) : Out :=
  run .none (do
    let (d, ws, dests) ← registerPayload a b .none fun _ => pure ()
    inject .drain d false ws dests
    popPorts [.one a]) s

/-- The descriptor and the payload of a send from memory. -/
def memorySend (a b : Src) (inl : Bool) (s : State) : Out :=
  let us := [Use.one a, .one (payloadB b)]
  run .none (do
    let vs ← peek us .none (pure ())
    let d := vs.getD 0 0
    let va := vs.getD 1 0
    let odd := inl && (decide (sdLen d < 3) || (sdMc d && fld d 44 2 != 0))
    require (!odd) .badOperand 0 0
    require (!sdReserved d) .reservedField 0 0
    let dests ← sendChecks d
    let ws ← loadWords (do
      aligned va 8
      wordsAt va (sdLen d) .r)
    inject .loads d inl ws dests
    popPorts us) s

def execSendb (a b : Src) (s : State) : Out := memorySend a b false s
def execSendi (a b : Src) (s : State) : Out := memorySend a b true s

/-- `sendw` (R297): sent once, it waits for the oldest message that answers its descriptor. -/
def execSendw (a b : Src) (d : Dst) (l : BitVec 7) (s : State) : Out :=
  run (.one d) (do
    match ← waitOf .reply with
    | some w =>
      let s ← get
      let p := fun (m : Message) => m.cls == fld w.addr 52 5 && m.src == fld w.addr 32 14 && m.tag.toNat == fld w.addr 0 32
      match findIdx p s.me.disp.inbox 0 with
      | none => leaveWith s
      | some (i, m) =>
        modMe fun k => { k with disp := { k.disp with inbox := dropNth k.disp.inbox i } }
        popPorts [.one a]
        wr d (m.payload.getD 0 0)
    | none =>
      let (e, ws, dests) ← registerPayload a b (.one d) fun e => require (!sdMc e) .badOperand 0 0
      needBudget
      inject .drain e false ws dests
      let s ← get
      leaveWith (s.updMe fun k =>
        { k with wait := some ⟨.reply, limBounds l, e, wordOf (fld e 0 32), .no, true, 0, .one d, []⟩ })) s

/-- MSG_TIMEOUT (R297): the message that was sent stays sent. -/
def execMsgTimeout (s : State) : Out :=
  expire (fun w => w.what == .reply) (fun w => raise .msgTimeout 0 w.info) s

/-! ## Masks, the current message (R298) -/

/-- `cmask` and `cunm`: one indivisible step; D receives the old value. -/
def maskClasses (a : Src) (d : Dst) (f : BitVec 32 → BitVec 32 → BitVec 32) (s : State) : Out :=
  run (.one d) (do
    let vs ← ops [.one a] (.one d)
    let v := vs.getD 0 0
    require (keep v 0x80FFFFFF == v) .reservedField 0 0
    let s ← get
    require (!bit v 31 || s.ctx.priv) .privReg 0 0x200
    let old := s.me.cmask
    modMe fun k => { k with cmask := f old (v.truncate 32) }
    wr d (old.zeroExtend 64)) s

def execCmask (a : Src) (d : Dst) (s : State) : Out := maskClasses a d (fun o v => o ||| v) s
def execCunm (a : Src) (d : Dst) (s : State) : Out := maskClasses a d (fun o v => o &&& ~~~v) s

def execRdin (a : Src) (d : Dst) (s : State) : Out :=
  run (.one d) (do
    let vs ← ops [.one a] (.one d)
    let s ← get
    match s.me.disp.current with
    | none => raise .privInstr 0 0
    | some m =>
      let i := (vs.getD 0 0).toNat
      wr d (if i = 0 then m.header else if i = 1 then m.stamp else m.payload.getD (i - 2) 0)) s

/-! ## Reduction (R302) -/

/-- Fields of a reduction tree's word 0 (R299). -/
def rtInports (w : Word) : Nat := fld w 0 4
def rtLocal (w : Word) : Nat := fld w 4 16
def rtValid (w : Word) : Bool := bit w 20
def rtRoot (w : Word) : Bool := bit w 21
def rtUp (w : Word) : Nat := fld w 22 2

/-- A core's contribution to a tree waits at its link (R302). -/
def State.contributes (s : State) (core t : Nat) : Bool :=
  (s.router (clusterOf core)).waiting.any fun c => c.tree == t && c.isCore && c.which == core % 16

/-- `redn` (R298, R302): the contribution waits at the core's link, and `redn` ends when its router has accepted it. One
that still waits there stalls the next. -/
def execRedn (a b : Src) (s : State) : Out :=
  let us := [Use.one a, .pair b]
  run .none (do
    let vs ← peek us .none (pure ())
    let t := fld (vs.getD 0 0) 0 8
    match ← waitOf .reduction with
    | some _ =>
      let s ← get
      if s.contributes s.cur t then leaveWith s
      popPorts us
    | none =>
      let s ← get
      let cl := clusterOf s.cur
      let w := (s.rtree cl t).1
      require (rtValid w && rtLocal w / 2 ^ (s.cur % 16) % 2 == 1) .rtTreeInvalid 0 (wordOf t)
      if s.contributes s.cur t then pause (plainWait .drain)
      needBudget
      let v : WsPair := ⟨vs.getD 1 0, vs.getD 2 0⟩
      modify fun s => s.updRouter cl fun r =>
        { r with waiting := r.waiting ++ [⟨t, true, s.cur % 16, v.val.make.1, s.ctx.st⟩] }
      pause { plainWait .reduction with begun := true }) s

/-- A contribution belongs to the same core or link as another of its tree. -/
def Contrib.same (a b : Contrib) : Bool := a.tree == b.tree && a.isCore == b.isCore && a.which == b.which

/-- The sources that a round waits for: LOCAL cores, and INPORTS links (R302). -/
def rtSources (t : Nat) (w : Word) : List Contrib :=
  (((List.range 16).filter fun i => rtLocal w / 2 ^ i % 2 == 1).map fun i => ⟨t, true, i, WsPair.zero, 0⟩) ++
  (((List.range 4).filter fun i => rtInports w / 2 ^ i % 2 == 1).map fun i => ⟨t, false, i, WsPair.zero, 0⟩)

/-- The round's sum and its largest stamp (R302). -/
def roundSum (cs : List Contrib) : WsPair × Word :=
  cs.foldl (fun acc c => (wsAdd acc.1 c.value, if acc.2.toNat < c.stamp.toNat then c.stamp else acc.2)) (WsPair.zero, 0)

/-- A physical address as an engine of a cluster reaches it. -/
def State.physical (s : State) (core pa : Nat) : Xlated := ⟨pa, s.place (dieOf core) pa, false, false, 0, 1, 7, 0⟩

/-- The root stores the pair at TARGET and makes the arrival after it (R302). -/
def State.rootResult (s : State) (cl : Nat) (target : Nat) (v : WsPair) (stamp : Word) : EngAns :=
  let core := cl * 16
  match s.writeAt core (s.physical core target) 8 v.lo with
  | .ok s =>
    match s.writeAt core (s.physical core (target + 8)) 8 v.hi with
    | .ok s => s.arriveAt core (s.physical core (target + 16)) 16 1 stamp
    | a => a
  | a => a

/-- REDUCTION_CONTRIBUTION (R302): a router takes the oldest contribution of a tree that its round still waits for; a
round that is complete is added up and passed on, or written by the root. -/
def execReductionContribution (cluster tree : Nat) (s : State) : Out :=
  let r := s.router cluster
  let (w0, w1) := s.rtree cluster tree
  match findIdx (fun c => c.tree == tree && !r.round.any (Contrib.same c)) r.waiting 0 with
  | none => .next s
  | some (i, c) =>
    let round := r.round ++ [c]
    let mine := round.filter fun x => x.tree == tree
    let rest := round.filter fun x => x.tree != tree
    let waiting := dropNth r.waiting i
    if !(rtSources tree w0).all fun x => mine.any (Contrib.same x) then
      .next (s.updRouter cluster fun r => { r with waiting := waiting, round := round })
    else
      let (v, stamp) := roundSum mine
      let s' := s.updRouter cluster fun r => { r with waiting := waiting, round := rest }
      if rtRoot w0 then
        match s'.rootResult cluster (fld w1 0 52) v stamp with
        | .wait => .next s
        | .ok s' => .next s'
        | .fail cause s' =>
          .next (s'.event 1 (some .rtTarget) none (some (s.core (cluster * 16)).pid.toNat) w1 (cause.code.zeroExtend 64))
      else match linkTo cluster (rtUp w0) with
        | some up => .next (s'.updRouter up fun r =>
            { r with waiting := r.waiting ++ [⟨tree, false, (rtUp w0 + 2) % 4, v, stamp⟩] })
        | none => .next s'

/-! ## Inline active messages (R292, R293) -/

/-- The instruction word in slot k of a message's code (R292). -/
def Message.slot (m : Message) (k : Nat) : BitVec 32 :=
  (m.payload.getD (m.payload.length - 3 + k / 2) 0).extractLsb' (32 * (k % 2)) 32

/-- What inline code may hold: the sources and destinations of an instruction, and whether its fields are allowed and hold
no reserved value (R64, R292); none for an instruction outside the set. `hret` and `send` are treated apart. -/
def inlineParts : Instr → Option (List Src × List Dst × Bool)
  | .add a b d _ => some ([a, b], [d], true)
  | .sub a b d _ => some ([a, b], [d], true)
  | .and a b d _ => some ([a, b], [d], true)
  | .or a b d _ => some ([a, b], [d], true)
  | .xor a b d _ => some ([a, b], [d], true)
  | .andn a b d _ => some ([a, b], [d], true)
  | .sll a b d _ => some ([a, b], [d], true)
  | .srl a b d _ => some ([a, b], [d], true)
  | .sra a b d _ => some ([a, b], [d], true)
  | .rol a b d _ => some ([a, b], [d], true)
  | .min a b d _ => some ([a, b], [d], true)
  | .max a b d _ => some ([a, b], [d], true)
  | .minu a b d _ => some ([a, b], [d], true)
  | .maxu a b d _ => some ([a, b], [d], true)
  | .slt a b d _ => some ([a, b], [d], true)
  | .sltu a b d _ => some ([a, b], [d], true)
  | .mul a b d _ => some ([a, b], [d], true)
  | .mulh a b d _ => some ([a, b], [d], true)
  | .mulhu a b d _ => some ([a, b], [d], true)
  | .div a b d _ => some ([a, b], [d], true)
  | .divu a b d _ => some ([a, b], [d], true)
  | .rem a b d _ => some ([a, b], [d], true)
  | .remu a b d _ => some ([a, b], [d], true)
  | .bitc a d o _ => some ([a], [d], decide (o.toNat < 5))
  | .addi a d _ => some ([a], [d], true)
  | .andi a d _ => some ([a], [d], true)
  | .ori a d _ => some ([a], [d], true)
  | .xori a d _ => some ([a], [d], true)
  | .slli a d _ => some ([a], [d], true)
  | .srli a d _ => some ([a], [d], true)
  | .srai a d _ => some ([a], [d], true)
  | .slti a d _ => some ([a], [d], true)
  | .ldk d _ => some ([], [d], true)
  | .ldkx a d _ => some ([a], [d], true)
  | .extf a d _ _ => some ([a], [d], true)
  | .ins a b d _ => some ([a, b], [d], true)
  | .bfx a b d _ _ => some ([a, b], [d], true)
  | .sel a b d c => some ([a, b, c], [d], true)
  | .keep a d _ => some ([a], [d], true)
  | .seq a b d _ => some ([a, b], [d], true)
  | .sne a b d _ => some ([a, b], [d], true)
  | .addc a b d c _ => some ([a, b, c], [d], true)
  | .subc a b d c _ => some ([a, b, c], [d], true)
  | .clamp a b d c _ => some ([a, b, c], [d], true)
  | .fadd a b d f _ _ => some ([a, b], [d], f != 0)
  | .fsub a b d f _ _ => some ([a, b], [d], f != 0)
  | .fmul a b d f _ _ => some ([a, b], [d], f != 0)
  | .fma a b d f _ _ => some ([a, b], [d], f != 0)
  | .fmin a b d f => some ([a, b], [d], f != 0)
  | .fmax a b d f => some ([a, b], [d], f != 0)
  | .fsgn a b d f o => some ([a, b], [d], f != 0 && !(o == 3 && b != .q 0))
  | .fhsum a b d f _ _ => some ([a, b], [d], f != 0)
  | .pdot a b d c u sel => some ([a, b], [d], !(sel == 3 || (!u && c != 0)))
  | .fscl a b d f _ _ => some ([a, b], [d], f != 0)
  | .fcmp a b d f p => some ([a, b], [d], f != 0 && decide (p.toNat < 6))
  | .fclass a d f => some ([a], [d], f != 0)
  | .cvt a _ _ d f _ _ _ => some ([a], [d], f != 0)
  | .cvti a _ d f _ => some ([a], [d], f != 0)
  | .cvtf a _ d f _ => some ([a], [d], f != 0)
  | .cvtx a p k d => some ([a], [d], !(k == 3 || (p && decide (k.toNat < 2))))
  | .pperm a b d c => some ([a, b, c], [d], true)
  | .ppack a b d f _ _ _ => some ([a, b], [d], f != 0)
  | .punpk a d f _ _ => some ([a], [d], f != 0)
  | .wsadd a b d => some ([a, b], [d], true)
  | .wsscl a b d _ => some ([a, b], [d], true)
  | .wsrnd a b d f _ _ _ => some ([a, b], [d], f != 0)
  | .pint a b d _ _ _ o => some ([a, b], [d], decide (o.toNat < 6))
  | .pdoti a b d _ _ _ => some ([a, b], [d], true)
  | .ld a d _ t _ => some ([a], [d], t == 0 || t == 3)
  | .st a b _ t _ => some ([a, b], [], t == 0)
  | .amo a b p z _ _ => some ([a, b], [], !amoReserved p z)
  | .amor a b d p z _ _ => some ([a, b], [d], !amoReserved p z)
  | .send a b => some ([a, b], [], true)
  | _ => none

def Src.isPort : Src → Bool
  | .port _ => true
  | _ => false

def Dst.isPort : Dst → Bool
  | .port _ => true
  | _ => false

/-- Inline code may hold an instruction (R292). -/
def inlineAllows (i : Instr) : Bool :=
  match inlineParts i with
  | some (ss, ds, ok) => ok && !ss.any Src.isPort && !ds.any Dst.isPort
  | none => false

/-- The slot at which inline code is refused, 6 where it holds no `hret`; none where it is accepted (R292). -/
def Message.refused (m : Message) : Nat → Nat → Bool → Option Nat
  | 0, _, _ => some 6
  | n + 1, k, sent =>
    match decodeWord (m.slot k) with
    | .hret => none
    | .send a b => if sent || !inlineAllows (.send a b) then some k else m.refused n (k + 1) true
    | i => if inlineAllows i then m.refused n (k + 1) sent else some k

/-- The context in which inline code starts (R293). -/
def Message.inlineCtx (m : Message) : Ctx :=
  { Ctx.reset with
    priv := false, st := m.stamp
    regs := Vector.ofFn fun i =>
      if i.val = 0 then ⟨m.header, .present, none⟩
      else if i.val ≤ m.payload.length - 3 then ⟨m.payload.getD (i.val - 1) 0, .present, none⟩ else Reg.reset }

/-- INLINE_EXECUTION (R292–R294): the first unmasked inline message begins, or is refused. Between two of them a running
activation that neither waits nor stalls retires an instruction. None begins while a trap of the activation is being
entered (R214). -/
def execInlineExecution (s : State) : Out :=
  let k := s.me
  if k.inl.isSome ∨ k.trapping.isSome ∨ (k.inlHold ∧ k.act.isSome ∧ k.wait.isNone) then .next s
  else match k.chosen fun m => m.inl with
    | none => .next s
    | some m =>
      let i : Inline := ⟨k.ctx, k.wait, m, 0, false⟩
      match m.refused 6 0 false with
      | some n => .next ((s.updMe fun k => { k with inl := some i }).inlineStops i .inlineIllegal 0 (wordOf n))
      | none => .next (s.updMe fun k => { k with inl := some i, ctx := m.inlineCtx, wait := none })

end Sys2Proof.Machine
end

