-- ==== Sys2Proof/Machine/Tasks.lean ====
section
/-! DEFINITION. Task instructions and the ends of activations (spec/17_dispatch_tasks.md R314–R318, R332–R335, R337–R339;
spec/10_core_traps.md R224; spec/16_messages.md R293, R298; spec/03_encoding.md R44). -/

namespace Sys2Proof.Machine

/-! ## The deque of a core (R310, R317, R318) -/

def Core.dqEn (k : Core) : Bool := bit k.dqcfg 24
def Core.dqSize (k : Core) : Nat := 2 ^ fld k.dqcfg 20 4
def Core.dqTop (k : Core) : Nat := fld k.dqpos 0 32
def Core.dqBottom (k : Core) : Nat := fld k.dqpos 32 32
def Core.dqDepth (k : Core) : Nat := (k.dqBottom + 2 ^ 32 - k.dqTop) % 2 ^ 32
def Core.setDq (k : Core) (top bottom : Nat) : Core :=
  { k with dqpos := wordOf (top % 2 ^ 32 + bottom % 2 ^ 32 * 2 ^ 32) }

/-- The physical address of an offset of a core's private scratchpad; offsets wrap at its end. -/
def ownSpad (core off : Nat) : Nat := privBase core + off % 0x20000

/-- The address of the deque slot of a position (R310). -/
def Core.dqSlot (k : Core) (core pos : Nat) : Nat :=
  ownSpad core (fld k.dqcfg 6 11 * 64 + 64 * (pos % k.dqSize))

/-- The eight words of a slot. -/
def State.slotWords (s : State) (key : Nat) : List Word := (List.range 8).map fun i => s.word (key + 8 * i)

/-- A slot's words written with plain stores (R317). -/
def State.writeSlot (s : State) (pl : Nat → Place) (ws : List Word) : State :=
  (ws.zipIdx).foldl (fun s p => s.plainStore (pl (8 * p.2)) p.1) s

/-- Takes slot BOTTOM − 1 of a core's deque, or TOP for a thief (R318): the slot's address. -/
def State.dequePop (s : State) (core : Nat) (top : Bool) : Option (Nat × State) :=
  let k := s.core core
  if !k.dqEn || k.dqDepth == 0 then none
  else if top then some (k.dqSlot core k.dqTop, s.updCore core fun k => k.setDq (k.dqTop + 1) k.dqBottom)
  else
    let b := k.dqBottom + 2 ^ 32 - 1
    some (k.dqSlot core b, s.updCore core fun k => k.setDq k.dqTop b)

/-- The record of a slot leaves the table (R318: a slot is received once). -/
def State.takeSlot (s : State) (key : Nat) : SlotRec × State :=
  ((SMap.find s.slots key).getD ⟨none, [], none, none⟩, { s with slots := SMap.erase s.slots key })

/-- The membership of a slot passes to a core's running activation (R333, R338). -/
def State.passSlot (s : State) (core key : Nat) : State :=
  let (r, s) := s.takeSlot key
  s.updCore core fun k => { k with act := k.act.map fun a => { a with held := a.held ++ r.launch.toList } }

/-! ## spawn, take, qdie (R331–R333, R338) -/

/-- B of `spawn`: z, or the first of three registers (R332). -/
def spawnUses (a b : Src) : List Use :=
  match b with
  | .z => [.one a]
  | _ => stmUses a b 3

/-- POLICY of a slot (R317). -/
def policyWord (a : Act) : Word := wordOf (a.cp.toNat + a.retry % 8 * 4 + a.prio % 64 * 32)

/-- The launch id word of an activation's launch, which is the graph launch's for its members; 0 where it belongs to none
(R317, R337). -/
def State.idOf (s : State) (a : Act) : Word :=
  match a.launchKey with
  | some l => match s.launch? l with
    | some x => x.idWord
    | none => 0
  | none => 0

/-- A task record written at BOTTOM (R332). -/
def State.spawnSlot (s : State) (entry a0 a1 a2 : Word) : State :=
  let k := s.me
  match k.act with
  | none => s
  | some a =>
    let key := k.dqSlot s.cur k.dqBottom
    let s := s.writeSlot (fun o => .spad (key + o)) [entry, a0, a1, a2, 0, k.ctx.st, s.idOf a, policyWord a]
    let c := k.ctx
    let r : SlotRec := ⟨a.launchKey, [c.lteam, c.lgroup, c.lgrid, c.lgraph, c.lpart], a.gang, none⟩
    let s := { s with slots := SMap.put s.slots key r }
    let s := s.updMe fun k => k.setDq k.dqTop (k.dqBottom + 1)
    match a.launchKey with
    | some l => s.memberJoins l
    | none => s

def execSpawn (a b : Src) (s : State) : Out :=
  let us := spawnUses a b
  run .none (do
    let vs ← peek us .none (pure ())
    let s ← get
    require (s.me.dqEn && decide (s.me.dqDepth < s.me.dqSize)) .dequeFull 0 0
    drainStores
    popPorts us
    modify fun s => s.spawnSlot (vs.getD 0 0) (vs.getD 1 0) (vs.getD 2 0) (vs.getD 3 0)) s

/-- A destination run of five registers: h0, h4 or h8 (R331). -/
def fiveRun : Dst → DestSpec
  | .h n => if n.val = 0 ∨ n.val = 4 ∨ n.val = 8 then .run (.h n) 5 else .run (.bad 31) 5
  | _ => .run (.bad 31) 5

/-- ENTRY and h0–h3 delivered to a run (R331). -/
def wrFive (d : Dst) (ws : List Word) : CM Unit :=
  match d with
  | .h n => modCtx fun c => (List.range 5).foldl (fun (c : Ctx) i => c.setReg (n.val + i) ⟨ws.getD i 0, .present, none⟩) c
  | _ => pure ()

def execTake (d : Dst) (s : State) : Out :=
  run (fiveRun d) (do
    let _ ← ops [] (fiveRun d)
    let s ← get
    match s.dequePop s.cur false with
    | none => wrFive d []
    | some (key, s') =>
      set (s'.passSlot s'.cur key)
      wrFive d (s'.slotWords key)) s

/-- `qdie` (R338): its pop waits at the pergola root until a position is handed out, and with it the words of the slot. -/
def execQdie (a : Src) (d : Dst) (l : BitVec 7) (s : State) : Out :=
  run (fiveRun d) (do
    let vs ← peek [.one a] (fiveRun d) (pure ())
    let v := vs.getD 0 0
    match ← waitOf .dieQueue with
    | some w =>
      match w.served with
      | .value _ =>
        popPorts [.one a]
        wrFive d (w.vals.map fun p => p.2.getD 0)
      | _ => leave
    | none =>
      require (decide (v.toNat < 8)) .badOperand 0 0
      needBudget
      let s ← get
      let die := if bit v 2 then fld v 0 2 else dieOf s.cur
      modify fun s => s.updDie die fun k => { k with pops := k.pops ++ [⟨s.cur, s.me.pid.toNat, true⟩] }
      pause ⟨.dieQueue, limBounds l, 0, 0, .no, true, 0, fiveRun d, []⟩) s

/-- The first register of a run. -/
def DestSpec.head : DestSpec → Dst
  | .one d => d
  | .pair d => d
  | .run d _ => d
  | .none => .bad 31

/-- QDIE_EXPIRY (R338): the pop is withdrawn, zeros are written and nothing is raised. -/
def execQdieExpiry (s : State) : Out :=
  expire (fun w => w.what == .dieQueue) (fun w => do
    modify fun s => s.withdraw s.cur
    match (← ctx).latch with
    | some (.qdie a _ _) => popPorts [.one a]
    | _ => pure ()
    wrFive w.dests.head []
    retire) s

/-! ## tready, tcbq (R337, R339) -/

def execTready (a : Src) (d : Dst) (s : State) : Out :=
  run (.one d) (do
    let vs ← peek [.one a] (.one d) (pure ())
    aligned (vs.getD 0 0) 64
    drainStores
    exchange [.one a] d 64 (vs.getD 0 0) (.taskRelease (s.me.act.bind Act.launchKey)) false false) s

/-- Entries in a ready ring. -/
def Core.ringDepth (k : Core) (b : Nat) : Nat :=
  let p := vget 0 k.rrpos b
  (fld p 32 32 + 2 ^ 32 - fld p 0 32) % 2 ^ 32

/-- The snapshot of R339. -/
def Core.tcbq (k : Core) : Word :=
  wordOf ((List.range 4).foldl (fun n b => n + sat 255 (k.ringDepth b) * 256 ^ b) 0 + k.dqDepth % 65536 * 2 ^ 32
    + k.disp.inbox.length % 32 * 2 ^ 48) ||| bit1 k.susp.isSome 53

def execTcbq (d : Dst) (s : State) : Out :=
  run (.one d) (do
    let _ ← ops [] (.one d)
    let s ← get
    wr d s.me.tcbq) s

/-! ## yield (R44, R130, R335) -/

def execYield (i : BitVec 13) (s : State) : Out :=
  runSelf .none (do
    reservedIf (decide (i.toNat = 0) || decide (4096 < i.toNat))
    let c ← ctx
    require (c.kind == .yield && c.pc == c.hdr + 8) .yieldPlacement 0 0
    let s ← get
    -- a standing request is served before `yield` retires
    if s.requested s.cur && s.me.susp.isNone then pause (plainWait .drain)
    retireWith fun _ => min (i.toNat * 16) s.me.ybud.toNat
    advance) s

/-! ## Ends of activations (R129, R224, R334) -/

/-- The commands that an activation issued have retired on their engines (R231, R259, R334). -/
def State.nmOver (s : State) (xs : List NmIssued) : Bool :=
  xs.all fun n => decide (n.value ≤ (vget NmCtx.reset (s.stack n.stack).ctxs n.ctx).retired)

/-- The waits with which an activation ends: loads, stores and commands, with their deferred causes. -/
def finishWork : CM Unit := do
  raiseOldest (fun _ => true) fun _ => true
  waitCounts 0 0 63 63
  let s ← get
  match s.me.act with
  | some a => if a.chLive ≠ 0 || a.mxLive ≠ 0 || !s.nmOver a.nm then pause (plainWait .drain)
  | none => pure ()

/-- The successor list of a codelet (R314, R334): up to the first 0 word or the eighth entry. -/
def successors (list : Word) : List Nat → CM (List Word)
  | [] => pure []
  | k :: ks => do
    let va := list + wordOf (8 * k)
    let x ← checked va 8 .r
    let s ← get
    match s.readAt s.cur x 8 with
    | (.error c, _) => fun _ => .error (.trap (causeOf c va 0) (.read x.place 8))
    | (.ok w, s) =>
      set s
      if w = 0 then pure [] else do
        let rest ← successors list ks
        pure (w :: rest)

/-- A successor arrival (R334); one that fails is recorded against the launch and reported. -/
def State.succArrive (s : State) (a : Act) (va : Word) : State :=
  match s.engineArrive s.cur s.ctx.priv va 1 1 s.ctx.st with
  | .ok s => s
  | .wait => s
  | .fail c s => (s.record a .succFault (.succFault, va)).toKiosk s.cur .succFault va (c.code.zeroExtend 64)

/-- Ends the running activation as `done` does (R334). -/
def finish : CM Unit := do
  finishWork
  needBudget
  let s ← get
  match s.me.act with
  | none => pure ()
  | some a =>
    match a.source with
    | .tcb k =>
      let list := s.word (k + 48)
      let ws ← if list = 0 then pure [] else successors list (List.range 8)
      modify fun s => ws.foldl (fun s w => s.succArrive a w) s
    | _ => pure ()
  retireWith fun n => n - 1
  let s ← get
  leaveWith (s.endAct s.cur false false none)

def execDone (s : State) : Out := runSelf .none finish s

def execHalt (a : Src) (s : State) : Out :=
  runSelf .none (do
    let vs ← peek [.one a] .none (pure ())
    drainStores
    finishWork
    popPorts [.one a]
    modify fun s => match s.me.act with
      | some x => match x.launchKey with
        | some l => s.updLaunch (s.rootLaunch l) fun r => { r with user := vs.getD 0 0 }
        | none => s
      | none => s
    finish) s

/-- `hret` (R293, R298): it ends inline code once every access of the code has been performed, or a handler. -/
def execHret (s : State) : Out :=
  runSelf .none (do
    let s ← get
    match s.me.inl with
    | some i =>
      raiseDeferred fun a => a.inl
      if s.me.flight.any fun a => a.inl && a.live && !a.parts.isEmpty then pause (plainWait .drain)
      retireWith id
      modMe fun k => k.endInline i
    | none =>
      match s.me.act with
      | some x => match x.source with
        | .message _ => finish
        | _ => raise .privInstr 0 0
      | none => raise .privInstr 0 0) s

end Sys2Proof.Machine
end

