-- ==== Sys2Proof/Machine/Preempt.lean ====
section
/-! DEFINITION. Pre-emption and resumption (spec/06_core_state.md R131, R132; spec/09_core_memory.md R179, R207;
spec/12_matrix.md R252; spec/14_cluster_engine.md R276; spec/17_dispatch_tasks.md R313, R330). -/

namespace Sys2Proof.Machine

/-! ## Points (R131) -/

/-- The running instruction waits at a point: what it waits for has not been answered. -/
def State.waitPoint (s : State) (w : Wait) : Bool :=
  w.served == .no &&
  (match w.what with
    | .tagged => true
    | .produce => true
    | .watch => true
    | .queue => true
    | .stagePut => s.putHeld s.cur s.ctx.priv
    | .barrier grp => match s.me.member? with
      | some (l, g, t, _) => s.gangRequested l g t grp && (s.leaveBarrier s.cur grp).isSome
      | none => false
    | _ => false)

/-- The running activation stands at a pre-emption point (R131). -/
def State.atPoint (s : State) : Bool :=
  let k := s.me
  (match k.ctx.latch with
    | some (.yield _) => true
    | _ => false) ||
  (match k.wait with
    | some w => s.waitPoint w
    | none => false)

/-- The activation's copy commands have retired, or the one that the channel runs is its own, every record that it has
started has landed, and a follow-on command of one of them is held, none being on its way (R276). -/
def Channel.settled (c : Channel) : Bool :=
  match c.inbox with
  | [] => true
  | m :: _ =>
    if !c.inbox.any fun m => m.owned then true
    else m.owned && (c.held.any fun f => f.value == m.value) && m.out == 0 && m.runs.all fun r => r.landed

/-! ## The spill of accumulators (R252) -/

/-- The spill area of a core. -/
def Core.spillBase (k : Core) (core : Nat) : Nat := k.mxsave.toNat + core * 0x4000

/-- The 4 KiB of an accumulator written in the layout of `ws`; the cause where the area is not populated HBM, or its
channel is out of service (R252, R254). -/
def State.spill (s : State) (core : Nat) (x : Accum) (base : Nat) : State × Option Cause :=
  match s.place (dieOf core) base with
  | .hbm k =>
    if s.offline k then (s, some .stackOffline)
    else
      let s := (cells 16 16).foldl (fun (s : State) p =>
        let e := x.elem p.1 p.2
        (s.write (k + 256 * p.1 + 16 * p.2) 8 e.lo).write (k + 256 * p.1 + 16 * p.2 + 8) 8 e.hi) s
      ((List.range 64).foldl (fun (s : State) i => (s.cleanLine (k + 64 * i)).enqueueWrite (k + 64 * i) 64) s, none)
  | _ => (s, some .noMemory)

/-- One accumulator saved: an absent one is filled first; a held one is spilled, or lost. -/
def State.saveAcc (s : State) (core a : Nat) : State :=
  let base := (s.core core).spillBase core + 0x1000 * a
  let s := match s.fillAcc core a with
    | (.ok _, s) => s
    | (.error _, s) => s.setAcc core a { Accum.reset with cond := .lost, spill := (s.acc core a).spill }
  let x := s.acc core a
  if x.cond = .held then
    match s.spill core x base with
    | (s, none) => s.setAcc core a ⟨.absent, [], base⟩
    | (s, some c) => (s.toKiosk core .mxWrite (wordOf base) (c.code.zeroExtend 64)).setAcc core a ⟨.lost, [], base⟩
  else s

/-- The mask of accumulators in a condition. -/
def Core.accMask (k : Core) (c : AccCond) : Nat :=
  (List.range 4).foldl (fun n a => if (vget Accum.reset k.mx.accs a).cond = c then n + 2 ^ a else n) 0

/-! ## The save area (R131) -/

/-- Words of a port's FIFO in the save area. -/
def Core.fifoWords (k : Core) : List (Nat × Word) :=
  let ps := [Port.n, Port.e, Port.s, Port.w]
  (0x280, wordOf ((ps.zipIdx).foldl (fun n p => n + (k.fifo p.1).length % 16 * 16 ^ p.2) (2 ^ 16))) ::
    ((ps.zipIdx).map fun p => (List.range 8).map fun i => (0x288 + 64 * p.2 + 8 * i, (k.fifo p.1).getD i 0)).flatten

/-- The wait is the produce store of a `qpush`, whose slot and word 1 are kept (R131, R209). -/
def Wait.keepsSlot (w : Wait) : Bool := w.what == .produce && w.dests != .none

/-- Bank 1 words of absent registers that were saved while the bank was off: they read zero, and stay zero where GATE has
changed since (R122). -/
def Ctx.zeroWords (c : Ctx) (offBefore : Bool) : List (Nat × Word) :=
  if offBefore && c.gate != 2 then
    (((List.range 16).filter fun i => decide (8 ≤ i) && (vget Reg.reset c.regs i).cond == .absent).map fun i => (8 * i, 0))
  else []

/-- Every word that a pre-emption writes (R131, R252, R276). -/
def Core.saveWords (k : Core) (core : Nat) (a : Act) (fifos : Bool) : List (Nat × Word) :=
  let c := k.ctx
  let t := c.trap
  let m := c.mx
  c.frameWords c.pc ++
  [(0x1A0, wordOf k.mx.retired + a.mxOffset),
   (0x1A8, wordOf (k.accMask .clean + k.accMask .absent * 16 + k.accMask .lost * 2 ^ 9) ||| bit1 m.follow 8),
   (0x1B0, wordOf (k.spillBase core)),
   (0x1B8, m.fmta), (0x1C0, m.fmtb), (0x1C8, m.scpa), (0x1D0, m.scpb), (0x1D8, m.scf), (0x1E0, m.tsa), (0x1E8, m.tsb),
   (0x1F0, m.tdim), (0x1F8, m.tof), (0x200, m.flags.zeroExtend 64),
   (0x208, a.chLast), (0x210, wordOf k.chan.inbox.length),
   (0x218, t.tbase), (0x220, t.tframe), (0x228, t.tcause), (0x230, t.tpc), (0x238, t.taddr), (0x240, t.tinfo),
   (0x248, t.tdpc), (0x250, t.tstat),
   (0x258, c.lteam), (0x260, c.lgroup), (0x268, c.lgrid), (0x270, c.lgraph), (0x278, c.lpart)] ++
  (if fifos then k.fifoWords else (List.range 33).map fun i => (0x280 + 8 * i, 0)) ++
  [(0x388, match k.wait with
    | some w => if w.keepsSlot then wordOf (w.slot % 2 ^ 56) ||| bit1 true 63 else 0
    | none => 0)] ++
  ((List.range 398).map fun i => (0x390 + 8 * i, 0))

/-- The channel without the commands carried with the context (R276). -/
def Channel.carry (c : Channel) : Channel :=
  let mine := c.inbox.filter fun m => m.owned
  if mine.isEmpty then c
  else
    { c with
      inbox := c.inbox.filter fun m => !m.owned, issued := c.issued - mine.length
      held := c.held.filter fun f => !mine.any fun m => m.value == f.value
      carried := mine, carriedHeld := c.held.filter fun f => mine.any fun m => m.value == f.value }

/-- The running activation of a core is saved and becomes suspended (R131, R313). -/
def State.suspend (s : State) (core : Nat) : State :=
  match (s.core core).act with
  | none => s
  | some a =>
    let s := s.withdraw core
    let s := match (s.core core).wait with
      | some w => match w.what with
        | .barrier grp => (s.leaveBarrier core grp).getD s
        | _ => s
      | none => s
    let s := (List.range 4).foldl (fun (s : State) i => s.saveAcc core i) s
    let k := s.core core
    let fifos := s.halted core
    let mine := (k.chan.inbox.filter fun m => m.owned).length
    let off := fld (s.word (saveArea core + 0x180)) 0 2 == 2
    let ws := { k with chan := { k.chan with inbox := k.chan.inbox.take mine } }.saveWords core a fifos ++ k.ctx.zeroWords off
    let s := s.writeFrame (saveArea core) ws
    s.updCore core fun k =>
      { k with
        act := none, susp := some { a with chLive := mine }, ctx := idleCtx, wait := none, causes := []
        disp := { k.disp with current := none }
        suspCtx := {
          causes := k.causes, hdr := k.ctx.hdr, len := k.ctx.len, kind := k.ctx.kind
          wait := match k.wait with
            | some w => if w.keepsSlot then some w else none
            | none => none
          kept := k.ctx.keeps, frameKept := k.ctx.frameKept, ckptKept := k.ctx.ckptKept, fifos := fifos, fresh := none }
        chan := k.chan.carry }

/-- PREEMPTION (R131, R330): at a point, with a request standing, the activation drains and is saved; a deferred cause
that the drain finds is raised instead (R184). -/
def execPreemption (s : State) : Out :=
  let k := s.me
  if k.act.all (fun a => a.ending.isSome) ∨ k.susp.isSome ∨ k.inl.isSome ∨ k.trapping.isSome ∨ !s.requested s.cur ∨ !s.atPoint then .next s
  else if k.mine.any Access.failed? then
    .next (runBody (match k.wait with | some w => w.dests | none => .none) anyDeferred s)
  else if !k.mine.isEmpty ∨ !k.mx.inbox.isEmpty ∨ !k.chan.settled then .next s
  else .next (s.suspend s.cur)

/-! ## Resumption (R132, R252, R276) -/

/-- The control registers reloaded from a save area (R132). -/
def TrapRegs.reload (rd : FrameReader) : TrapRegs :=
  let g := fun o => (rd o).getD 0
  ⟨keep (g 0x218) (cregMask 0x300), keep (g 0x220) (cregMask 0x301), keep (g 0x228) 0x3FF, keep (g 0x230) 0xFFFFFFFFFFFFFF,
    g 0x238, g 0x240, g 0x248, bit (g 0x250) 0, bit (g 0x250) 1⟩

/-- A register's value from a saved word: its reserved bits are not written, and a reserved value leaves the reset value
(R125; log 77). -/
def reloaded (n : Nat) (v : Word) (reset : Word) : Word :=
  let w := keep v (cregMask n)
  if cregBad n w then reset else w

def MxRegs.reload (rd : FrameReader) : MxRegs :=
  let r := MxRegs.reset
  let g := fun o n d => reloaded n ((rd o).getD 0) d
  { fmta := g 0x1B8 0x400 r.fmta, fmtb := g 0x1C0 0x401 r.fmtb, scpa := g 0x1C8 0x402 r.scpa, scpb := g 0x1D0 0x403 r.scpb
    scf := g 0x1D8 0x404 r.scf, tsa := g 0x1E0 0x405 r.tsa, tsb := g 0x1E8 0x406 r.tsb, tdim := g 0x1F0 0x407 r.tdim
    tof := g 0x1F8 0x408 r.tof, follow := bit ((rd 0x1A8).getD 0) 8, flags := ((rd 0x200).getD 0).truncate 4 }

/-- The context of a resumed activation: every register of the live mask is absent (R132). -/
def State.resumedCtx (s : State) (core : Nat) (x : SuspCtx) : Ctx :=
  let rd := s.frameAt (saveArea core)
  let g := fun o => (rd o).getD 0
  let cst := g 0x158
  let gate := gateFrom 0 (g 0x180)
  { trellis := frameTrellis rd (fld (g 0x108) 16 5), regs := frameRegs rd (fld (g 0x108) 0 16) .absent
    pc := g 0x100, hdr := x.hdr, len := x.len, kind := x.kind, loops := s.frameLoops core (bit cst 0) x.kept.loops rd
    fmt := keep (g 0x160) 7, fps := keep (g 0x168) 0x3FF, st := g 0x170, ycnt := fld (g 0x178) 0 17
    gate := gate, bankLost := gate != 0 && (gate == 2 || x.kept.lost)
    priv := bit cst 0, gateloss := bit cst 1, resumed := true, retries := cst.extractLsb' 3 3
    lteam := g 0x258, lgroup := g 0x260, lgrid := g 0x268, lgraph := g 0x270, lpart := g 0x278, lsrc := g 0x188
    trap := TrapRegs.reload rd, mx := MxRegs.reload rd, latch := none, frameKept := x.frameKept, ckptKept := x.ckptKept
    spent := false }

/-- Accumulators after a resumption (R252). -/
def accsReloaded (w : Word) (base : Nat) : Vector Accum 4 :=
  Vector.ofFn fun i =>
    if bit w (4 + i.val) then ⟨.absent, [], base + 0x1000 * i.val⟩
    else if bit w (9 + i.val) then ⟨.lost, [], base + 0x1000 * i.val⟩ else Accum.reset

/-- FIFO words are reloaded from where they were saved (R123): they take the place of those that the FIFOs have kept, and
those that have come since stand behind them. -/
def Core.refill (k : Core) (rd : FrameReader) : Core :=
  let g := fun o => (rd o).getD 0
  if !bit (g 0x280) 16 || !k.suspCtx.fifos then k
  else
    ([Port.n, Port.e, Port.s, Port.w].zipIdx).foldl (fun (k : Core) p =>
      let n := min 8 (fld (g 0x280) (4 * p.2) 4)
      k.setFifo p.1 (((List.range n).map fun i => g (0x288 + 64 * p.2 + 8 * i)) ++ (k.fifo p.1).drop n)) k

/-- The carried commands enter the channel again, renumbered (R276); the drain of the pre-emption has performed every access
that went before them. -/
def Channel.uncarry (c : Channel) : Channel :=
  let num := fun (v : Nat) => match findIdx (fun (m : ChCmd) => m.value == v) c.carried 0 with
    | some (i, _) => c.retired + 1 + i
    | none => v
  { c with
    inbox := c.carried.map fun m => { m with value := num m.value, owned := true, after := 0 }
    held := c.carriedHeld.map fun f => { f with value := num f.value }
    issued := c.retired + c.carried.length, carried := [], carriedHeld := [] }

/-- The suspended activation of a core resumes there (R132); it waits until the core's channel is idle. One that containment
has stopped does not resume, unless it starts again from its entry (R220). -/
def State.resume (s : State) (core : Nat) : State :=
  let k := s.core core
  match k.susp with
  | none => s
  | some a =>
    if a.ending.isSome || !k.chan.inbox.isEmpty then s
    else match k.suspCtx.fresh with
    | some r => (s.updCore core fun k => { k with susp := none, suspCtx := SuspCtx.none }).startAgain core a r
    | none =>
      let rd := s.frameAt (saveArea core)
      let g := fun o => (rd o).getD 0
      let d := k.chan.carried.length
      let x := k.suspCtx
      let a := { a with
        mxOffset := wordOf ((g 0x1A0).toNat - k.mx.retired)
        chOffset := g 0x208 - wordOf d - wordOf k.chan.retired }
      s.updCore core fun k =>
        let k := k.refill rd
        { k with
          disp := { k.disp with current := match a.source with
            | .message m => some m
            | _ => k.disp.current }
          act := some a, susp := none, suspCtx := SuspCtx.none, ctx := s.resumedCtx core x, causes := x.causes
          wait := if bit (g 0x388) 63 then x.wait.map fun w => { w with served := .no, begun := false, slot := fld (g 0x388) 0 56 }
            else none
          ibuf := [], mx := { k.mx with accs := accsReloaded (g 0x1A8) (g 0x1B0).toNat }, chan := k.chan.uncarry }

end Sys2Proof.Machine
end

