-- ==== Sys2Proof/Machine/Launch.lean ====
section
/-! DEFINITION. Launches (spec/17_dispatch_tasks.md R321–R327, R336; level descriptors R306, R307): the descriptor's
checks, resolution of addresses, the launch arena, graphs, the completion record and its signal. -/

namespace Sys2Proof.Machine

/-! ## The descriptor (R321, R336) -/

def ldKind (w0 : Word) : Nat := fld w0 0 3
def ldPrio (w0 : Word) : Nat := fld w0 3 6
def ldCp (w0 : Word) : BitVec 2 := w0.extractLsb' 9 2
def ldRetry (w0 : Word) : Nat := fld w0 11 3
def ldDrain (w0 : Word) : Bool := bit w0 14
def ldCore (w0 : Word) : Nat := fld w0 16 14
def ldAny (w0 : Word) : Bool := bit w0 30
def ldMsix (w0 : Word) : Option Nat := if bit w0 48 then some (fld w0 32 16) else none

/-- LAUNCH_DESC of word 0 (R336). -/
def ldBad0 (w0 : Word) : Bool :=
  bit w0 15 || bit w0 31 || fld w0 49 15 != 0 || decide (4 < ldKind w0) ||
  (ldKind w0 != 0 && (ldCore w0 != 0 || ldAny w0)) || (ldAny w0 && ldCore w0 != 0) ||
  decide (63 < fld w0 32 16) || (fld w0 32 16 != 0 && !bit w0 48) || (ldDrain w0 && ldKind w0 != 1)

/-- The first word that LAUNCH_DESC refuses: word 0, the counts of a task set, or COMPL (R321, R336). -/
def ldBad (ws : List Word) : Option Nat :=
  let w := fun i => ws.getD i 0
  if ldBad0 (w 0) then some 0
  else if ldKind (w 0) = 2 ∧ ((w 2).toNat = 0 ∨ 65536 < (w 2).toNat) then some 2
  else if ldKind (w 0) = 2 ∧ w 3 ≠ 0 then some 3
  else if ldKind (w 0) = 2 ∧ w 4 ≠ 0 then some 4
  else if ldKind (w 0) = 2 ∧ w 5 ≠ 0 then some 5
  else if (w 6).toNat % 64 ≠ 0 then some 6
  else none

/-- A target core that the partition does not hold (R336). -/
def State.ldBadCore (s : State) (part : Nat) (w0 : Word) : Bool :=
  ldKind w0 == 0 && !ldAny w0 && !s.inPart part (ldCore w0)

/-! ## Addresses resolved for the launch engine (R324) -/

/-- A word at a physical address that the engine resolved. -/
def State.physWord (s : State) (pa : Nat) : Word :=
  match s.place 0 pa with
  | .spad k => s.word k
  | .hbm k => s.word k
  | .ext k => s.word k
  | _ => 0

/-- Consecutive words at a physical address. -/
def State.physWords (s : State) (pa n : Nat) : List Word := (List.range n).map fun i => s.physWord (pa + 8 * i)

/-- Words written by the engine at a physical address with plain stores. -/
def State.putPhys (s : State) (pa : Nat) (ws : List Word) : State :=
  (ws.zipIdx).foldl (fun s p => s.plainStore (s.place 0 (pa + 8 * p.2)) p.1) s

/-- The bytes of TARGET that the engine reaches, and the right it needs; none for an entry header (R324). -/
def targetExtent (ws : List Word) : Option (Nat × Right) :=
  let w := fun i => ws.getD i 0
  match ldKind (w 0) with
  | 0 => none
  | 1 => some (64, .r)
  | 2 => some (64 * (w 2).toNat, .w)
  | 3 => some (64, .r)
  | _ => some (128, .w)

/-- A word of the descriptor resolved, unless an earlier one has failed. -/
def State.resolveWord (s : State) (core : Nat) (sup : Bool) (kind i : Nat) (va : Word) (n : Nat) (right : Right)
    (bad : Option (Cause × Word)) : Option Nat × Option (Cause × Word) × State :=
  match s.resolve core sup va n right with
  | (.ok pa, s) => (some pa, bad, s)
  | (.error c, s) => (none, bad <|> some (resolveCause kind i c), s)

/-! ## Entering the launch engine (R324, R336) -/

/-- The next launch id word of a die (R325). -/
def State.nextId (s : State) (d kind : Nat) : Word × State :=
  let n := (s.die d).seq + 1
  (wordOf (n % 2 ^ 30 + d % 4 * 2 ^ 30 + kind % 8 * 2 ^ 32), s.updDie d fun k => { k with seq := n })

/-- The launch engine of a die holds 16 launches (R336). -/
def State.engineFull (s : State) (d : Nat) : Bool :=
  decide (16 ≤ ((s.die d).engine.filter fun k => match s.launch? k with
    | some l => l.parent.isNone
    | none => false).length)

/-- A launch stands in its home die's engine, or behind it while that is full (R15, R336). -/
def State.queueLaunch (s : State) (d key : Nat) : State :=
  if s.engineFull d || !(s.die d).backlog.isEmpty then s.updDie d fun k => { k with backlog := k.backlog ++ [key] }
  else s.updDie d fun k => { k with engine := k.engine ++ [key] }

/-- A launch leaves the launch engine; one that waits behind it comes in. -/
def State.leaveEngine (s : State) (d key : Nat) : State :=
  let s := s.updDie d fun k => { k with engine := k.engine.filter fun e => e != key }
  if s.engineFull d then s
  else s.updDie d fun k => match k.backlog with
    | b :: bs => { k with engine := k.engine ++ [b], backlog := bs }
    | [] => k

/-- A launch entered in the engine of its home die. `issuer` stands for its translations; `home` is the launcher's die. A
member of a graph carries the id word of the graph's launch (R307, R325). -/
def State.enterLaunch (s : State) (ws : List Word) (stamp : Word) (issuer : Nat) (sup : Bool) (part home : Nat)
    (parent : Option (Nat × Nat)) : Nat × State :=
  let w := fun i => ws.getD i 0
  let kind := ldKind (w 0)
  let (target, bad, s) := match targetExtent ws with
    | none => (none, none, s)
    | some (n, right) => s.resolveWord issuer sup kind 1 (w 1) n right none
  let (compl, bad, s) := if w 6 = 0 ∨ parent.isSome then (none, bad, s)
    else s.resolveWord issuer sup kind 6 (w 6) 64 .w bad
  let (signal, bad, s) := if w 7 = 0 ∨ parent.isSome then (none, bad, s)
    else s.resolveWord issuer sup kind 7 (w 7) 8 .w bad
  let home := match kind, target with
    | 1, some pa => fld (s.physWord (pa + 24)) 11 2
    | 0, _ => if ldAny (w 0) then home else dieOf (ldCore (w 0))
    | _, _ => home
  let (id, s) := match parent with
    | some (r, _) => (match s.launch? r with
      | some x => x.idWord
      | none => 0, s)
    | none => s.nextId home kind
  let key := s.nextKey
  let l : Launch :=
    { idWord := id, kind := kind, prio := ldPrio (w 0), cp := ldCp (w 0), retry := ldRetry (w 0), used := 0,
      drain := ldDrain (w 0), core := ldCore (w 0), any := ldAny (w 0), msix := if parent.isSome then none else ldMsix (w 0),
      part := part, home := home, stamp := stamp, issuer := issuer, sup := sup, target := w 1, targetPa := target.getD 0,
      args := [w 2, w 3, w 4, w 5], compl := compl, signal := signal, badCause := bad, phase := .queued, live := 0,
      closed := false, faults := 0, first := none, user := 0, failed := false, refused := false, parent := parent,
      members := [], serialized := false, groups := [], gridWords := [], slot := 0, gridDesc := 0, graphDesc := 0,
      stage := none, blocks := [], dirty := [], dirtyNm := [] }
  let s := State.setLaunch { s with nextKey := key + 1 } key l
  (key, if parent.isSome then s else s.queueLaunch home key)

/-- A launch entered by an activation of a launch that stands for an arm stands for it too (R341; log 18). -/
def State.armsWith (s : State) (cause : Option Nat) (key : Nat) : SMap (List Nat) :=
  s.injects.map fun p => if cause.any p.2.contains then (p.1, p.2 ++ [key]) else p

/-- The home die that a launch of a core will have. -/
def State.homeOf (s : State) (ws : List Word) : Nat :=
  let w0 := ws.getD 0 0
  match ldKind w0 with
  | 0 => if ldAny w0 then dieOf s.cur else dieOf (ldCore w0)
  | 1 => match (s.resolve s.cur s.ctx.priv (ws.getD 1 0) 64 .r).1 with
    | .ok pa => fld (s.physWord (pa + 24)) 11 2
    | .error _ => dieOf s.cur
  | _ => dieOf s.cur

def execLaunch (a : Src) (d : Dst) (s : State) : Out :=
  run (.one d) (do
    let vs ← peek [.one a] (.one d) (pure ())
    let va := vs.getD 0 0
    aligned va 64
    drainStores
    let ws ← plainWords (wordsAt va 8 .r)
    match ldBad ws with
    | some i => raise .launchDesc 0 (wordOf i)
    | none => pure ()
    let s ← get
    let part := s.me.pid.toNat
    let w0 := ws.getD 0 0
    require (decide (ldPrio w0 ≤ (s.part part).pceil)) .launchPrio 0 (wordOf (ldPrio w0))
    require (!s.ldBadCore part w0) .launchDesc 0 0
    if s.engineFull (s.homeOf ws) then stall .loads
    popPorts [.one a]
    let s ← get
    let (key, s) := s.enterLaunch ws s.ctx.st s.cur s.ctx.priv part (dieOf s.cur) none
    set { s with injects := s.armsWith (s.me.act.bind Act.launchKey) key }
    wr d (match s.launch? key with | some l => l.idWord | none => 0)) s

/-! ## The arena (R306, R307, R323; log 9) -/

/-- Bytes of the descriptors of a running group: the group's, its teams', and checkpoint areas of 512 bytes a member. -/
def gridTeams (ws : List Word) : Nat := fld (ws.getD 3 0) 0 6
def gridCores (ws : List Word) : Nat := fld (ws.getD 3 0) 6 5
def gridCpMode (ws : List Word) : Bool := bit (ws.getD 3 0) 26

def groupBytes (ws : List Word) : Nat :=
  let t := gridTeams ws
  let head := (64 * (t + 1) + 511) / 512 * 512
  head + (if gridCpMode ws then 512 * gridCores ws * t else 0)

/-- Blocks of a partition's arena in use. -/
def State.arenaBlocks (s : State) (p : Nat) : List (Nat × Nat) :=
  (s.launches.map fun kl =>
    if kl.2.part = p ∧ kl.2.phase ≠ .retired then
      kl.2.blocks ++ (kl.2.groups.filter fun g => g.desc != 0).map fun g => (g.desc, groupBytes kl.2.gridWords)
    else []).flatten

/-- The lowest 512-aligned free block of `n` bytes of a partition's arena. -/
def State.arenaFind (s : State) (p n : Nat) : Option Nat :=
  let q := s.part p
  let used := s.arenaBlocks p
  let fits := fun a => decide (a + n ≤ q.arena + q.arenaLen) && used.all fun b => decide (a + n ≤ b.1) || decide (b.1 + b.2 ≤ a)
  let starts := q.arena :: used.map fun b => (b.1 + b.2 + 511) / 512 * 512
  (starts.filter fits).foldl (fun best a => match best with
    | none => some a
    | some b => if a < b then some a else some b) none

/-- The level word of a new descriptor (R306). -/
def levelWord (cp retry level : Nat) (cpmode : Bool) : Word :=
  wordOf (cp % 4 + retry % 8 * 4 + level * 2 ^ 8) ||| bit1 cpmode 11

/-! ## Refusal (R323) -/

/-- A launch is refused: its record will hold status 2, the cause and TARGET, with a fault count of 1. -/
def Launch.refuse (l : Launch) (c : Cause × Word) : Launch :=
  { l with refused := true, badCause := some c, closed := true, live := 0, faults := 1, first := some (c.1, l.target)
           phase := .running, groups := [], members := [] }

/-! ## Grids (R344, R346) -/

/-- A component of a dependence vector (R344). -/
def gridVec (ws : List Word) (v d : Nat) : Int := sextInt (fld (ws.getD 4 0) (15 * v + 5 * d) 5) 5
def gridExt (ws : List Word) (d : Nat) : Nat := fld (ws.getD 1 0) (20 * d) 20
def gridNdim (ws : List Word) : Nat := fld (ws.getD 1 0) 60 2
def gridNvec (ws : List Word) : Nat := fld (ws.getD 3 0) 13 3
def gridTotal (ws : List Word) : Nat := (gridExt ws 0 + 1) * (gridExt ws 1 + 1) * (gridExt ws 2 + 1)

/-- GRID_SHAPE (R346 step 1). -/
def gridBadShape (ws : List Word) : Bool :=
  let n := gridNdim ws
  n == 0 || bit (ws.getD 1 0) 62 || bit (ws.getD 1 0) 63 ||
  (List.range 3).any (fun d => decide (n ≤ d) && gridExt ws d != 0) || decide (2 ^ 20 < gridTotal ws) ||
  gridTeams ws == 0 || decide (48 < gridTeams ws) || gridCores ws == 0 || decide (16 < gridCores ws) ||
  decide (4 < gridNvec ws) ||
  (List.range 4).any (fun v => (List.range 3).any fun d =>
    let c := gridVec ws v d
    if v < gridNvec ws then c == -16 || (decide (n ≤ d) && c != 0) else c != 0) ||
  fld (ws.getD 3 0) 28 36 != 0 || fld (ws.getD 4 0) 60 4 != 0 ||
  ws.getD 5 0 != 0 || ws.getD 6 0 != 0 || ws.getD 7 0 != 0

/-- The first dependence vector that is not lexicographically positive, from the highest dimension down (R346 step 2). -/
def gridCycle (ws : List Word) : Option Nat :=
  (List.range (gridNvec ws)).find? fun v =>
    match ((List.range (gridNdim ws)).reverse.map fun d => gridVec ws v d).find? fun c => c != 0 with
    | some c => decide (c < 0)
    | none => true

/-- Clusters of a partition on a die with at least `cores` enabled cores. -/
def State.gangClusters (s : State) (p d cores : Nat) : List Nat :=
  (s.part p).clusters.filter fun cl => cl / 256 == d &&
    decide (cores ≤ ((List.range 16).filter fun i => s.inPart p (cl * 16 + i)).length)

/-- The checks of R346, but for the scoreboard slot. -/
def State.gridCheck (s : State) (p : Nat) (ws : List Word) : Option (Cause × Word) :=
  let t := gridTeams ws
  if gridBadShape ws then some (.gridShape, 0)
  else match gridCycle ws with
    | some v => some (.gridCycle, wordOf v)
    | none =>
      if !(List.range 4).any fun d => decide (t ≤ (s.gangClusters p d (gridCores ws)).length) then
        some (.gangFit, wordOf (t * gridCores ws))
      else if !(s.part p).clusters.any fun cl => cl / 256 == fld (ws.getD 3 0) 11 2 then
        some (.gridSlot, wordOf (fld (ws.getD 3 0) 11 2))
      else none

/-- A free scoreboard slot of a die (R347). -/
def Die.freeSlot (k : Die) : Option Nat :=
  (findIdx (fun (b : Board) => b.launch.isNone) k.boards.toList 0).map Prod.fst

def State.board (s : State) (d i : Nat) : Board := vget Board.reset (s.die d).boards i
def State.updBoard (s : State) (d i : Nat) (f : Board → Board) : State :=
  s.updDie d fun k => { k with boards := vset k.boards i (f (vget Board.reset k.boards i)) }

/-- A grid takes a free scoreboard slot of its home die, which it holds until it retires (R347); none where none is free. -/
def State.takeBoard (s : State) (key : Nat) : Option State :=
  (s.launch? key).bind fun l => (s.die l.home).freeSlot.map fun i =>
    (s.setLaunch key { l with slot := i }).updBoard l.home i fun _ => ⟨some key, l.gridDesc, [], false, false⟩

/-- The grids among a list of launches take their slots; the home die of the first that finds none. -/
def State.takeBoards : List Nat → State → Except Nat State
  | [], s => .ok s
  | key :: keys, s => match s.takeBoard key with
    | some s => State.takeBoards keys s
    | none => .error (match s.launch? key with
      | some l => l.home
      | none => 0)

/-! ## Graphs (R322) -/

/-- A member of a graph whose words break R322, with the index of the word; `ms` holds every member's words. -/
def memberBad (ms : List (List Word)) (i : Nat) : Option Nat :=
  let ws := ms.getD i []
  let w := fun j => ws.getD j 0
  let succ := fun (x : List Word) => (List.range 4).map fun j => fld (x.getD 7 0) (16 * j) 16
  let named := (ms.map fun x => (succ x).count i).foldl (· + ·) 0
  if (ldBad0 (w 0) || ldKind (w 0) == 3 || fld (w 0) 32 17 != 0) then some 0
  else match ldBad [w 0, w 1, w 2, w 3, w 4, w 5, 0, 0] with
    | some j => some j
    | none =>
      if fld (w 6) 11 53 ≠ 0 ∨ 1024 < fld (w 6) 0 11 ∨ fld (w 6) 0 11 ≠ named then some 6
      else if (succ ws).any fun x => x != 0xFFFF && (decide (x ≤ i) || decide (ms.length ≤ x)) then some 7
      else none

/-- The first bad word of a graph's members. -/
def membersBad (ms : List (List Word)) : Option Nat :=
  ((List.range ms.length).filterMap fun i => memberBad ms i).head?

/-- The member launches of a graph are made, each with its addresses resolved (R324). -/
def State.makeMembers (key : Nat) (l : Launch) (part : Nat) : List (List Word × Nat) → State → List GMember × State
  | [], s => ([], s)
  | (ws, i) :: rest, s =>
    let (k, s) := s.enterLaunch ([0, 1, 2, 3, 4, 5].map fun j => ws.getD j 0) l.stamp l.issuer l.sup part l.home
      (some (key, i))
    let (ms, s) := State.makeMembers key l part rest s
    (⟨ws, fld (ws.getD 6 0) 0 11, false, false, k⟩ :: ms, s)

/-- Grid snapshots and checks of a graph's members: the first that fails. -/
def State.membersCheck (s : State) (p : Nat) (ms : List GMember) : Option (Cause × Word) :=
  (ms.filterMap fun m =>
    match s.launch? m.key with
    | none => none
    | some x =>
      if x.badCause.isSome then x.badCause
      else if !decide (x.prio ≤ (s.part p).pceil) ∨ s.ldBadCore p (m.words.getD 0 0) then some (.launchDesc, 0)
      else if x.kind = 0 ∧ x.any ∧ !s.pgReady x.home p then some (.launchDesc, 0)
      else if x.kind = 1 then s.gridCheck p (s.physWords x.targetPa 8)
      else none).head?

/-- Sets the snapshot of a grid launch (R344): word 0 is its level word. -/
def Launch.snapGrid (l : Launch) (ws : List Word) (desc : Nat) : Launch :=
  { l with
    gridWords := levelWord l.cp.toNat l.retry 3 false :: ws.drop 1
    gridDesc := desc, drain := l.drain || bit (ws.getD 3 0) 27 }

/-! ## Checks and snapshots at enqueue (R323) -/

/-- A graph launch's snapshot: graph descriptor, member table, instance descriptor, and member grids. -/
def State.snapGraph (s : State) (key : Nat) (l : Launch) : State :=
  let no := fun (s : State) (c : Cause × Word) => s.setLaunch key (l.refuse c)
  let g := s.physWords l.targetPa 8
  let n := fld (g.getD 0 0) 0 16
  let table := g.getD 1 0
  if n = 0 ∨ 1024 < n ∨ fld (g.getD 0 0) 17 47 ≠ 0 then no s (.launchDesc, 0)
  else if table.toNat % 64 ≠ 0 then no s (.launchDesc, 1)
  else match (g.drop 2).findIdx? fun w => w != 0 with
  | some i => no s (.launchDesc, wordOf (i + 2))
  | none =>
    match s.resolve l.issuer l.sup table (64 * n) .r with
    | (.error c, s) => no s (resolveCause 3 1 c)
    | (.ok pa, s) =>
      let ms := (List.range n).map fun i => s.physWords (pa + 64 * i) 8
      match membersBad ms with
      | some i => no s (.launchDesc, wordOf i)
      | none =>
        let (gs, s') := State.makeMembers key l l.part ms.zipIdx s
        match s'.membersCheck l.part gs with
        | some c => no s c
        | none =>
          let grids := gs.filter fun m => (s'.launch? m.key).any fun x => x.kind == 1
          let bytes := 128 + 64 * n + 64 * grids.length
          match s'.arenaFind l.part bytes with
          | none => no s (.launchArena, wordOf bytes)
          | some a =>
            let s := (s'.putPhys a g).putPhys (a + 128) ms.flatten
            let inst := a + 64
            let s := s.putPhys inst [levelWord l.cp.toNat l.retry 4 false, l.target, wordOf n,
              match l.compl with | some c => wordOf c | none => 0, 0, l.idWord, 0, 0]
            let s := (grids.zipIdx).foldl (fun (s : State) p => s.updLaunch p.1.key fun x =>
              x.snapGrid (s.physWords x.targetPa 8) (a + 128 + 64 * n + 64 * p.2)) s
            let s := gs.foldl (fun (s : State) m => s.updLaunch m.key fun x => { x with graphDesc := inst }) s
            match State.takeBoards (grids.map GMember.key) s with
            | .error d => no s' (.gridSlot, wordOf d)
            | .ok s => s.setLaunch key { l with
                members := gs, live := n, serialized := bit (g.getD 0 0) 16, graphDesc := inst, phase := .serial
                blocks := [(a, bytes)] }

/-- A grid launch's checks and snapshot (R346), and its scoreboard slot (R347). -/
def State.snapLaunch (s : State) (key : Nat) (l : Launch) : State :=
  let ws := s.physWords l.targetPa 8
  match s.gridCheck l.part ws with
  | some c => s.setLaunch key (l.refuse c)
  | none =>
    if (s.die l.home).freeSlot.isNone then s.setLaunch key (l.refuse (.gridSlot, wordOf l.home))
    else
      let need := 512 + groupBytes ws
      match s.arenaFind l.part need with
      | none => s.setLaunch key (l.refuse (.launchArena, wordOf need))
      | some a =>
        let s := s.setLaunch key { l.snapGrid ws a with phase := .serial, blocks := [(a, 64)] }
        (s.takeBoard key).getD s

/-- TARGET must be 64-aligned where it names a descriptor (R314, R321, R322, R344, R358). -/
def Launch.misaligned (l : Launch) : Bool := l.kind != 0 && l.target.toNat % 64 != 0

/-- The checks of a launch at enqueue: it is refused, or it waits to start with its snapshots made. -/
def State.checkLaunch (s : State) (key : Nat) (l : Launch) : State :=
  let s := match l.badCause with
    | some c => s.setLaunch key (l.refuse c)
    | none =>
      if l.misaligned then s.setLaunch key (l.refuse (if l.kind = 4 then .stageDesc else .launchDesc, 1))
      else if l.kind = 0 ∧ l.any ∧ !s.pgReady l.home l.part then s.setLaunch key (l.refuse (.launchDesc, 0))
      else match l.kind with
        | 1 => s.snapLaunch key l
        | 3 => s.snapGraph key l
        | _ => s.setLaunch key { l with phase := .serial }
  match s.launch? key with
  | some l => if l.refused then s.leaveEngine l.home key else s
  | none => s

end Sys2Proof.Machine
end

