-- ==== Sys2Proof/Machine/Grids.lean ====
section
/-! DEFINITION. Grids swept by dependence vectors (spec/19_dispatch_grids.md R344–R355). -/

namespace Sys2Proof.Machine

/-! ## Coordinates (R344) -/

/-- The coordinate of a linear index. -/
def gridCoord (ws : List Word) (n d : Nat) : Nat :=
  let e0 := gridExt ws 0 + 1
  let e1 := gridExt ws 1 + 1
  match d with
  | 0 => n % e0
  | 1 => n / e0 % e1
  | _ => n / (e0 * e1)

/-- The linear index of a coordinate plus `k` times a vector; none outside the grid. -/
def gridMove (ws : List Word) (n v : Nat) (k : Int) : Option Nat :=
  let q := fun d => (gridCoord ws n d : Int) + k * gridVec ws v d
  if (List.range 3).all fun d => decide (0 ≤ q d) && decide (q d ≤ gridExt ws d) then
    some ((q 0).toNat + (gridExt ws 0 + 1) * ((q 1).toNat + (gridExt ws 1 + 1) * (q 2).toNat))
  else none

/-- Every predecessor of a group lies outside the grid or has its bit set (R349). -/
def gridReady (ws : List Word) (bits : List Nat) (n : Nat) : Bool :=
  (List.range (gridNvec ws)).all fun v =>
    match gridMove ws n v (-1) with
    | some q => bits.contains q
    | none => true

/-- Inserts a number into a rising list, once. -/
def insertRising (n : Nat) : List Nat → List Nat
  | [] => [n]
  | m :: ms => if n < m then n :: m :: ms else if n = m then m :: ms else m :: insertRising n ms

/-- Groups that the retirement of some groups makes candidates, in ascending linear index. -/
def gridAfter (ws : List Word) (qs : List Nat) : List Nat :=
  ((qs.map fun q => (List.range (gridNvec ws)).filterMap fun v => gridMove ws q v 1).flatten).foldl
    (fun acc n => insertRising n acc) []

/-! ## Scoreboards and release (R347–R349) -/

/-- Words 5 and 6 of the arena copy (R344). -/
def State.gridStatus (s : State) (key : Nat) : State :=
  match s.launch? key with
  | none => s
  | some l =>
    let b := s.board l.home l.slot
    let w5 := wordOf (l.slot % 8 + b.bits.length * 2 ^ 32) ||| bit1 (!b.closed) 3 ||| bit1 l.drain 4
    s.putPhys (l.gridDesc + 40) [w5, wordOf (b.bits.length + l.groups.length)]

/-- A group as it is released. -/
def releasedGroup (n : Nat) : Group := ⟨n, .released, 0, [], Barrier.empty, 0, [], []⟩

/-- Releases those of a list of groups that are releasable, in their order; behind a closed gate they are held (R349). -/
def State.releaseGroups (s : State) (key : Nat) (cands : List Nat) : State :=
  match s.launch? key with
  | none => s
  | some l =>
    let b := s.board l.home l.slot
    let new := cands.filter fun n =>
      !b.bits.contains n && !(l.groups.any fun g => g.index == n) && gridReady l.gridWords b.bits n
    if l.closed then s.gridStatus key
    else if b.closed then
      (s.updBoard l.home l.slot fun b => { b with held := b.held || !new.isEmpty }).gridStatus key
    else
      ((s.setLaunch key { l with groups := l.groups ++ new.map releasedGroup }).updBoard l.home l.slot fun b =>
        { b with held := false }).gridStatus key

/-- A grid releases its first groups (R349). -/
def State.startGrid (s : State) (key : Nat) (l : Launch) : State :=
  let s := s.setLaunch key { l with phase := .running, closed := false }
  let s := s.putPhys l.gridDesc (l.gridWords.take 5 ++ [0, 0, 0])
  s.releaseGroups key (List.range (gridTotal l.gridWords))

/-- The grid has ended: every group has retired, or no further one is released and none is left (R353). -/
def State.gridOver (s : State) (l : Launch) : Bool :=
  (l.groups.all fun g => g.phase == .retired) &&
    (l.closed || decide (gridTotal l.gridWords ≤ (s.board l.home l.slot).bits.length))

/-! ## Placement (R350) -/

/-- The first idle pool cores of a cluster, or those given up for a waiting member, if there are enough for a team. -/
def State.teamCores (s : State) (p cl n : Nat) : Option (List Nat) :=
  let cs := ((List.range 16).map fun i => cl * 16 + i).filter fun c => (s.idlePool c || s.givenUp c) && s.inPart p c
  if n ≤ cs.length then some (cs.take n) else none

/-- A place for a group: the home die first, then dies in ascending number (R350). -/
def State.groupPlace (s : State) (l : Launch) : Option (Nat × List (List Nat)) :=
  let t := gridTeams l.gridWords
  let on := fun d => (((s.part l.part).clusters.filter fun cl => cl / 256 == d).filterMap fun cl =>
    s.teamCores l.part cl (gridCores l.gridWords)).take t
  ((l.home :: (List.range 4).filter fun d => d != l.home).map fun d => (d, on d)).find? fun p => p.2.length == t

/-- A set of cores of one cluster as a mask. -/
def coreMask (cs : List Nat) : Nat := cs.foldl (fun m c => m + 2 ^ (c % 16)) 0

/-- The descriptors of a group and its teams (R306, R307). A group placed afresh keeps its level word. -/
def State.groupDescs (s : State) (l : Launch) (fresh : Bool) (base d : Nat) (teams : List (List Nat)) : State :=
  let w3 := l.gridWords.getD 3 0
  let t := teams.length
  let head := (64 * (t + 1) + 511) / 512 * 512
  let n := gridCores l.gridWords
  let w0 := if fresh then levelWord (fld w3 16 2) (fld w3 18 3) 2 false else s.physWord base
  let s := s.putPhys base [w0, wordOf (t + d * 64), 0, wordOf (base + 64), wordOf l.gridDesc, l.idWord, 0, 0]
  (teams.zipIdx).foldl (fun (s : State) p =>
    let cl := (p.1.headD 0) / 16
    s.putPhys (base + 64 + 64 * p.2)
      [levelWord (fld w3 21 2) (fld w3 23 3) 1 (gridCpMode l.gridWords),
       wordOf (coreMask p.1 + cl % 256 * 2 ^ 16 + cl / 256 * 2 ^ 24), 0,
       if gridCpMode l.gridWords then wordOf (base + head + 512 * n * p.2) else 0, wordOf base, l.idWord, 0, 0]) s

/-- An activation is a member of a group of a launch. -/
def isMemberOf (launch group : Nat) (a : Act) : Bool :=
  match a.source with
  | .member l g _ _ => l == launch && g == group
  | _ => false

/-- An activation that a test selects has been stopped and has yet to leave its core (R231). -/
def State.ends (s : State) (p : Act → Bool) : Bool :=
  s.cores.any fun kc => kc.2.act.any (fun a => a.ending.isSome && p a) || kc.2.susp.any (fun a => a.ending.isSome && p a)

/-- GROUP_PLACEMENT (R350): a released group is placed as a gang where it fits, and its members start (R345). -/
def execGroupPlacement (launch group : Nat) (s : State) : Out :=
  match s.launch? launch with
  | none => .next s
  | some l =>
    match l.group? group with
    | none => .next s
    | some g =>
      if l.kind ≠ 1 ∨ g.phase ≠ .released ∨ l.closed ∨ s.gateClosed l ∨ s.ends (isMemberOf launch group) then .next s
      else match s.groupPlace l with
        | none => .next s
        | some (d, teams) =>
          match (if g.desc ≠ 0 then some g.desc else s.arenaFind l.part (groupBytes l.gridWords)) with
          | none => .next s
          | some base =>
            let s := s.groupDescs l (g.desc == 0) base d teams
            let tms : List Team := (teams.zipIdx).map fun p => ⟨p.1, p.1, 0, Barrier.empty, base + 64 + 64 * p.2, false⟩
            let g := { g with phase := .running, teams := tms, bar := Barrier.empty, desc := base }
            let l := l.updGroup group fun _ => g
            let s := s.setLaunch launch l
            let s := (tms.zipIdx).foldl (fun s p => State.startTeam s launch l g p.2 p.1) s
            .next (teams.flatten.foldl (fun (s : State) c => s.updCore c fun k =>
              { k with disp := { k.disp with stealLast := none, tries := 0 } }) s)

/-! ## Retirement (R351–R353) -/

/-- What ended activations of a core have issued is over: accesses acknowledged and commands retired (R325, R351). -/
def State.coreClean (s : State) (core : Nat) : Bool :=
  let k := s.core core
  k.act.all (fun a => a.ending.isNone) && k.susp.all (fun a => a.ending.isNone) &&
  (k.flight.all fun a => a.live || a.inl || a.parts.isEmpty) && (k.chan.inbox.all fun m => m.owned) &&
    (k.mx.inbox.all fun m => m.owned || m.from?.isSome)

/-- RETIREMENT_REPORT (R349, R351): every member of a running group has ended and its work is over; the group's bit is
set, and the groups found releasable are released. -/
def execRetirementReport (launch group : Nat) (s : State) : Out :=
  match s.launch? launch with
  | none => .next s
  | some l =>
    match l.group? group with
    | none => .next s
    | some g =>
      if g.phase ≠ .running ∨ !(g.teams.all fun t => t.live.isEmpty) ∨ !g.dirty.all s.coreClean ∨ !s.nmOver g.dirtyNm then
        .next s
      else
        let s := s.updBoard l.home l.slot fun b => { b with bits := insertRising group b.bits }
        let s := s.setLaunch launch { l with groups := l.groups.filter fun x => x.index != group }
        .next (s.releaseGroups launch (gridAfter l.gridWords [group]))

/-! ## The gate (R348, R354) -/

/-- GGATE_WRITE: the kiosk writes CLOSED of a busy slot; opening releases what has become releasable. -/
def execGgateWrite (die slot : Nat) (v : BitVec 64) (s : State) : Out :=
  if 4 ≤ die ∨ 8 ≤ slot then .next s
  else
    let b := s.board die slot
    match b.launch with
    | none => .next s
    | some key =>
      match s.launch? key with
      | none => .next s
      | some l =>
        if bit v 0 then
          let new := (gridAfter l.gridWords b.bits).filter fun n =>
            !b.bits.contains n && !(l.groups.any fun g => g.index == n) && gridReady l.gridWords b.bits n
          .next ((s.updBoard die slot fun b => { b with closed := true, held := b.held || !new.isEmpty }).gridStatus key)
        else
          let s := s.updBoard die slot fun b => { b with closed := false, held := false }
          .next (s.releaseGroups key (gridAfter l.gridWords b.bits))

/-! ## gid (R355) -/

def execGid (d : Dst) (sel : BitVec 3) (s : State) : Out :=
  run (.one d) (do
    reservedIf (sel == 7#3)
    let _ ← ops [] (.one d)
    let s ← get
    require (s.ctx.lgrid != 0) .privInstr 0 0
    match (s.me.act.bind fun a => a.gang) with
    | none => raise .privInstr 0 0
    | some (l, g, t, r) =>
      let ws := match s.launch? l with
        | some x => x.gridWords
        | none => []
      wr d (match sel.toNat with
        | 0 => wordOf (gridCoord ws g 0)
        | 1 => wordOf (gridCoord ws g 1)
        | 2 => wordOf (gridCoord ws g 2)
        | 3 => wordOf g
        | 4 => wordOf t
        | 5 => wordOf r
        | _ => ws.getD 1 0)) s

end Sys2Proof.Machine
end

