-- ==== Sys2Proof/Machine/Stages.lean ====
section
/-! DEFINITION. Stages, twins and merges (spec/21_dispatch_stages.md R358–R374). Descriptors are named by the canonical
address of their word 0. -/

namespace Sys2Proof.Machine

/-! ## The descriptor as its users find it (R358, R363) -/

/-- The descriptor that A names (R363): 64-aligned, its 128 bytes in shared scratchpad. -/
def stageAt (va : Word) (right : Right) : CM (Nat × Xlated) := do
  let x ← checked va 64 right
  match x.place with
  | .spad d =>
    require (unitOf d == 16 && unitOf (d + 127) == 16) .stageDesc va 0
    let s ← get
    match (List.range 16).find? fun i => s.tagAt (d + 8 * i) == tagPoison with
    | some i => raise .memPoison (va + wordOf (8 * i)) 0
    | none => pure (d, x)
  | _ => raise .stageDesc va 0

/-- KEYPOS, KSH and KBITS keep R359. -/
def State.stKeyOk (s : State) (d : Nat) : Bool :=
  let w := s.stWord d 0
  fld w 3 3 != 0 && decide (1 ≤ fld w 12 6) && decide (fld w 12 6 ≤ 44) && decide (fld w 6 6 + fld w 12 6 ≤ 64)

/-! ## Puts (R364, R365) -/

def execStagePut (a b : Src) (d : Dst) (s : State) : Out :=
  run (.one d) (do
    match ← waitOf .stagePut with
    | some w =>
      match w.served with
      | .value v =>
        popPorts [.one a]
        wr d v
      | .failed c info => raise c w.addr info
      | .no => leave
    | none =>
      checks [.one a, .one (match payloadB b with | .bad v => .bad v | _ => .z)] (.one d)
      let vs ← peek [.one a] (.one d) (pure ())
      let va := vs.getD 0 0
      let (k, x) ← stageAt va .w
      let s ← get
      if s.mustWait x.strong x.pa then stall .drain
      match s.stageView s.cur s.ctx.priv k with
      | .error (c, info) => raise c va info
      | .ok g =>
        require (s.stKeyOk k) .stageDesc va 0
        let us := stmUses a b (s.qSize g.inq - 1)
        let ws ← peek us (.one d) (pure ())
        let s ← get
        let q := (s.stQueueFor k (s.stKey k (ws.drop 1))).1
        require (g.resolved q) .stageDesc va (if q = 0 then 1 else 2)
        if s.qMalformed g.inq || s.stState k == 3 || s.stCls k then raise .queueClosed va (s.qInfo g.inq)
        require (s.portalAdmits g.inq s.me.pid.toNat .produce) .xlatePerm va (permInfo .w)
        drainStores
        needBudget
        modify fun s => { s with puts := s.puts ++ [⟨s.cur, k, s.me.pid.toNat, s.ctx.st, ws.drop 1⟩] }
        let s ← get
        let w := s.me.tagWait .stagePut va (.one d)
        pause { w with begun := true, slot := g.queue q }) s

/-- STAGE_PUT_APPLY (R364, R365): the current core's put is applied at the stage home once its queue has room and no
earlier put to that queue waits. -/
def execStagePutApply (s : State) : Out :=
  match findIdx (fun (p : Put) => p.core == s.cur) s.puts 0 with
  | none => .next s
  | some (i, p) =>
    match s.stageView p.core (s.core p.core).outerCtx.priv p.desc with
    | .error _ => .next s
    | .ok g =>
      let (q, redirected) := s.stQueueFor p.desc (s.stKey p.desc p.words)
      let k := g.queue q
      if s.putBehind i p then .next s
      else if !s.portalAdmits g.inq p.part .produce then
        .next (State.tellServed { s with puts := dropNth s.puts i } p.core (.failed .xlatePerm (permInfo .w)))
      else if s.stFull g q then
        .next (s.updCore p.core fun c => c.updWaitOf false fun w => { w with slot := k })
      else
        let (pos, s) := State.stPutTo { s with puts := dropNth s.puts i } g q p.stamp p.words p.part
        let s := if redirected then s.stField p.desc 32 32 (s.stRcount p.desc + 1) else s
        .next (s.tellServed p.core (.value (wordOf (q + pos * 16))))

/-! ## Attach (R361) -/

/-- The state regions' size in bytes, over the queue indices that the stage may use. -/
def State.stStateBytes (s : State) (d : Nat) : Nat :=
  fld (s.stWord d 4) 0 16 * 8 * (if 1 < s.stTwmax d then 8 else 1)

/-- No two of a list are equal. -/
def distinct : List Nat → Bool
  | [] => true
  | a :: as => !as.contains a && distinct as

/-- The word that a stage descriptor's fields refuse at attach (R361). A core that another stage has bound is refused too
(DESIGN CHOICE, log 74). -/
def State.attachBad (s : State) (d part : Nat) : Option Nat :=
  let w := s.word d
  let es := (List.range 8).map (s.stEntry d)
  let vs := es.filter entValid
  let n := vs.length
  if fld w 0 3 ≠ 0 ∨ bit w 26 ∨ fld w 32 32 ≠ 0 ∨ !s.stKeyOk d ∨ s.stTwmax d < s.stNinst d ∨ s.stTwmax d < n then some 0
  else if n = 0 then some 8
  else match (List.range 8).find? fun i =>
      let e := es.getD i 0
      if i < n then
        !entValid e || entPhase e != 0 || decide (2 ^ s.stKbits d ≤ entBound e) || !s.inPart part (entCore e) ||
          (s.core (entCore e)).disp.stage.any (· != d) ||
          (if i = 0 then entBound e != 0 || entQidx e != 0 else decide (entBound e ≤ entBound (es.getD (i - 1) 0)))
      else entValid e with
    | some i => some (8 + i)
    | none => if !distinct (vs.map entQidx) ∨ !distinct (vs.map entCore) then some 8 else none

/-- The word of the descriptor that names a queue of the stage (R358). -/
def queueWord (q : Nat) : Nat := if q = 0 then 1 else 2

/-- The queues of a stage share one SIZE above KEYPOS (R361), and their slot arrays resolve (R324): what refuses the
first that does not. -/
def State.attachQueues (s : State) (d : Nat) (g : Stage) : Option (Cause × Word) :=
  let size := s.qSize g.inq
  if size ≤ fld (s.word d) 3 3 then some (.stageDesc, 1)
  else (s.stQueues d).findSome? fun q =>
    if s.qSize (g.queue q) ≠ size then some (.stageDesc, wordOf (queueWord q))
    else match s.slotArray g.issuer g.sup (g.queue q) with
      | .error c => some (resolveCause 4 (queueWord q) c)
      | .ok _ => none

/-- The stage that an attaching launch makes of its descriptor, in the launch's space, or the cause that refuses it
(R324, R361). -/
def State.attachStage (s : State) (key d : Nat) (l : Launch) : Except (Cause × Word) Stage := do
  match s.attachBad d l.part with
  | some i => throw (.stageDesc, wordOf i)
  | none => pure ()
  let g ← s.stageNamed l.issuer l.sup d
  match s.attachQueues d g with
  | some c => throw c
  | none => pure ()
  let n := s.stStateBytes d
  match (if n = 0 then .ok 0 else (s.resolve l.issuer l.sup (s.word (d + 24)) n .w).1) with
  | .error c => throw (resolveCause 4 3 c)
  | .ok _ => pure { g with launch := key, part := l.part }

/-- A core is bound to a stage: it leaves the pool, and its dispatcher's pop with it (R361, R366). -/
def State.bindStage (s : State) (d core : Nat) : State :=
  (s.updDie (dieOf core) fun x => { x with pops := x.pops.filter fun p => p.qdie || p.core != core }).updCore core fun k =>
    { k with disp := { k.disp with stage := some d, popping := false } }

/-- A stage attached, or the cause that refuses it (R323, R324, R361). NINST becomes the count of the valid entries
(DESIGN CHOICE, log 74). -/
def State.attach (s : State) (key : Nat) (l : Launch) : Except (Cause × Word) State :=
  match s.place (dieOf l.issuer) l.targetPa with
  | .spad d =>
    if unitOf d ≠ 16 ∨ unitOf (d + 127) ≠ 16 then .error (.stageDesc, 0)
    else match s.attachStage key d l with
      | .error c => .error c
      | .ok g => match s.arenaFind l.part 128 with
        | none => .error (.launchArena, 128)
        | some a =>
          let cores := (s.stValid d).map fun e => entCore (s.stEntry d e)
          let s := ((s.setStage d g).putPhys a g.words).stCtl d fun w => setFld (setFld w 0 2 1) 22 4 cores.length
          let s := s.setLaunch key
            { l with stage := some d, phase := .running, closed := false, blocks := l.blocks ++ [(a, 128)] }
          .ok (cores.foldl (fun (s : State) c => s.bindStage d c) s)
  | _ => .error (.stageDesc, 0)

/-- A stage is over (R372): closed, every queue empty, no activation of it running; or its launch has ended failed. -/
def State.stageOver (s : State) (l : Launch) : Bool :=
  match l.stage with
  | none => true
  | some d => match s.stage? d with
    | none => true
    | some g =>
      l.live == 0 &&
        (l.closed || (s.stState d == 3 && g.change.isNone && (s.stQueues d).all fun q => s.qDepth (g.queue q) == 0))

/-- The cores of a stage are unbound (R372). -/
def State.detach (s : State) (d : Nat) : State :=
  let changing := match (s.stage? d).bind Stage.change with
    | some c => if c.merge then [] else [c.newCore]
    | none => []
  let cores := ((s.stValid d).map fun e => entCore (s.stEntry d e)) ++ changing
  { cores.foldl State.unbind s with stages := SMap.erase s.stages d }

/-! ## Twin, merge, close, info (R364, R366, R368, R372) -/

/-- The private scratchpad's first `n` words copied from one core to another (R366 step 2): a poisoned word stays so. -/
def State.copyCode (s : State) (src dst n : Nat) : State :=
  (List.range n).foldl (fun (s : State) i =>
    let a := privBase src + 8 * i
    let b := privBase dst + 8 * i
    if s.tagAt a = tagPoison then (s.setTag b tagPoison).changed b else (s.putWord b (s.word a)).changed b) s

/-- A free core for a twin: on the die of entry e's core first, then the other dies in ascending order (R366). -/
def State.freeCore (s : State) (p die : Nat) : Option Nat :=
  let cs := fun d => (s.partCores p).filter fun c => dieOf c == d && s.idlePool c
  let least := fun (xs : List Nat) => xs.foldl (fun best c => match best with
    | none => some c
    | some b => if c < b then some c else some b) none
  ((die :: (List.range 4).filter fun d => d != die).filterMap fun d => least (cs d)).head?

/-- An order's refusal: its cause, information and whether it is STAGE_TWIN. -/
abbrev Refused := Cause × Word

/-- A twin ordered (R366): the queue index of the new instance, and the state with the change begun. -/
def State.orderTwin (s : State) (d : Nat) (g : Stage) (k : Nat) : Except Refused (Nat × State) :=
  let n := s.stNinst d
  if s.stState d ≠ 1 ∨ s.stCls d then .error (.stageState, wordOf (s.stState d))
  else if 2 ^ s.stKbits d ≤ k ∨ (s.stValid d).any fun e => entBound (s.stEntry d e) == k then .error (.badOperand, 0)
  else
    let e := s.stRoute d k
    let src := entCore (s.stEntry d e)
    if min 8 (s.stTwmax d) ≤ n then .error (.stageTwin, wordOf n)
    else match s.freeCore g.part (dieOf src) with
    | none => .error (.stageTwin, wordOf n)
    | some c =>
      let q := ((List.range 8).find? fun q => decide (1 ≤ q) &&
        !(s.stValid d).any fun e => entQidx (s.stEntry d e) == q).getD 1
      let s := ((s.stField d 0 2 2).bindStage d c).copyCode src c (min 16384 (fld (s.stWord d 4) 16 16))
      let slots := if g.resolved q then g.slots else match s.slotArray g.issuer g.sup (g.queue q) with
        | .ok pa => SMap.put g.slots q pa
        | .error _ => g.slots
      .ok (q, s.setStage d
        { g with slots := slots, change := some ⟨false, e, k, c, q, true, false⟩, last := SMap.erase g.last c })

/-- A merge ordered (R368): CORE of the closing entry, and the state with the change begun. -/
def State.orderMerge (s : State) (d : Nat) (g : Stage) (i : Nat) : Except Refused (Nat × State) :=
  if s.stState d ≠ 1 ∨ s.stCls d then .error (.stageState, wordOf (s.stState d))
  else if i = 0 ∨ s.stNinst d ≤ i then .error (.badOperand, 0)
  else
    let w := s.stEntry d i
    let s := (s.stField d 0 2 2).stSetEntry d i (setFld w 17 2 2)
    .ok (entCore w, s.setStage d { g with change := some ⟨true, i, entBound w, entCore w, entQidx w, true, false⟩ })

/-- An order of `stage`: checked and begun, or its cause raised. -/
def stageOrder (a b : Src) (d : Dst) (f : State → Nat → Stage → Nat → Except Refused (Nat × State)) (s : State) : Out :=
  let us := [Use.one a, .one b]
  run (.one d) (do
    let vs ← peek us (.one d) (pure ())
    let (k, x) ← stageAt (vs.getD 0 0) .w
    let s ← get
    if s.mustWait x.strong x.pa then stall .drain
    match s.stage? k with
    | none => raise .stageState (vs.getD 0 0) (wordOf (s.stState k))
    | some g =>
      match f s k g (vs.getD 1 0).toNat with
      | .error (c, info) => raise c (vs.getD 0 0) info
      | .ok (v, s') =>
        set s'
        popPorts us
        wr d (wordOf v)) s

def execStageTwin (a b : Src) (d : Dst) (s : State) : Out := stageOrder a b d State.orderTwin s
def execStageMerge (a b : Src) (d : Dst) (s : State) : Out := stageOrder a b d State.orderMerge s

def execStageInfo (a : Src) (d : Dst) (s : State) : Out :=
  run (.one d) (do
    let vs ← peek [.one a] (.one d) (pure ())
    let (k, x) ← stageAt (vs.getD 0 0) .r
    let s ← get
    if s.mustWait x.strong x.pa then stall .drain
    popPorts [.one a]
    wr d (s.word k)) s

def execStageClose (a : Src) (s : State) : Out :=
  run .none (do
    let vs ← peek [.one a] .none (pure ())
    let (k, x) ← stageAt (vs.getD 0 0) .w
    let s ← get
    if s.mustWait x.strong x.pa then stall .drain
    require (s.stState k != 3 && !s.stCls k) .stageState (vs.getD 0 0) (wordOf (s.stState k))
    popPorts [.one a]
    modify fun s => if s.stState k = 2 then s.stField k 26 1 1 else s.stField k 0 2 3) s

/-! ## What a bound core offers (R362, R366–R368) -/

/-- The address of an instance's state (R358). -/
def State.stStateVa (s : State) (d q : Nat) : Word :=
  s.stWord d 3 + wordOf (q * fld (s.stWord d 4) 0 16 * 8)

/-- The record of an activation of a stage (R312, R362). -/
def State.stageAct (s : State) (g : Stage) (src : Source) (entry : Word) (args : List Word) (stamp lsrc : Word) : Act :=
  match s.launch? g.launch with
  | none => ⟨src, entry, args, stamp, false, true, 3, 0, 0, none, [], lsrc, none, 0, 0, 0, 0, 0, 0, 0, [], [], false, none⟩
  | some l =>
    ⟨src, entry, args, stamp, l.sup, true, l.cp, l.retry, l.prio, some g.launch,
      [0, 0, 0, wordOf l.graphDesc, wordOf (s.part l.part).desc], lsrc, none, 0, 0, 0, 0, 0, 0, 0, [], [], false, none⟩

/-- Starts new work on a core: its place in the order of victims returns to the next core (R319). -/
def State.begin (s : State) (core : Nat) (a : Act) (stolen : Bool) : State :=
  (s.startAct core a 0).updCore core fun k => { k with disp := { k.disp with
    stealLast := none, tries := if stolen then 0 else k.disp.tries } }

/-- Starts an activation of a stage on a core; it counts as a member of the stage's launch while it runs. -/
def State.startStage (s : State) (core : Nat) (g : Stage) (a : Act) : State :=
  (s.memberJoins g.launch).begin core a false

/-- The descriptor's address as a stage's activations receive it. -/
def State.stageVa (s : State) (g : Stage) : Word :=
  match s.launch? g.launch with
  | some l => l.target
  | none => 0

/-- Starts SPLIT or MERGE at a record boundary (R366 step 3, R368 step 3). -/
def State.startChange (s : State) (core d : Nat) (g : Stage) (c : Change) : State :=
  let last := SMap.get 0 g.last core
  let state := fun e => s.stStateVa d (entQidx (s.stEntry d e))
  let a := if c.merge then
      s.stageAct g (.merge d) (s.stWord d 7)
        [state (c.entry - 1), state c.entry, s.stageVa g, wordOf (entBound (s.stEntry d c.entry))] last 0
    else s.stageAct g (.split d) (s.stWord d 6) [state c.entry, s.stStateVa d c.queue, wordOf c.key, s.stageVa g] last 0
  let g := { g with change := some { c with started := true } }
  (s.setStage d g).startStage core g a

/-- An activation is one of a stage. -/
def Act.isOfStage (a : Act) (d : Nat) : Bool :=
  match a.source with
  | .body k _ _ => k == d
  | .split k => k == d
  | .merge k => k == d
  | _ => false

/-- No body of an entry's instance runs, its queue is empty, and it has drained what it was handed (R368 step 2). -/
def State.quiescent (s : State) (d : Nat) (g : Stage) (e : Nat) : Bool :=
  let w := s.stEntry d e
  let k := s.core (entCore w)
  s.qDepth (g.queue (entQidx w)) == 0 && !(g.drains.any fun p => p.1 == entCore w) &&
    !k.act.any (·.isOfStage d) && !k.susp.any (·.isOfStage d)

/-- The partition whose put filled the slot at a stage queue's HEAD (R374). -/
def State.origin (s : State) (g : Stage) (q : Nat) : Nat :=
  match SMap.get 0 s.origins (s.stSlot g q (s.qHead (g.queue q))) with
  | 0 => g.part
  | n + 1 => n

/-- Forwards the head record of a queue into the queue of entry e, which is in redirect (R367). A forward that the
capability of INQ refuses is withdrawn, and the kiosk is told (R374; DESIGN CHOICE, log 51). -/
def State.forward (s : State) (d : Nat) (g : Stage) (q e : Nat) (rec : List Word) : Option State :=
  let dest := entQidx (s.stEntry d e)
  let part := s.origin g q
  let admitted := s.portalAdmits g.inq part .produce
  if admitted ∧ s.stFull g dest then none
  else
    let stamp := s.word (s.stSlot g q (s.qHead (g.queue q)))
    let s := if admitted then (s.stPutTo g dest stamp rec part).2
      else s.event 1 (some .xlatePerm) none (some g.part) (wordOf d) (permInfo .w)
    let s := s.stRelease d g q
    let r := s.stRcount d - 1
    let s := if r = 0 then s.stSetEntry d e (setFld (s.stEntry d e) 17 2 0) else s
    some (s.stCtl d fun w =>
      let w := setFld (s.settled d g w) 32 32 r
      if r = 0 then changeEnded w else w)

/-- The body of a queue's head record started, or the record forwarded (R362, R367). -/
def State.takeRecord (s : State) (core d : Nat) (g : Stage) (e q : Nat) : Option State :=
  let k := g.queue q
  let slot := s.stSlot g q (s.qHead k)
  if s.qDepth k = 0 ∨ s.tagAt slot ≠ tagFull then none
  else
    let words := s.slotRecord g q (s.qHead k)
    let key := s.stKey d words
    if e + 1 < s.stNinst d ∧ entPhase (s.stEntry d (e + 1)) = 1 ∧ s.stRoute d key = e + 1 then
      s.forward d g q (e + 1) words
    else
      let stamp := s.word slot
      let a := s.stageAct g (.body d q slot) (s.stWord d 5)
        [s.qSlotVa k (s.qHead k), s.stStateVa d (entQidx (s.stEntry d e)), s.stageVa g, wordOf key] stamp (wordOf slot)
      let g := { g with last := SMap.put g.last core stamp }
      some ((s.setStage d g).startStage core g a)

/-- The queue that an instance takes its next record from: the held queue while it drains it; none while it waits for an
earlier instance to drain its part (R362, R368, R370). -/
def Stage.next (g : Stage) (core own : Nat) : Option Nat :=
  match g.drains with
  | (c, _) :: rest => if c = core then some 8 else if rest.any fun p => p.1 == core then none else some own
  | [] => some own

/-- What a bound core does in the place of its inbox, after every unmasked message (R362): nothing while an activation of
the stage is suspended on it. -/
def State.stageOffer (s : State) (core : Nat) : Option State :=
  let k := s.core core
  k.disp.stage.bind fun d => (s.stage? d).bind fun g =>
    if k.susp.any (·.isOfStage d) then none
    else ((s.stValid d).find? fun e => entCore (s.stEntry d e) == core).bind fun e =>
      match g.change.filter fun c =>
          !c.started && (if c.merge then c.entry == e + 1 && s.quiescent d g c.entry else c.entry == e) with
      | some c => some (s.startChange core d g c)
      | none => (g.next core (entQidx (s.stEntry d e))).bind fun q => s.takeRecord core d g e q

/-! ## Overload and kiosk orders (R371) -/

/-- STAGE_OVERLOAD: the depth of an instance's queue has stayed at ODEPTH: OVL is set and the kiosk is told (R371). -/
def execStageOverload (stage queue : Nat) (s : State) : Out :=
  match s.stage? stage with
  | none => .next s
  | some g =>
    let depth := fld (s.stWord stage 4) 32 16
    if depth = 0 ∨ bit (s.word stage) 2 ∨ !(s.stInstances stage).contains queue ∨ s.qDepth (g.queue queue) < depth then
      .next s
    else .next ((s.stField stage 2 1 1).event 3 none none (some g.part) (wordOf stage) (wordOf queue))

/-- KIOSK_STAGE_ORDER: a twin at a key, or a merge of an entry, with the checks of `stage`; a refusal goes to the kiosk. -/
def execKioskStageOrder (stage : Nat) (merge : Bool) (arg : Nat) (s : State) : Out :=
  match s.stage? stage with
  | none => .next (s.event 1 (some .stageState) none none (wordOf stage) (wordOf (s.stState stage)))
  | some g =>
    match (if merge then s.orderMerge stage g arg else s.orderTwin stage g arg) with
    | .ok (_, s) => .next s
    | .error (c, info) => .next (s.event 1 (some c) none (some g.part) (wordOf stage) info)

end Sys2Proof.Machine
end

