-- ==== Sys2Proof/Machine/Select.lean ====
section
/-! DEFINITION. The dispatcher at work, and launches through their lives (spec/17_dispatch_tasks.md R311–R325;
spec/16_messages.md R289, R290). -/

namespace Sys2Proof.Machine

/-! ## Starting from a source (R312) -/

/-- The physical address of a partition's descriptor, as a level. -/
def State.partLevel (s : State) (core : Nat) : Word := wordOf (s.part (s.core core).pid.toNat).desc

/-- The activation of a launch of KIND 000 (R312). -/
def State.launchAct (s : State) (key : Nat) (l : Launch) (core : Nat) : Act :=
  ⟨.targeted, l.target, l.args, l.stamp, l.sup, true, l.cp, l.retry, l.prio, some key,
    [0, 0, wordOf l.gridDesc, wordOf l.graphDesc, s.partLevel core], 0, none, 0, 0, 0, 0, 0, 0, 0, [], [], false, none⟩

/-- A handler activation (R290): the message becomes the current message. -/
def State.startHandler (s : State) (core : Nat) (m : Message) : State :=
  let k := s.core core
  let h := vget 0 k.clsh m.cls
  let a : Act := ⟨.message m, hdrField h, m.header :: (List.range 3).map fun i => m.payload.getD i 0, m.stamp, m.cls == 31,
    true, h.extractLsb' 56 2, fld h 58 3, 63, none, [0, 0, 0, 0, s.partLevel core], 0, none, 0, 0, 0, 0, 0, 0, 0, [], [], false, none⟩
  let s := s.updCore core fun k => { k with disp := { k.disp with
    inbox := match findIdx (fun x => x == m) k.disp.inbox 0 with
      | some (i, _) => dropNth k.disp.inbox i
      | none => k.disp.inbox } }
  (s.begin core a false).updCore core fun k => { k with disp := { k.disp with current := some m } }

/-- A task started from a slot, by its words and its record (R312, R317). -/
def State.startSlot (s : State) (core : Nat) (x : Popped) (stolen : Bool) : State :=
  let ws := x.words
  let pol := ws.getD 7 0
  let r := x.slot
  let levels := if r.levels.isEmpty then [0, 0, 0, 0, s.partLevel core] else r.levels
  let a : Act := ⟨.slot x.key, ws.getD 0 0, (ws.drop 1).take 4, ws.getD 5 0, false, true, pol.extractLsb' 0 2, fld pol 2 3,
    fld pol 5 6, r.launch, levels, wordOf (r.pa.getD x.key), r.gang, 0, 0, 0, 0, 0, 0, 0, [], [], false, none⟩
  s.begin core a stolen

/-- A slot is received: its words and its record leave their place (R318, R320). -/
def State.receive (s : State) (key : Nat) : Popped × State :=
  let (r, s') := s.takeSlot key
  (⟨key, s.slotWords key, r⟩, s')

/-- A task started from a slot of a deque (R318). -/
def State.startDeque (s : State) (core key : Nat) (stolen : Bool) : State :=
  let (x, s) := s.receive key
  s.startSlot core x stolen

/-- A codelet started from its TCB (R312): a launch's activation holds that launch's levels. -/
def State.startTcb (s : State) (core key : Nat) : State :=
  let w := fun i => s.word (key + 8 * i)
  let c := w 7
  let launch := match SMap.get 0 s.tcbLaunch key with
    | 0 => none
    | n + 1 => some n
  let (grid, graph) := match launch.bind s.launch? with
    | some l => (l.gridDesc, l.graphDesc)
    | none => (0, 0)
  let a : Act := ⟨.tcb key, w 0, [w 2, w 3, w 4, w 5], SMap.get 0 s.tcbStamp key, false, true, c.extractLsb' 56 2,
    fld c 53 3, fld c 58 6, launch, [0, 0, wordOf grid, wordOf graph, s.partLevel core], wordOf key, none, 0, 0, 0, 0, 0, 0, 0, [], [], false, none⟩
  s.begin core a false

/-! ## Sources (R311) -/

/-- The inbox, then what a bound core's stage offers (R289, R362). -/
def State.fromInbox (s : State) (core : Nat) : Option State :=
  let k := s.core core
  match k.chosen fun m => !m.inl && bit (vget 0 k.clsh m.cls) 0 with
  | some m => some (s.startHandler core m)
  | none => s.stageOffer core

/-- The address of a ring's entry (R310). -/
def Core.ringEntry (k : Core) (core b pos : Nat) : Nat :=
  let r := vget 0 k.rring b
  ownSpad core (fld r 3 14 * 8 + 8 * (pos % 2 ^ fld r 20 4))

/-- The TCB that a ring entry names, if it is one of the core's that is ready (R311). -/
def State.readyEntry (s : State) (core : Nat) (e : Word) : Option Nat :=
  if e.toNat % 64 ≠ 0 ∨ !isAliasRegion e.toNat then none
  else match aliasTarget core e.toNat with
  | none => none
  | some pa =>
    match s.place (dieOf core) pa with
    | .spad k =>
      let c := s.word (k + 56)
      if spadCluster k = clusterOf core ∧ unitOf k = core % 16 ∧ fld c 34 14 = core ∧ fld c 48 2 = 1 ∧
          !((List.range 8).any fun i => s.tagAt (k + 8 * i) == tagPoison) then some k
      else none
    | _ => none

/-- One band: its oldest targeted launch, or the ring's entry at HEAD, which is started or dropped (R311). -/
def State.fromBand (s : State) (core b : Nat) : Option State :=
  let k := s.core core
  match k.disp.targeted.find? fun key => (s.launch? key).any fun l => l.prio / 16 == b with
  | some key =>
    let s := s.updCore core fun k => { k with disp := { k.disp with targeted := k.disp.targeted.filter fun x => x != key } }
    match s.launch? key with
    | some l => some (s.begin core (s.launchAct key l core) false)
    | none => some s
  | none =>
    if !bit (vget 0 k.rring b) 24 ∨ k.ringDepth b = 0 then none
    else
      let head := fld (vget 0 k.rrpos b) 0 32
      let e := s.word (k.ringEntry core b head)
      let s := s.updCore core fun k => { k with rrpos := vset k.rrpos b (setFld (vget 0 k.rrpos b) 0 32 ((head + 1) % 2 ^ 32)) }
      match s.readyEntry core e with
      | some t => some (s.startTcb core t)
      | none => some (s.toKiosk core .taskState 0 e)

/-- The first answer of a list of sources. -/
def firstOf (s : State) : List (State → Option State) → Option State
  | [] => none
  | f :: fs => match f s with
    | some s' => some s'
    | none => firstOf s fs

def State.fromRings (s : State) (core : Nat) : Option State :=
  firstOf s ([3, 2, 1, 0].map fun b s => State.fromBand s core b)

def State.fromDeque (s : State) (core : Nat) : Option State :=
  match s.dequePop core false with
  | some (key, s) => some (s.startDeque core key false)
  | none => none

/-- A pop sent to the pergola root, where it waits (R320). -/
def State.askDieQueue (s : State) (core : Nat) : State :=
  let k := s.core core
  if k.disp.popping then s
  else
    (s.updCore core fun k => { k with disp := { k.disp with popping := true } }).updDie (dieOf core) fun d =>
      { d with pops := d.pops ++ [⟨core, k.pid.toNat, false⟩] }

/-- The core takes work from its die queue: POOL is set and no stage holds it (R310, R366). -/
def Core.popsDie (k : Core) : Bool := k.pool && k.disp.stage.isNone

/-- The place of a core's pop among those of its partition at the pergola root; that of its next, where it has none. -/
def State.popPlace (s : State) (core : Nat) : Nat :=
  let ps := (s.die (dieOf core)).pops.filter fun p => p.part == (s.core core).pid.toNat
  match findIdx (fun (p : Pop) => p.core == core && !p.qdie) ps 0 with
  | some (i, _) => i
  | none => ps.length

/-- The die queue holds a slot for a core: it is asked for, and waited for (R311, R320). -/
def State.dieQueueHolds (s : State) (core : Nat) : Bool :=
  let p := (s.core core).pid.toNat
  (s.core core).popsDie && s.pgReady (dieOf core) p && decide (s.popPlace core < s.pgDepth (dieOf core) p)

/-- A die-queue slot that has come is started; one that the queue holds is asked for (R311, R320). -/
def State.fromDieQueue (s : State) (core : Nat) : Option State :=
  match (s.core core).disp.popped with
  | some x => some ((s.updCore core fun k => { k with disp := { k.disp with popped := none } }).startSlot core x false)
  | none => if s.dieQueueHolds core then some (s.askDieQueue core) else none

/-- The cores that a core may steal from, in their order (R319): its own cluster from the next core up, then the
partition's other clusters in ascending order from its own, core c first in each. -/
def State.victims (s : State) (core : Nat) : List Nat :=
  let cl := clusterOf core
  let c := core % 16
  let own := (List.range 15).map fun i => cl * 16 + (c + 1 + i) % 16
  let others := (s.part (s.core core).pid.toNat).clusters.filter fun x => x != cl
  let order := (others.filter fun x => decide (cl < x)) ++ others.filter fun x => decide (x < cl)
  own ++ (order.map fun x => (x * 16 + c) :: ((List.range 16).filter fun i => i != c).map fun i => x * 16 + i).flatten

/-- A list from the place after an element on, wrapping at its end. -/
def rotateAfter (v : Option Nat) (xs : List Nat) : List Nat :=
  match v.bind fun v => findIdx (fun x => x == v) xs 0 with
  | some (i, _) => xs.drop (i + 1) ++ xs.take (i + 1)
  | none => xs

/-- The next victim after the last one tried: an enabled core of the partition with an enabled deque (R319). -/
def State.nextVictim (s : State) (core : Nat) : Option Nat :=
  let k := s.core core
  (rotateAfter k.disp.stealLast (s.victims core)).find? fun x => s.inPart k.pid.toNat x && (s.core x).dqEn

/-- A steal asked of the next victim (R319). -/
def State.askSteal (s : State) (core : Nat) : State :=
  let k := s.core core
  if fld k.steal 0 8 = 0 ∨ k.disp.backoff ∨ k.disp.asking.isSome then s
  else match s.nextVictim core with
    | some v => s.updCore core fun k => { k with disp := { k.disp with asking := some v } }
    | none => s

/-- The sources in the order of DORD (R311). -/
def State.sources (s : State) (core : Nat) : Option State :=
  let inbox := fun (s : State) => s.fromInbox core
  let rings := fun (s : State) => s.fromRings core
  let own := fun (s : State) => s.fromDeque core
  let die := fun (s : State) => s.fromDieQueue core
  firstOf s (match fld (s.core core).dord 0 2 with
    | 0 => [inbox, rings, own, die]
    | 1 => [inbox, rings, die, own]
    | 2 => [rings, inbox, own, die]
    | _ => [inbox, own, rings, die])

/-- DISPATCH_SELECT (R311): an idle core takes its first source that holds work; with none, a pop goes to the pergola root
to wait there, and then it steals. -/
def execDispatchSelect (s : State) : Out :=
  let core := s.cur
  let k := s.me
  if !s.coreLive core ∨ k.act.isSome ∨ k.inl.isSome ∨ k.trapping.isSome ∨ k.disp.asking.isSome ∨ s.halted core then .next s
  else if k.susp.isSome ∧ !s.requested core then .next (s.resume core)
  else match s.sources core with
    | some s => .next s
    | none => .next (if k.popsDie ∧ !k.disp.popping then s.askDieQueue core else s.askSteal core)

/-- STEAL (R318, R319): the current core's dispatcher answers a thief that has asked it. -/
def execSteal (thief : Nat) (s : State) : Out :=
  let t := s.core thief
  if t.disp.asking ≠ some s.cur then .next s
  else
    let s := s.updCore thief fun k => { k with disp := { k.disp with asking := none } }
    match s.dequePop s.cur true with
    | some (key, s) => .next (s.startDeque thief key true)
    | none =>
      .next (s.updCore thief fun k =>
        let tries := k.disp.tries + 1
        let spent := decide (fld k.steal 0 8 ≤ tries)
        { k with disp := { k.disp with stealLast := some s.cur, tries := if spent then 0 else tries, backoff := spent } })

/-- STEAL_BACKOFF_EXPIRY (R319). -/
def execStealBackoffExpiry (s : State) : Out :=
  .next (s.updMe fun k => { k with disp := { k.disp with backoff := false } })

/-- READY_PUSH (R315): the first push that waits in the current core's dispatcher is written at TAIL of its band's ring;
one that finds its ring full or not enabled holds up those behind it. -/
def execReadyPush (s : State) : Out :=
  let k := s.me
  match k.disp.pushes with
  | [] => .next s
  | p :: ps =>
    let b := fld (s.word (p.pa + 56)) 58 6 / 16
    let r := vget 0 k.rring b
    if !bit r 24 ∨ 2 ^ fld r 20 4 ≤ k.ringDepth b then .next s
    else
      let tail := fld (vget 0 k.rrpos b) 32 32
      let a := k.ringEntry s.cur b tail
      let s := (s.putWord a (aliasOf p.pa)).changed a
      .next (s.updMe fun k =>
        { k with
          rrpos := vset k.rrpos b (setFld (vget 0 k.rrpos b) 32 32 ((tail + 1) % 2 ^ 32))
          disp := { k.disp with pushes := ps } })

/-- DIE_QUEUE_POP (R320): the pergola root hands the next position to the pop that has waited longest, and with it the
slot's words and its membership (R338). -/
def execDieQueuePop (die part : Nat) (s : State) : Out :=
  match findIdx (fun (p : Pop) => p.part == part) (s.die die).pops 0 with
  | none => .next s
  | some (i, p) =>
    if 16 ≤ part ∨ !s.pgReady die part ∨ s.pgDepth die part = 0 then .next s
    else
      let head := fld (s.pgPos die part) 0 32
      let pa := s.pgSlot die part head
      let s := s.updDie die fun k =>
        { k with
          pops := dropNth k.pops i
          pgpos := vset k.pgpos part (setFld (vget 0 k.pgpos part) 0 32 ((head + 1) % 2 ^ 32)) }
      let (key, s) := match s.place die pa with
        | .hbm k => (k, s.readLine k 64)
        | .spad k => (k, s)
        | _ => (0, s)
      if p.qdie then
        let ws := s.slotWords key
        .next ((s.passSlot p.core key).updCore p.core fun k => k.updWaitOf false fun w =>
          { w with served := .value (wordOf pa), vals := (List.range 5).map fun j => (j, some (ws.getD j 0)) })
      else
        let (x, s) := s.receive key
        .next (s.updCore p.core fun k => { k with disp := { k.disp with popping := false, popped := some x } })

/-! ## Launches through their lives (R321–R326) -/

/-- A launch is sent to the dispatcher of its core, which holds up to four (R321). -/
def State.startTargeted (s : State) (key : Nat) (l : Launch) : Option State :=
  if 4 ≤ (s.core l.core).disp.targeted.length then none
  else
    let s := s.setLaunch key { l with phase := .running, live := l.live + 1, closed := true }
    some (s.updCore l.core fun k => { k with disp := { k.disp with targeted := k.disp.targeted ++ [key] } })

/-- A launch written to the die queue of its home die; it waits while the ring is full (R320). -/
def State.startAny (s : State) (key : Nat) (l : Launch) : Option State :=
  let d := l.home
  let p := l.part
  if 2 ^ s.pgLog2 d p ≤ s.pgDepth d p then none
  else
    let tail := fld (s.pgPos d p) 32 32
    let pa := s.pgSlot d p tail
    let pol := wordOf (l.cp.toNat + l.retry % 8 * 4 + l.prio % 64 * 32)
    let s := s.writeSlot (fun o => s.place d (pa + o)) ([l.target] ++ l.args ++ [l.stamp, l.idWord, pol])
    let r : SlotRec := ⟨some key, [0, 0, 0, wordOf l.graphDesc, wordOf (s.part p).desc], none, none⟩
    let s := match s.place d pa with
      | .hbm k => { s with slots := SMap.put s.slots k { r with pa := some pa } }
      | .spad k => { s with slots := SMap.put s.slots k r }
      | _ => s
    let s := s.updDie d fun k => { k with pgpos := vset k.pgpos p (setFld (vget 0 k.pgpos p) 32 32 ((tail + 1) % 2 ^ 32)) }
    some (s.setLaunch key { l with phase := .running, live := l.live + 1, closed := true })

/-- The TCBs of a task set. -/
def Launch.tcbs (l : Launch) : List Nat := (List.range (l.args.getD 0 0).toNat).map fun i => l.targetPa + 64 * i

/-- A TCB refuses a task-set launch: its owner or its state (R337, R340). -/
def State.tcbRefuses (s : State) (pa : Nat) : Option Word :=
  match s.place 0 pa with
  | .spad k =>
    let c := s.word (k + 56)
    if unitOf k < 16 ∧ spadCluster k * 16 + unitOf k = fld c 34 14 ∧ (fld c 48 2 = 0 ∨ fld c 48 2 = 3) then none else some c
  | _ => some 0

/-- One TCB of a task set reset and released (R321). A release that its home refuses is a fault of the launch. -/
def State.releaseTask (s : State) (key : Nat) (stamp : Word) (pa : Nat) : State :=
  match s.place 0 pa with
  | .spad k =>
    let s := match s.releaseTcb (.spad k) (some key) with
      | .ok (_, s) => s
      | .error _ => s
    match s.arrive (.spad (k + 8)) 1 1 stamp with
    | .ok s => s
    | .error (c, _) => s.event 1 (some c) none none (wordOf pa) 0
  | _ => s

/-- A task set starts: every TCB is checked, then reset and released in ascending order (R321). -/
def State.startTasks (s : State) (key : Nat) (l : Launch) : Except (Cause × Word) State :=
  match l.tcbs.findSome? s.tcbRefuses with
  | some c => .error (.taskState, c)
  | none =>
    let s := s.setLaunch key { l with phase := .running, live := l.live + l.tcbs.length, closed := true }
    .ok (l.tcbs.foldl (fun (s : State) pa => s.releaseTask key l.stamp pa) s)

/-- Graph members whose predecessors have all retired enter the engines of their home dies (R322). -/
def State.startMembers (s : State) (key : Nat) : State :=
  match s.launch? key with
  | none => s
  | some l =>
    let done := fun i => ((l.members.zipIdx).filter fun p => p.1.retired &&
      (List.range 4).any fun j => fld (p.1.words.getD 7 0) (16 * j) 16 == i).foldl (fun n p =>
        n + ((List.range 4).filter fun j => fld (p.1.words.getD 7 0) (16 * j) 16 == i).length) 0
    let ready := fun (i : Nat) (m : GMember) => !m.started && !l.closed && done i == m.preds
    let keys := ((l.members.zipIdx).filter fun p => ready p.2 p.1).map fun p => p.1.key
    let s := s.setLaunch key { l with members := l.members.mapIdx fun i m => if ready i m then { m with started := true } else m }
    keys.foldl (fun (s : State) k => match s.launch? k with
      | some x => (s.setLaunch k { x with phase := .serial }).updDie x.home fun d => { d with engine := d.engine ++ [k] }
      | none => s) s

/-- An earlier launch of the same descriptor address has not retired (R323). -/
def State.serialBlocked (s : State) (key : Nat) (l : Launch) : Bool :=
  l.kind == 3 && l.serialized && s.launches.any fun kl =>
    decide (kl.1 < key) && kl.2.kind == 3 && kl.2.targetPa == l.targetPa && kl.2.part == l.part && kl.2.phase != .retired

/-- A launch that its start refuses: the launch itself, or, of a graph member, a fault of the graph's launch. -/
def State.startFails (s : State) (key : Nat) (l : Launch) (c : Cause × Word) : State :=
  match l.parent with
  | none => s.setLaunch key (l.refuse c)
  | some (r, _) =>
    let s := s.setLaunch key { l with phase := .running, live := 0, closed := true }
    s.updLaunch r fun x => { x with
      faults := sat (2 ^ 32 - 1) (x.faults + 1), failed := true, first := x.first <|> some (c.1, l.target) }

/-- A launch whose checks have passed starts; none while it must wait in the engine. -/
def State.startLaunch (s : State) (key : Nat) (l : Launch) : Option State :=
  if s.serialBlocked key l then none
  else match l.kind with
    | 0 => if l.any then s.startAny key l else s.startTargeted key l
    | 1 => some (s.startGrid key l)
    | 2 => some (match s.startTasks key l with
      | .ok s => s
      | .error c => s.startFails key l c)
    | 3 => some ((s.setLaunch key { l with phase := .running, closed := false }).startMembers key)
    | _ => some (match s.attach key l with
      | .ok s => s
      | .error c => s.startFails key l c)

/-- A step of a launch in its engine: its checks, or its start; none where it can make none. -/
def State.engineStep (s : State) (d key : Nat) : Option State :=
  match s.launch? key with
  | none => some (s.leaveEngine d key)
  | some l =>
    match l.phase with
    | .queued => some (s.checkLaunch key l)
    | .serial => (s.startLaunch key l).map fun s => s.leaveEngine d key
    | _ => some (s.leaveEngine d key)

/-- LAUNCH_ENQUEUE (R321, R323): the first launch of a die's engine that can go on does so. -/
def execLaunchEnqueue (die : Nat) (s : State) : Out :=
  .next (((s.die die).engine.findSome? fun key => s.engineStep die key).getD s)

/-- No member of a launch is left and none can start (R325). -/
def State.launchOver (s : State) (l : Launch) : Bool :=
  l.refused ||
  (l.dirty.all s.coreClean && s.nmOver l.dirtyNm && (l.groups.all fun g => g.dirty.all s.coreClean && s.nmOver g.dirtyNm) &&
    (match l.kind with
      | 1 => l.live == 0 && s.gridOver l
      | 3 => l.members.all fun m => m.retired || (l.closed && !m.started)
      | 4 => s.stageOver l
      | _ => l.live == 0 && l.closed))

/-- The arms that stand after a launch has retired: those of its TCBs go, and those that are left when the last launch of
their file, or of an activation of its launches, retires (R341; log 18). -/
def State.armsAfter (s : State) (key : Nat) : SMap (List Nat) :=
  s.injects.filterMap fun p =>
    let rest := p.2.filter fun l => l != key
    if SMap.get 0 s.tcbLaunch p.1 = key + 1 ∨ (p.2.contains key ∧ rest.isEmpty) then none else some (p.1, rest)

/-- A launch's scoreboard slot is free again (R347). -/
def State.freeBoard (s : State) (key : Nat) : State :=
  match s.launch? key with
  | some l => if l.kind = 1 ∧ (s.board l.home l.slot).launch = some key then s.updBoard l.home l.slot fun _ => Board.reset else s
  | none => s

/-- What a launch held is freed when it retires: its scoreboard slot and those of its members that never started, its
stage, and the arms of its TCBs (R341). -/
def State.freeLaunch (s : State) (key : Nat) (l : Launch) : State :=
  let s := { s with injects := s.armsAfter key }
  let s := (key :: l.members.map GMember.key).foldl State.freeBoard s
  match l.stage with
  | some d => s.detach d
  | none => s

/-- The words of a completion record (R325). -/
def Launch.record (l : Launch) (now : Nat) (count : Nat) : List Word :=
  let status := if l.refused then 2 else if l.failed then 1 else 0
  let (c, a) := match l.first with
    | some (c, a) => (c.code.zeroExtend 64, a)
    | none => (0, 0)
  [wordOf (status + l.faults % 2 ^ 32 * 2 ^ 32), l.stamp, wordOf now, l.idWord, c, a, l.user, wordOf count]

/-- Writes a completion record; a word that its home refuses is reported as COMPL_FAULT (R325). -/
def State.writeRecord (s : State) (l : Launch) (pa : Nat) (ws : List Word) : State :=
  (ws.zipIdx).foldl (fun (s : State) p =>
    match s.homeStore 0x3FFF (s.place 0 (pa + 8 * p.2)) 8 p.1 false with
    | .ok s => s
    | .error (c, _) => s.event 1 (some .complFault) none (some l.part) (wordOf (pa + 8 * p.2))
        (wordOf (c.code.toNat + p.2 * 256))) s

/-- MEMBER_RETIREMENT (R322, R325): a launch whose members have all retired writes its record, or, as a member of a
graph, lets its successors start. -/
def execMemberRetirement (launch : Nat) (s : State) : Out :=
  match s.launch? launch with
  | none => .next s
  | some l =>
    if l.phase ≠ .running ∨ !s.launchOver l then .next s
    else match l.parent with
      | some (r, i) =>
        let s := (s.freeLaunch launch l).setLaunch launch { l with phase := .retired }
        let s := s.updLaunch r fun x => { x with live := x.live - 1, members := x.members.mapIdx fun j m =>
          if j = i then { m with retired := true } else m }
        let s := match s.launch? r with
          | some x => s.putPhys (x.graphDesc + 16) [wordOf ((x.members.filter fun (m : GMember) => !m.retired).length)]
          | none => s
        .next (s.startMembers r)
      | none =>
        if (l.compl.map fun pa => s.wqFull (s.place 0 pa)).getD false then .next s
        else
          let s := (s.freeLaunch launch l).setLaunch launch { l with phase := .recorded }
          match l.compl with
          | none => .next s
          | some pa =>
            let n := (s.die l.home).compl + 1
            let s := s.updDie l.home fun k => { k with compl := n }
            .next (s.writeRecord l pa (l.record s.ns n))

/-- An MSI-X message, or a pending bit where the vector is masked (R325). -/
def State.raiseMsix (s : State) (fn vec : Nat) : State :=
  if s.host.unmasked.contains (fn, vec) then { s with host := { s.host with sent := s.host.sent ++ [(fn, vec)] } }
  else { s with host := { s.host with pending := (fn, vec) :: s.host.pending.filter fun p => p != (fn, vec) } }

/-- COMPLETION_SIGNAL (R325): once the record has been accepted, the arrival at SIGNAL and then MSI-X. -/
def execCompletionSignal (launch : Nat) (s : State) : Out :=
  match s.launch? launch with
  | none => .next s
  | some l =>
    if l.phase ≠ .recorded then .next s
    else
      let s := s.setLaunch launch { l with phase := .retired }
      let s := match l.signal with
        | none => s
        | some pa =>
          let fault := fun (c : Cause) => s.event 1 (some .complFault) none (some l.part) (wordOf pa) (wordOf (c.code.toNat + 8 * 256))
          if pa % 8 ≠ 0 then fault .align
          else match s.arrive (s.place 0 pa) 1 1 l.stamp with
            | .ok s => s
            | .error (c, _) => fault c
      .next (match l.msix with
        | some v => s.raiseMsix (l.part + 1) v
        | none => s)

/-- MSI_X_UNMASK (R325): a vector is unmasked, and its pending message is sent. -/
def execMsiXUnmask (fn vec : Nat) (s : State) : Out :=
  let s := { s with host := { s.host with unmasked := (fn, vec) :: s.host.unmasked.filter fun p => p != (fn, vec) } }
  .next (if s.host.pending.contains (fn, vec) then
    { s with host := { s.host with
        pending := s.host.pending.filter fun p => p != (fn, vec), sent := s.host.sent ++ [(fn, vec)] } }
    else s)

end Sys2Proof.Machine
end

