-- ==== Sys2Proof/Machine/NearMemory.lean ====
section
/-! DEFINITION. The near-memory engine of the stacks (spec/23_stacks.md R382, R392–R401; spec/14_cluster_engine.md R268):
`ecmd`, the commands line by line, their failures and replies. Each event row moves the command at the head of a context
by one line of its destination, or one row of a matrix. -/

namespace Sys2Proof.Machine

/-! ## The command block (R396) -/

abbrev NmBlock := List Word

def NmBlock.w (b : NmBlock) (i : Nat) : Word := b.getD i 0
def NmBlock.op (b : NmBlock) : Nat := fld (b.w 0) 0 4
def NmBlock.skipp (b : NmBlock) : Bool := bit (b.w 0) 4
def NmBlock.wsout (b : NmBlock) : Bool := bit (b.w 0) 5
def NmBlock.rnd (b : NmBlock) : BitVec 2 := BitVec.ofNat 2 (fld (b.w 0) 6 2)
def NmBlock.efmt (b : NmBlock) : Nat := fld (b.w 0) 8 3
def NmBlock.count (b : NmBlock) : Nat := fld (b.w 0) 32 32
def NmBlock.a (b : NmBlock) : Nat := fld (b.w 3) 0 32
def NmBlock.b (b : NmBlock) : Nat := fld (b.w 3) 32 32
def NmBlock.rows (b : NmBlock) : Nat := fld (b.w 7) 0 32
def NmBlock.cols (b : NmBlock) : Nat := fld (b.w 7) 32 32
/-- The element kind of the matrix. -/
def NmBlock.fmt (b : NmBlock) : Fmt := (fmtOf b.efmt).getD Fmt.f32
/-- Bytes of a row of the matrix. -/
def NmBlock.rowBytes (b : NmBlock) : Nat := b.cols * b.fmt.width / 8
/-- Bytes of one result of NM_GEMV or NM_REDUCE. -/
def NmBlock.resBytes (b : NmBlock) : Nat := if b.wsout then 16 else 4

/-- COUNT and the dimensions are in the range of R398. -/
def NmBlock.inRange (b : NmBlock) : Bool :=
  let n := b.count
  match b.op with
  | 0 => n == 0 && decide (1 ≤ b.rows) && decide (b.rows ≤ 2 ^ 20) && decide (1 ≤ b.cols) && decide (b.cols ≤ 16384)
  | 1 => decide (1 ≤ n) && decide (n ≤ 2 ^ 24)
  | 2 => decide (1 ≤ n) && decide (n ≤ 2 ^ 24)
  | 3 => decide (8 ≤ n) && decide (n ≤ 2 ^ 23) && n % 8 == 0
  | 4 => decide (8 ≤ n) && decide (n ≤ 2 ^ 23) && n % 8 == 0
  | _ => decide (1 ≤ n) && decide (n ≤ 64)

/-- NM_CMD, but for the overlap of NM_COPY (R397, R398). An address that the operation needs and that is zero is
malformed (log 21). -/
def NmBlock.bad (b : NmBlock) : Bool :=
  let op := b.op
  let x := (b.w 2).toNat
  let v := (b.w 6).toNat
  decide (5 < op) || fld (b.w 0) 11 21 != 0 ||
  (if op = 0 then decide (b.efmt < 2) else b.efmt != 0) ||
  (op != 0 && (b.w 7 != 0)) || (op != 0 && op != 5 && b.w 6 != 0) || (op == 5 && b.w 3 != 0) ||
  b.w 1 == 0 || (b.w 1).toNat % 64 != 0 || (op != 3 && x == 0) || ((op == 0 || op == 5) && v == 0) ||
  ((op == 4 || op == 5) && x % 64 != 0) ||
  ((op == 0 || op == 2) && x % (if b.wsout then 16 else 4) != 0) ||
  (op == 1 && x % 4 != 0) || (op == 0 && v % 4 != 0) ||
  !b.inRange || (op == 0 && b.b != 0) || (op == 0 && b.efmt == 7 && b.cols % 2 == 1)

/-- An extent of a command: the word that names it, its bytes, the right it needs, and whether it lies in the stack. -/
structure Extent where
  word  : Nat
  bytes : Nat
  right : Right
  inside : Bool
  deriving DecidableEq, Repr

/-- The extents of a command (R397, R398). -/
def NmBlock.extents (b : NmBlock) : List Extent :=
  let n := b.count
  (match b.op with
    | 0 => [⟨1, b.rows * b.rowBytes, .r, true⟩, ⟨2, b.rows * b.resBytes, .w, false⟩, ⟨6, 4 * b.cols, .r, false⟩]
    | 1 => [⟨1, 4 * n, .w, true⟩, ⟨2, 4 * n, .r, true⟩]
    | 2 => [⟨1, 4 * n, .r, true⟩, ⟨2, b.resBytes, .w, false⟩]
    | 3 => [⟨1, 8 * n, .w, true⟩]
    | 4 => [⟨1, 8 * n, .w, true⟩, ⟨2, 8 * n, .r, true⟩]
    | _ => [⟨1, 4096 * n, .w, true⟩, ⟨2, 4096 * n, .r, false⟩, ⟨6, 8 * n, .w, false⟩]) ++
  (if b.w 4 = 0 then [] else [⟨4, 8, .w, false⟩])

/-- An extent translated in the issuing activation's space: its address, MIG, and the generation (R35, R397). -/
def State.extent (s : State) (core : Nat) (sup : Bool) (va : Word) (e : Extent) : Except Cause (Nat × Bool × Nat) × State :=
  match s.resolve core sup va e.bytes e.right with
  | (.error c, s) => (.error c, s)
  | (.ok pa, s) => (.ok (match s.translateHit core sup va e.right with
      | .ok x => (pa, x.mig, x.gen)
      | _ => (pa, false, (s.cluster (clusterOf core)).gen)), s)

/-- The extent lies in the stack-linear window of a stack (R21). -/
def inWindow (stack pa bytes : Nat) : Bool :=
  let lo := hbmBase + stack * 0x1000000000
  decide (lo ≤ pa) && decide (pa + bytes ≤ lo + 48 * 2 ^ 30)

/-- A cause of a near-memory command (R402). -/
def nmRec (pc : Word) (c : Cause) (addr info : Word) : CauseRec := engineRec c addr info pc

/-- The translations of a command's extents, up to the first that fails. -/
def State.nmExtents (core : Nat) (sup : Bool) (b : NmBlock) (pc : Word) : List Extent → State → NmCmd → NmCmd × State
  | [], s, m => (m, s)
  | e :: es, s, m =>
    let va := b.w e.word
    match s.extent core sup va e with
    | (.error c, s) => ({ m with bad := some (nmRec pc .nmXlate va (c.code.zeroExtend 64)) }, s)
    | (.ok (pa, mig, gen), s) =>
      let m := { m with gen := min m.gen gen }
      let m := match e.word with
        | 1 => { m with y := pa }
        | 2 => { m with x := pa }
        | 4 => { m with reply := pa }
        | _ => { m with leaf := pa }
      State.nmExtents core sup b pc es s (if mig then { m with moving := e.word :: m.moving } else m)

/-- NM_ADDR_SPAN: the first extent that leaves the stack; then the overlap of NM_COPY (R397, R398). -/
def NmCmd.spanBad (m : NmCmd) (stack : Nat) (b : NmBlock) : Option CauseRec :=
  let at' := fun (e : Extent) => if e.word = 1 then m.y else m.x
  match b.extents.find? fun e => e.inside && !inWindow stack (at' e) e.bytes with
  | some e => some (nmRec m.pc .nmAddrSpan (b.w e.word) (wordOf e.word))
  | none =>
    if b.op = 4 ∧ m.x < m.y + 8 * b.count ∧ m.y < m.x + 8 * b.count then some (nmRec m.pc .nmCmd 0 (b.w 0)) else none

/-! ## What an engine finds at a line -/

/-- The place of a physical address that a command holds. -/
def NmCmd.place (m : NmCmd) (s : State) (pa : Nat) : Place := s.place (dieOf m.core) pa

/-- The address was translated with MIG set. -/
def NmCmd.mig (m : NmCmd) (word : Nat) : Bool := m.moving.contains word

/-- A line read: pulled where it is migrating and absent; whether it is poisoned (R391, R393, R399). -/
def State.nmRead (s : State) (m : NmCmd) (word pa : Nat) : Except HomeErr (Bool × State) :=
  let pl := m.place s pa
  match s.settleLine (dieOf m.core) (m.mig word) pl with
  | .error e => .error e
  | .ok s =>
    match pl with
    | .hbm k =>
      if s.offline k then .error (.stackOffline, wordOf (stackOf k))
      else
        let s := s.readLine k 64
        .ok (s.poisoned k, s)
    | .spad _ => .ok (s.linePoison pl, s)
    | _ => .ok (false, s)

/-- The vector of NM_GEMV as the cluster engine reads it: its first `n` words (R397, R399). -/
def State.nmVector (core : Nat) (m : NmCmd) (va : Word) : Nat → Nat → State → Except CauseRec (List (BitVec 32)) × State
  | 0, _, s => (.ok [], s)
  | n + 1, i, s =>
    let x : Xlated := ⟨m.leaf + 4 * i, s.place (dieOf core) (m.leaf + 4 * i), false, m.mig 6, 0, 0, 7, 0⟩
    match s.readAt core x 4 with
    | (.error .memPoison, s) => (.error (nmRec m.pc .nmPoison (va + wordOf (4 * i)) 0), s)
    | (.error c, s) => (.error (nmRec m.pc c (va + wordOf (4 * i)) (wordOf m.y)), s)
    | (.ok w, s) =>
      match State.nmVector core m va n (i + 1) s with
      | (.ok ws, s) => (.ok (w.truncate 32 :: ws), s)
      | (.error e, s) => (.error e, s)

/-- A command as the cluster engine sends it: checked, translated, with its vector (R396, R397). -/
def State.nmMake (s : State) (core stack value : Nat) (b : NmBlock) : NmCmd × State :=
  let k := s.core core
  let pc := k.ctx.pc
  let m : NmCmd := ⟨b, k.ctx.st, core, k.pid.toNat, pc, value, 0, 0, 0, 0, [], [], none, (s.cluster (clusterOf core)).gen, k.nextId⟩
  if b.bad then ({ m with bad := some (nmRec pc .nmCmd 0 (b.w 0)) }, s)
  else
    let (m, s) := State.nmExtents core k.ctx.priv b pc b.extents s m
    if m.bad.isSome then (m, s)
    else match m.spanBad stack b with
      | some r => ({ m with bad := some r }, s)
      | none =>
        if b.op ≠ 0 then (m, s)
        else match State.nmVector core m (b.w 6) b.cols 0 s with
          | (.ok vs, s) => ({ m with vec := vs }, s)
          | (.error r, s) => ({ m with bad := some r }, s)

/-! ## ecmd (R268, R382, R395, R401) -/

def State.nmCtx (s : State) (n c : Nat) : NmCtx := vget NmCtx.reset (s.stack n).ctxs c

def State.updNm (s : State) (n c : Nat) (f : NmCtx → NmCtx) : State :=
  s.updStack n fun k => { k with ctxs := vset k.ctxs c (f (vget NmCtx.reset k.ctxs c)) }

/-- Accesses that go before a command block: the activation's own, and requests of its cluster that are bound for the
stack's write lane, in its engine's rings or injected (R382, R401). -/
def State.nmBehind (s : State) (core stack : Nat) : Bool :=
  (s.core core).flight.any (fun a => a.live && !a.parts.isEmpty) ||
  (s.cores.any fun kc => clusterOf kc.1 == clusterOf core && kc.2.flight.any fun a => a.lane.any fun p =>
    match s.place (dieOf core) p.pa with
    | .hbm k => stackOf k == stack
    | _ => false)

/-- The block enters a context's inbox (R395). -/
def State.nmEnter (s : State) (stack c : Nat) (b : NmBlock) : Word × State :=
  let v := (s.nmCtx stack c).issued + 1
  let (m, s) := s.nmMake s.cur stack v b
  let s := s.updNm stack c fun x => { x with inbox := x.inbox ++ [m], issued := v }
  (wordOf v, s.updMe fun k => { k with act := k.act.map fun a => { a with nm := a.nm ++ [⟨stack, c, v, m.pc⟩] } })

def execEcmd (a b : Src) (d : Dst) (s : State) : Out :=
  run (.one d) (do
    let us := [Use.one a, .one b]
    let vs ← peek us (.one d) (pure ())
    let va := vs.getD 0 0
    let h := vs.getD 1 0
    let s ← get
    require (fld h 0 2 == 2 && s.handleOk h) .badOperand 0 0
    aligned va 64
    let ws ← plainWords (wordsAt va 8 .r)
    let s ← get
    if 16 ≤ (s.nmCtx (fld h 8 4) (fld h 2 3)).inbox.length ∨ s.nmBehind s.cur (fld h 8 4) then stall .loads
    popPorts us
    let s ← get
    let (v, s) := s.nmEnter (fld h 8 4) (fld h 2 3) ws
    set s
    wr d v) s

/-! ## Ends of commands (R399, R400, R402) -/

/-- A cause of a command: to the activation that issued it, running or suspended; else to SFAULT and the kiosk. -/
def State.nmCause (s : State) (n c : Nat) (m : NmCmd) (r : CauseRec) : State :=
  let issued := fun (a : Act) => a.ending.isNone && a.nm.any fun i => i.stack == n && i.ctx == c && i.value == m.value
  let e : EngineCause := ⟨.nm n c, m.value, r, m.after⟩
  match s.cores.find? fun kc => (kc.2.act.map issued).getD false || (kc.2.susp.map issued).getD false with
  | some (core, k) =>
    s.updCore core fun x =>
      if (k.act.map issued).getD false then { x with causes := x.causes ++ [e] }
      else { x with suspCtx := { x.suspCtx with causes := x.suspCtx.causes ++ [e] } }
  | none => s.sFault n (some m.core) (some m.part) r.cause r.addr r.info

/-- The head command retires, and the timeline advances. -/
def State.nmRetire (s : State) (n c : Nat) : State :=
  s.updNm n c fun x =>
    { x with
      inbox := x.inbox.drop 1, retired := x.retired + 1, started := false, pos := 0, acc := 0, special := none,
      skipped := 0, skipVa := 0, wrote := 0, done := false }

/-- The command has failed: nothing further is written, no reply is made, and it retires. -/
def State.nmFail (s : State) (n c : Nat) (m : NmCmd) (r : CauseRec) : State := (s.nmCause n c m r).nmRetire n c

/-- Runs the head command of a context, where its operation is the row's and its writes are not all made. -/
def State.nmStep (s : State) (n c : Nat) (mine : Nat → Bool) (work : NmCmd → NmCtx → State → State) : Out :=
  let x := s.nmCtx n c
  match x.inbox with
  | [] => .next s
  | m :: _ =>
    if !mine (NmBlock.op m.words) || x.done then .next s
    else
      let s := s.updNm n c fun x => { x with started := true }
      match m.bad with
      | some r => .next (s.nmFail n c m r)
      | none => .next (work m x s)

/-- The command goes on to its next line or row; `last` says that there is none. -/
def State.nmNext (s : State) (n c wrote : Nat) (flags : Flags) (last : Bool) : State :=
  s.updNm n c fun x =>
    { x with
      pos := x.pos + 1, wrote := x.wrote + wrote, flags := x.flags ||| astatFlags flags, done := last }

/-- Lines skipped under SKIPP (R399), the first of them at `va`. -/
def State.nmSkip (s : State) (n c lines : Nat) (va : Word) : State :=
  s.updNm n c fun x =>
    { x with
      skipped := x.skipped + lines, skipVa := if x.skipped = 0 ∧ lines ≠ 0 then va else x.skipVa }

/-- The address of a line, counted from `base`, of the extent that a word names: the extent's start where that is later. -/
def NmCmd.lineVa (m : NmCmd) (word back line : Nat) : Word :=
  NmBlock.w m.words word + wordOf (64 * line - back)

/-- The failure of a read at a line of the extent that a word names. -/
def NmCmd.readFault (m : NmCmd) (word off : Nat) (e : HomeErr) : CauseRec :=
  nmRec m.pc e.1 (NmBlock.w m.words word + wordOf off) e.2

/-- Poison met with SKIPP clear (R399). -/
def NmCmd.poisonFault (m : NmCmd) (word off line : Nat) : CauseRec :=
  nmRec m.pc .nmPoison (NmBlock.w m.words word + wordOf off) (wordOf line)

/-- A failed write (R402). -/
def NmCmd.writeFault (m : NmCmd) (word off : Nat) (c : Cause) : CauseRec :=
  nmRec m.pc .nmWrite (NmBlock.w m.words word + wordOf off) (c.code.zeroExtend 64)

/-! ## Results (R398) -/

/-- The words of a result, by offset and bytes, and its flags: a × the sum, rounded or as a WS128. -/
def NmBlock.result (b : NmBlock) (sum : WsVal) : List (Nat × Nat × Word) × Flags :=
  let p := sum.make
  let a := Fmt.f32.decode b.a
  let ov := if p.2 then flOF else 0
  if b.wsout then
    let r := wsMulOv p.1 a
    ([(0, 8, r.1.lo), (8, 8, r.1.hi)], ov ||| if r.2 then flOF else 0)
  else
    let r := Fmt.f32.ofWsScaled b.rnd false p.1 a
    ([(0, 4, wordOf r.code)], ov ||| r.flags)

/-- Writes of a result at an offset of X, made together: none while a write queue is full (R379, R398). -/
def State.nmWrite (s : State) (m : NmCmd) (off : Nat) (ws : List (Nat × Nat × Word)) : EngAns :=
  if ws.any fun w => s.wqFull (m.place s (m.x + off + w.1)) then .wait
  else ws.foldl (fun r w =>
    match r with
    | .ok s =>
      let pl := m.place s (m.x + off + w.1)
      match s.settleLine (dieOf m.core) (m.mig 2) pl with
      | .error (c, _) => .fail c s
      | .ok s =>
        match s.homeStore m.core pl w.2.1 w.2.2 false with
        | .ok s => .ok s
        | .error (c, _) => .fail c s
    | r => r) (.ok s)

/-- Lines read in order: the first fault or poison without SKIPP ends them; the state and the poisoned lines. -/
def State.nmLines (m : NmCmd) (word base : Nat) (skip : Bool) : List Nat → State → Except CauseRec (List Nat) × State
  | [], s => (.ok [], s)
  | l :: ls, s =>
    match s.nmRead m word (base + 64 * l) with
    | .error e => (.error (m.readFault word (64 * l) e), s)
    | .ok (true, s) =>
      if !skip then (.error (m.poisonFault word (64 * l) l), s)
      else match State.nmLines m word base skip ls s with
        | (.ok ps, s) => (.ok (l :: ps), s)
        | r => r
    | .ok (false, s) => State.nmLines m word base skip ls s

/-- Lines of 64 bytes, counted from an aligned start, that `n` bytes at an offset touch. -/
def linesOf (off n : Nat) : List Nat := (List.range ((off + n + 63) / 64 - off / 64)).map fun i => off / 64 + i

/-- The exact sum of the products of a row with the vector. -/
def NmBlock.dot (b : NmBlock) (row : Nat) (vec : List (BitVec 32)) : WsVal :=
  let w := b.fmt.width
  vec.zipIdx.foldl (fun acc p =>
    addProduct acc ((b.fmt.decode (row / 2 ^ (w * p.2) % 2 ^ w)).times (Fmt.f32.decode p.1.toNat))) (.fin Dyad.zero false)

/-- NM_GEMV (R398), one row; and the end of a command whose NMOP is reserved. -/
def execNmGemv (n c : Nat) (s : State) : Out :=
  s.nmStep n c (fun op => op == 0 || decide (5 < op)) fun m x s =>
    let b : NmBlock := m.words
    let off := x.pos * b.rowBytes
    match State.nmLines m 1 m.y b.skipp (linesOf off b.rowBytes) s with
    | (.error r, s) => s.nmFail n c m r
    | (.ok ps, s) =>
      let sum := if ps.isEmpty then b.dot (readBytes s.mem (m.y + off) b.rowBytes) m.vec else .nan
      let (ws, f) := b.result sum
      let place := x.pos * b.resBytes
      match s.nmWrite m place ws with
      | .wait => s
      | .fail e s => s.nmFail n c m (m.writeFault 2 place e)
      | .ok s =>
        let qs := ps.filter fun l => decide (off ≤ 64 * l)
        (s.nmSkip n c qs.length (m.lineVa 1 0 (qs.headD 0))).nmNext n c b.resBytes f (decide (b.rows ≤ x.pos + 1))

/-- a × y + b × x, formed exactly and rounded once; NaN by R155. -/
def axpbyLane (rnd : BitVec 2) (a y b x : Nat) : Rounded :=
  let d := Fmt.f32.decode
  let p := (d a).times (d y)
  let q := (d b).times (d x)
  let snan := (d a).isSnan || (d y).isSnan || (d b).isSnan || (d x).isSnan
  let made := fun (r u v : Fp) => r.isNan && !u.isNan && !v.isNan
  if p.isNan || q.isNan then Fmt.f32.nanResult (snan || made p (d a) (d y) || made q (d b) (d x))
  else Fmt.f32.add rnd false p q

/-- NM_AXPBY (R398), one line of Y: read and written in one step at its home. -/
def execNmAxpby (n c : Nat) (s : State) : Out :=
  s.nmStep n c (· == 1) fun m x s =>
    let b : NmBlock := m.words
    let off := 64 * x.pos
    let k := min 16 (b.count - 16 * x.pos)
    let last := decide (b.count ≤ 16 * (x.pos + 1))
    if s.wqFull (.hbm (m.y + off)) then s
    else match State.nmLines m 1 m.y b.skipp [x.pos] s with
      | (.error r, s) => s.nmFail n c m r
      | (.ok ps, s) =>
        let base := m.x / 64 * 64
        match State.nmLines m 2 base b.skipp (linesOf (m.x - base + off) (4 * k)) s with
        | (.error r, s) => s.nmFail n c m { r with info := if r.cause = .nmPoison then wordOf x.pos else r.info }
        | (.ok qs, s) =>
          if !ps.isEmpty then (s.nmSkip n c 1 (m.lineVa 1 0 x.pos)).nmNext n c 0 0 last
          else if !qs.isEmpty then (s.nmSkip n c 1 (m.lineVa 2 (m.x - base) (qs.headD 0))).nmNext n c 0 0 last
          else
            let rs := (List.range k).map fun i =>
              axpbyLane b.rnd b.a (readBytes s.mem (m.y + off + 4 * i) 4) b.b (readBytes s.mem (m.x + off + 4 * i) 4)
            let v := packLanes 32 (rs.map fun r => r.code)
            let f := rs.foldl (fun f r => f ||| r.flags) 0
            let s := ({ s with mem := writeBytes s.mem (m.y + off) (4 * k) v }).enqueueWrite (m.y + off) (4 * k)
            s.nmNext n c (4 * k) f last

/-- The running sum of NM_REDUCE as an exact value. -/
def NmCtx.sum (x : NmCtx) : WsVal :=
  match x.special with
  | some p => p.val
  | none => .fin ⟨x.acc, -149⟩ false

/-- The running sum put back. -/
def NmCtx.setSum (x : NmCtx) : WsVal → NmCtx
  | .nan => { x with special := some WsPair.nan }
  | .inf g => { x with special := some (WsPair.inf g) }
  | .fin v _ => { x with acc := shiftFloor v.z (v.e + 149) }

/-- NM_REDUCE (R398), one line; after the last, the result. -/
def execNmReduce (n c : Nat) (s : State) : Out :=
  s.nmStep n c (· == 2) fun m x s =>
    let b : NmBlock := m.words
    let off := 64 * x.pos
    if 16 * x.pos < b.count then
      match State.nmLines m 1 m.y b.skipp [x.pos] s with
      | (.error r, s) => s.nmFail n c m r
      | (.ok ps, s) =>
        let k := min 16 (b.count - 16 * x.pos)
        let sum := if !ps.isEmpty then .nan else
          (List.range k).foldl (fun acc i => addProduct acc (Fmt.f32.decode (readBytes s.mem (m.y + off + 4 * i) 4))) x.sum
        ((s.updNm n c fun x => x.setSum sum).nmSkip n c ps.length (m.lineVa 1 0 x.pos)).nmNext n c 0 0 false
    else
      let (ws, f) := b.result x.sum
      match s.nmWrite m 0 ws with
      | .wait => s
      | .fail e s => s.nmFail n c m (m.writeFault 2 0 e)
      | .ok s => s.nmNext n c b.resBytes f true

/-- A whole line written inside the stack: it clears poison, and installs an absent line without a pull (R390, R393). -/
def State.nmPutLine (s : State) (m : NmCmd) (pa v : Nat) : EngAns :=
  if s.wqFull (.hbm pa) then .wait
  else if s.offline pa then .fail .stackOffline s
  else
    let s := s.renewLine (m.mig 1) pa
    .ok (({ s with mem := writeBytes s.mem pa 64 v }).enqueueWrite pa 64)

/-- NM_FILL (R398), one line. -/
def execNmFill (n c : Nat) (s : State) : Out :=
  s.nmStep n c (· == 3) fun m x s =>
    let b : NmBlock := m.words
    let v := packLanes 64 (List.replicate 8 (b.w 3).toNat)
    match s.nmPutLine m (m.y + 64 * x.pos) v with
    | .wait => s
    | .fail e s => s.nmFail n c m (m.writeFault 1 (64 * x.pos) e)
    | .ok s => s.nmNext n c 64 0 (decide (b.count ≤ 8 * (x.pos + 1)))

/-- NM_COPY (R398), one line; under SKIPP the destination receives the poison (R399). -/
def execNmCopy (n c : Nat) (s : State) : Out :=
  s.nmStep n c (· == 4) fun m x s =>
    let b : NmBlock := m.words
    let off := 64 * x.pos
    if s.wqFull (.hbm (m.y + off)) then s
    else match State.nmLines m 2 m.x b.skipp [x.pos] s with
      | (.error r, s) => s.nmFail n c m r
      | (.ok ps, s) =>
        match s.nmPutLine m (m.y + off) (readBytes s.mem (m.x + off) 64) with
        | .wait => s
        | .fail e s => s.nmFail n c m (m.writeFault 1 off e)
        | .ok s =>
          let s := if ps.isEmpty then s else s.setPoison (m.y + off) true
          (s.nmSkip n c ps.length (m.lineVa 2 0 x.pos)).nmNext n c 64 0 (decide (b.count ≤ 8 * (x.pos + 1)))

/-! ## NM_MIGRATE (R392–R394) -/

/-- The valid entry for granule i of a command, with its position. -/
def State.migOf (s : State) (n c : Nat) (m : NmCmd) (i : Nat) : Option (Nat × Mig) :=
  findIdx (fun g : Mig => g.valid && decide (g.new = m.y / 4096 + i) && decide (g.ctx.toNat = c)) (s.stack n).migs 0

/-- An entry put into the lowest free place of 64. -/
def installMig (g : Mig) : List Mig → List Mig
  | [] => [g]
  | h :: hs => if h.valid then h :: installMig g hs else g :: hs

/-- An entry of the stack replaced. -/
def State.setMig (s : State) (n i : Nat) (g : Mig) : State := s.updStack n fun k => { k with migs := setNth k.migs i g }

/-- Granules all of whose lines are present: MIG is cleared in the leaf entry, then the entry becomes invalid (R394). -/
def State.nmGranules (n c : Nat) (m : NmCmd) : List Nat → State → State
  | [], s => s
  | i :: is, s =>
    match s.migOf n c m i with
    | none => State.nmGranules n c m is s
    | some (j, g) =>
      if g.present ≠ BitVec.allOnes 64 then State.nmGranules n c m is s
      else
        let pl := m.place s (m.leaf + 8 * i)
        if s.wqFull pl then s
        else if (m.leaf + 8 * i) % 8 ≠ 0 then s.nmFail n c m (m.writeFault 6 (8 * i) .align)
        else match s.settleLine (dieOf m.core) (m.mig 6) pl with
          | .error (e, _) => s.nmFail n c m (m.writeFault 6 (8 * i) e)
          | .ok s =>
            match s.homeAtomic m.core pl 1 8 (~~~(bit1 true 5)) false m.stamp with
            | .error (e, _) => (s.afterRead pl 8).nmFail n c m (m.writeFault 6 (8 * i) e)
            | .ok (_, _, s) => State.nmGranules n c m is (s.setMig n j { g with valid := false })

/-- NM_MIGRATE: its entries are installed at the head of its context once enough are free; granules that are complete are
ended; when every granule is done its writes are. -/
def execNmMigrate (n c : Nat) (s : State) : Out :=
  s.nmStep n c (· == 5) fun m x s =>
    let b : NmBlock := m.words
    if x.pos = 0 then
      if 64 < ((s.stack n).migs.filter fun g => g.valid).length + b.count then s
      else
        let s := s.updStack n fun k => { k with
          migs := (List.range b.count).foldl (fun l i =>
            installMig ⟨m.x / 4096 + i, true, m.y / 4096 + i, 0, wordOf c, m.leaf + 8 * i⟩ l) k.migs }
        s.nmNext n c 0 0 false
    else
      let s := State.nmGranules n c m (List.range b.count) s
      match (s.nmCtx n c).inbox with
      | [] => s
      | m' :: _ =>
        if m'.value = m.value && (List.range b.count).all fun i => (s.migOf n c m i).isNone then
          s.nmNext n c (4096 * b.count) 0 true
        else s

/-! ## NM_REPLY (R400) -/

/-- Every write of the head command is accepted: lines skipped are reported, the reply is made, and the command retires. -/
def execNmReply (n c : Nat) (s : State) : Out :=
  let x := s.nmCtx n c
  match x.inbox with
  | [] => .next s
  | m :: _ =>
    if !x.done then .next s
    else
      let b : NmBlock := m.words
      let s := if x.skipped = 0 then s else
        (s.nmCause n c m (nmRec m.pc .nmSkipped x.skipVa (wordOf x.skipped))).updNm n c fun x =>
          { x with skipTot := sat (2 ^ 32 - 1) (x.skipTot + x.skipped) }
      if b.w 4 = 0 then .next (s.nmRetire n c)
      else if m.reply % 8 ≠ 0 then .next (s.nmFail n c m (nmRec m.pc .nmSignal (b.w 4) (Cause.align.code.zeroExtend 64)))
      else
        let xl : Xlated := ⟨m.reply, m.place s m.reply, false, m.mig 4, 0, 0, 7, 0⟩
        match s.arriveAt m.core xl x.wrote 1 m.stamp with
        | .ok s => .next (s.nmRetire n c)
        | .fail e s => .next (s.nmFail n c m (nmRec m.pc .nmSignal (b.w 4) (e.code.zeroExtend 64)))
        | .wait => .next s

end Sys2Proof.Machine
end

