-- ==== Sys2Proof/Machine/Stacks.lean ====
section
/-! DEFINITION. The memory stacks at work beside accesses (spec/23_stacks.md R379–R394, R402): write windows, row alerts,
refresh, background pulls, channels out of service; and writes of the registers that have behaviour of their own (R384,
R385; spec/14_cluster_engine.md R275). -/

namespace Sys2Proof.Machine

/-- WRITE_WINDOW (R380): the queued lines of a channel reach their banks, oldest first (log 13). -/
def execWriteWindow (stack chan : Nat) (s : State) : Out :=
  let lines := SMap.get [] (s.stack stack).wq chan
  let s := lines.foldl (fun s q => State.writeBack s q.line) s
  .next (s.updStack stack fun k => { k with wq := SMap.set [] k.wq chan [] })

/-- ROW_ALERT (R387): a row whose count has reached TH; its two neighbours are refreshed and its count clears. `row` is
the row's key: (channel × 64 + bank) × 24,576 + row. -/
def execRowAlert (stack row : Nat) (s : State) : Out :=
  let k := s.stack stack
  if stack < 12 ∧ fld k.actth 0 16 ≤ SMap.get 0 k.counts row then
    let r := row % 24576
    let bk := row / 24576
    let o := r * 65536 + bk % 64 * 1024
    let s := s.updStack stack fun k =>
      let k := k.precharge bk
      { k with counts := SMap.set 0 (clearNeighbours bk r k.counts) row 0 }
    .next (s.alert stack .rowAlert (wordOf (stackLinear stack (bk / 64) (o / 4096) (o % 4096))) (wordOf (bk % 64)))
  else .next s

/-- REFRESH (R388): the bank's open row closes, which counts it, and its next row is refreshed, which clears that row's
count (R387). -/
def execRefresh (stack chan bank : Nat) (s : State) : Out :=
  if stack < 12 ∧ chan < 32 ∧ bank < 64 then
    let bk := bankKey chan bank
    .next (s.updStack stack fun k =>
      let k := k.precharge bk
      let r := SMap.get 0 k.refRow bk
      { k with
        counts := SMap.set 0 k.counts (bk * 24576 + r) 0
        refRow := SMap.set 0 k.refRow bk ((r + 1) % 24576) })
  else .next s

/-- The lowest absent line of an entry. -/
def Mig.nextLine (g : Mig) : Option Nat := (List.range 64).find? fun i => !bit g.present i

/-- The command of a context that installed an entry, and the offset of the granule from its X (R394). -/
def State.migOwner (s : State) (stack : Nat) (g : Mig) : Option (NmCmd × Nat) :=
  match (s.nmCtx stack g.ctx.toNat).inbox with
  | m :: _ =>
    let b : NmBlock := m.words
    let i := g.new - m.y / 4096
    if b.op = 5 ∧ m.y / 4096 ≤ g.new ∧ i < b.count then some (m, 4096 * i) else none
  | [] => none

/-- A line pulled in the background (R393, R394). A pull that fails fails the command; a line that comes poisoned has no
requester. -/
def State.backgroundPull (s : State) (stack i : Nat) (g : Mig) (line : Nat) : State :=
  let k := g.new * 4096 + 64 * line
  let die := match s.migOwner stack g with
    | some (m, _) => dieOf m.core
    | none => 0
  if s.wqFull (.hbm k) then s
  else match s.pullLine die (.hbm k) i g line with
    | .ok s =>
      let s := s.enqueueWrite k 64
      if s.poisoned k then s.alert stack .scrubPoison (wordOf k) (wordOf (channelOf k)) else s
    | .error (c, info) =>
      match s.migOwner stack g with
      | some (m, off) =>
        s.nmFail stack g.ctx.toNat m (nmRec m.pc c (m.words.getD 2 0 + wordOf (off + 64 * line)) info)
      | none => s

/-- The same for an entry of a cluster engine, during a resize (R394, R411). -/
def State.clusterPull (s : State) (cl i : Nat) (g : Mig) (line : Nat) : State :=
  match s.pullLine (cl / 256) (.spad (g.new * 4096 + 64 * line)) i g line with
  | .ok s =>
    s.updCluster cl fun k =>
      { k with migs := k.migs.mapIdx fun j h => if j = i ∧ h.present = BitVec.allOnes 64 then { h with valid := false } else h }
  | .error (c, info) => s.ceFault (cl * 16) c (wordOf (g.new * 4096 + 64 * line)) info

/-- MIGRATION_PULL (R393, R394): the entry's next absent line, in ascending order, is pulled. A stack number of 64 and more
names the cluster engine of that number less 64. Accesses that wait for a line pull it when they are performed. -/
def execMigrationPull (stack entry line : Nat) (s : State) : Out :=
  let migs := if stack < 64 then (s.stack stack).migs else (s.cluster (stack - 64)).migs
  match migs[entry]? with
  | none => .next s
  | some g =>
    if !g.valid || g.nextLine != some line then .next s
    else if stack < 12 then .next (s.backgroundPull stack entry g line)
    else if 64 ≤ stack ∧ clusterExists (stack - 64) then .next (s.clusterPull (stack - 64) entry g line)
    else .next s

/-- STACK_OUT_OF_SERVICE (R402): a channel, or every channel of a stack where `chan` is 32, is taken out of service. -/
def execStackOutOfService (stack chan : Nat) (s : State) : Out :=
  if stack < 12 then
    .next (s.updStack stack fun k =>
      { k with offline :=
          if chan < 32 then (if k.offline.contains chan then k.offline else chan :: k.offline)
          else if chan = 32 then List.range 32 else k.offline })
  else .next s

/-! ## Registers with behaviour of their own -/

/-- DISTURB_WRITE (R385, R386), by the kiosk. -/
def execDisturbWrite (stack : Nat) (v : Word) (s : State) : Out :=
  .next (if stack < 12 then s.updStack stack fun k => k.writeDisturb v else s)

/-- EINJ_WRITE (R385, R391). -/
def execEinjWrite (stack : Nat) (v : Word) (s : State) : Out :=
  .next (if stack < 12 then s.updStack stack fun k => k.writeEinj v else s)

/-- ASTAT_WRITE (R275, R385), of a cluster engine or a stack: a 1 clears. -/
def execAstatWrite (cluster : Bool) (unit : Nat) (v : Word) (s : State) : Out :=
  .next (
    if cluster then (if clusterExists unit then s.updCluster unit fun k => { k with astat := clearFlags k.astat v } else s)
    else if unit < 12 then s.updStack unit fun k => { k with astat := clearFlags k.astat v } else s)

/-- ECCCNT_WRITE (R385): a write of 0 clears both fields. -/
def execEcccntWrite (stack : Nat) (v : Word) (s : State) : Out :=
  .next (if stack < 12 ∧ v = 0 then s.updStack stack fun k => { k with corr := 0, uncorr := 0 } else s)

/-- SFAULT_WRITE (R385): a write of 0 clears both fields. -/
def execSfaultWrite (stack : Nat) (v : Word) (s : State) : Out :=
  .next (if stack < 12 ∧ v = 0 then s.updStack stack fun k => { k with sfault := 0 } else s)

/-- CEFAULT_WRITE (R275): a write of 0 clears both fields. -/
def execCefaultWrite (cl : Nat) (v : Word) (s : State) : Out :=
  .next (if clusterExists cl ∧ v = 0 then s.updCluster cl fun k => { k with cefault := 0 } else s)

/-- NMSTAT_WRITE (R385): a 1 in [9:6] clears a flag. -/
def execNmstatWrite (stack c : Nat) (v : Word) (s : State) : Out :=
  .next (if stack < 12 ∧ c < 8 then s.updNm stack c fun x => { x with flags := clearFlags x.flags (v >>> 6) } else s)

end Sys2Proof.Machine
end

