-- ==== Sys2Proof/Machine/Fabric.lean ====
section
/-! DEFINITION. The cluster engine's request rings and store budget (spec/14_cluster_engine.md R271, R273), the kiosk's and
the cores' writes of control registers (spec/02_addresses.md R423; 17 R329, R330), quarantine (R36), and external links
(spec/25_system.md R410). -/

namespace Sys2Proof.Machine

/-! ## Request rings (R271) -/

/-- Data bytes that a request carries or asks for, and at least 8 (R271). -/
def AccOp.cost : AccOp → Nat
  | .load n => max 8 n
  | .store n _ _ => max 8 n
  | .pay _ (some _) _ _ => 16
  | .chan n _ => max 8 n
  | _ => 8

/-- The head of a ring: the oldest access that has not been injected. -/
def Core.ringHead (k : Core) : Option Access := k.flight.find? fun a => !a.injected

/-- A request injected as the one numbered `order` of its cluster. -/
def Core.inject (k : Core) (id order : Nat) : Core :=
  { k with flight := k.flight.map fun a => if a.id = id then { a with injected := true, order := order } else a }

/-- Heads injected while their cost does not exceed the deficit: the core, the deficit and the count of injections. -/
def Core.serveRing : Nat → Core → Nat → Nat → Core × Nat × Nat
  | 0, k, d, q => (k, d, q)
  | n + 1, k, d, q =>
    match k.ringHead with
    | some a => if a.op.cost ≤ d then Core.serveRing n (k.inject a.id (q + 1)) (d - a.op.cost) (q + 1) else (k, d, q)
    | none => (k, d, q)

/-- Ring `c` of a cluster in a round. -/
def State.serveCore (cl : Nat) (s : State) (c : Nat) : State :=
  let k := s.core (cl * 16 + c)
  let setD := fun (s : State) d => s.updCluster cl fun e => { e with deficit := vset e.deficit c d }
  if k.ringHead.isNone then (if vget 0 (s.cluster cl).deficit c = 0 then s else setD s 0)
  else
    let e := s.cluster cl
    let (k, d, q) := Core.serveRing 32 k (vget 0 e.deficit c + 64 * (vget 1 e.wgt c).toNat) e.seq
    (setD (s.setCore (cl * 16 + c) k) d).updCluster cl fun e => { e with seq := q }

/-- RING_ARBITRATION_ROUND (R271). The tokens of a core's stores are taken at their issue, so no head waits for them. -/
def execRingArbitrationRound (cl : Nat) (s : State) : Out :=
  .next (if s.clusterLive cl then (List.range 16).foldl (State.serveCore cl) s else s)

/-- STORE_BUDGET_REFILL (R273): tokens added, up to the bucket's capacity; none at a rate of 0. How many a step adds is time's (log 5). -/
def execStoreBudgetRefill (cl bytes : Nat) (s : State) : Out :=
  .next (if s.clusterLive cl ∧ (s.cluster cl).sbrate ≠ 0 then
    s.updCluster cl fun e => { e with sblevel := max e.sblevel (min (e.capacity : Int) (e.sblevel + bytes)) }
    else s)

/-! ## Control registers -/

/-- PHALT_WRITE (R329, R330), by the kiosk. -/
def execPhaltWrite (die : Nat) (v : Word) (s : State) : Out :=
  .next (if die < 4 then s.updDie die fun k => { k with phalt := v.truncate 16 } else s)

/-- PREQ_WRITE (R329, R330), by the kiosk: the requests of a cluster of the die. -/
def execPreqWrite (die cl : Nat) (v : Word) (s : State) : Out :=
  .next (if die < 4 ∧ cl < 192 then s.updDie die fun k => { k with preq := SMap.set 0 k.preq cl (v.truncate 16) } else s)

/-- REGISTER_WRITE (R423): a store of a whole word by the current core at S, or by the kiosk through its port. -/
def execRegisterWrite (pa : Nat) (kiosk : Bool) (v : Word) (s : State) : Out :=
  .next (
    if pa % 8 ≠ 0 ∨ (s.ctlRead pa).isNone then s
    else if kiosk then s.ctlKiosk pa v
    else s.ctlWrite pa (BitVec.allOnes 64) v s.cur)

/-! ## Quarantine (R36) -/

/-- QUARANTINE_RETURN (R36): pages of a partition freed at a generation below QGEN may be given out again. -/
def execQuarantineReturn (part : Nat) (s : State) : Out :=
  let due := fun (q : Quarantined) => decide (q.part = part) && decide (q.gen < s.qgen)
  .next { s with kiosk := { s.kiosk with
    quarantine := s.kiosk.quarantine.filter fun q => !due q
    freed := s.kiosk.freed ++ (s.kiosk.quarantine.filter due).map fun q => (q.first, q.count) } }

/-! ## External memory and links (R410) -/

/-- The address of an external byte. -/
def externalOf : Place → Option Nat
  | .ext pa => some pa
  | .away pa _ => some pa
  | _ => none

/-- EXT_TIMEOUT (R402, R410): an access of the current core to host or peer memory goes unanswered, and its cause is
deferred; or a request of its copy channel, whose record then fails. -/
def execExtTimeout (acc : Nat) (s : State) : Out :=
  match s.me.flight.find? fun a => a.id = acc with
  | some a =>
    .next (match externalOf (s.place (dieOf s.cur) a.nextPart.pa) with
      | some pa =>
        if a.injected && (a.isChan || !a.parts.isEmpty) then
          s.setAccess s.cur a.id (.failed .extTimeout a.va (wordOf (pa / 2 ^ 40 % 2048)))
        else s
      | none => s)
  | none => .next s

/-- LINK_TRAINING (R410, R420): a link trains on 8 lanes; one that fails, or has a lane disabled, on 4. -/
def execLinkTraining (link : Nat) (eight : Bool) (s : State) : Out :=
  .next (if link < 16 then
    { s with links := SMap.set 0 s.links link (if eight && !s.blob.links.contains link then 8 else 4) } else s)

/-- TRAP_ENTRY (R214): the pending cause of the current core. -/
def execTrapEntry (s : State) : Out := .next s.trapEntry

end Sys2Proof.Machine
end

