-- ==== Sys2Proof/Machine/Integer.lean ====
section
/-! DEFINITION. Integer, constant, field, selection and carry instructions (spec/07_core_integer.md R134–R144). -/

namespace Sys2Proof.Machine

/-- The width n of an operation: 64, or 32 when W is 1 (R134). -/
def aluWidth (w : Bool) : Nat := if w then 32 else 64

/-- The low n bits of an operand (R134). -/
def lowBits (n : Nat) (x : Word) : Nat := x.toNat % 2 ^ n

/-- An operation of R135 on the low n bits, its result sign-extended (R134). -/
def alu (f : Nat → Nat → Nat → Nat) (w : Bool) (x y : Word) : Word :=
  let n := aluWidth w
  sext (f n (lowBits n x) (lowBits n y)) n

/-- A signed number modulo 2^n. -/
def wrapInt (n : Nat) (i : Int) : Nat := (i % (2 ^ n : Nat)).toNat

def ofBool (b : Bool) : Nat := if b then 1 else 0

/-! ## The operations of R135 -/

def opAdd (n a b : Nat) : Nat := (a + b) % 2 ^ n
def opSub (n a b : Nat) : Nat := (a + 2 ^ n - b) % 2 ^ n
def opAnd (_ a b : Nat) : Nat := a &&& b
def opOr (_ a b : Nat) : Nat := a ||| b
def opXor (_ a b : Nat) : Nat := a ^^^ b
def opAndn (n a b : Nat) : Nat := a &&& (2 ^ n - 1 - b)
def opSll (n a b : Nat) : Nat := a * 2 ^ (b % n) % 2 ^ n
def opSrl (n a b : Nat) : Nat := a / 2 ^ (b % n)
def opSra (n a b : Nat) : Nat := wrapInt n (sextInt a n / (2 ^ (b % n) : Nat))
def opRol (n a b : Nat) : Nat := (a * 2 ^ (b % n) + a / 2 ^ (n - b % n)) % 2 ^ n
def opMin (n a b : Nat) : Nat := if sextInt a n ≤ sextInt b n then a else b
def opMax (n a b : Nat) : Nat := if sextInt b n ≤ sextInt a n then a else b
def opMinu (_ a b : Nat) : Nat := if a ≤ b then a else b
def opMaxu (_ a b : Nat) : Nat := if b ≤ a then a else b
def opSlt (n a b : Nat) : Nat := ofBool (decide (sextInt a n < sextInt b n))
def opSltu (_ a b : Nat) : Nat := ofBool (decide (a < b))
def opMul (n a b : Nat) : Nat := a * b % 2 ^ n
def opMulh (n a b : Nat) : Nat := wrapInt n (sextInt a n * sextInt b n / (2 ^ n : Nat))
def opMulhu (n a b : Nat) : Nat := a * b / 2 ^ n
/-- trunc(s(a) ÷ s(b)) mod 2^n; the overflowing quotient wraps to a (R135). -/
def opDiv (n a b : Nat) : Nat := wrapInt n ((sextInt a n).tdiv (sextInt b n))
def opDivu (_ a b : Nat) : Nat := a / b
def opRem (n a b : Nat) : Nat := wrapInt n ((sextInt a n).tmod (sextInt b n))
def opRemu (_ a b : Nat) : Nat := a % b
def opSeq (_ a b : Nat) : Nat := ofBool (a == b)
def opSne (_ a b : Nat) : Nat := ofBool (a != b)

def execAdd (a b : Src) (d : Dst) (w : Bool) (s : State) : Out := binary a b d (alu opAdd w) s
def execSub (a b : Src) (d : Dst) (w : Bool) (s : State) : Out := binary a b d (alu opSub w) s
def execAnd (a b : Src) (d : Dst) (w : Bool) (s : State) : Out := binary a b d (alu opAnd w) s
def execOr (a b : Src) (d : Dst) (w : Bool) (s : State) : Out := binary a b d (alu opOr w) s
def execXor (a b : Src) (d : Dst) (w : Bool) (s : State) : Out := binary a b d (alu opXor w) s
def execAndn (a b : Src) (d : Dst) (w : Bool) (s : State) : Out := binary a b d (alu opAndn w) s
def execSll (a b : Src) (d : Dst) (w : Bool) (s : State) : Out := binary a b d (alu opSll w) s
def execSrl (a b : Src) (d : Dst) (w : Bool) (s : State) : Out := binary a b d (alu opSrl w) s
def execSra (a b : Src) (d : Dst) (w : Bool) (s : State) : Out := binary a b d (alu opSra w) s
def execRol (a b : Src) (d : Dst) (w : Bool) (s : State) : Out := binary a b d (alu opRol w) s
def execMin (a b : Src) (d : Dst) (w : Bool) (s : State) : Out := binary a b d (alu opMin w) s
def execMax (a b : Src) (d : Dst) (w : Bool) (s : State) : Out := binary a b d (alu opMax w) s
def execMinu (a b : Src) (d : Dst) (w : Bool) (s : State) : Out := binary a b d (alu opMinu w) s
def execMaxu (a b : Src) (d : Dst) (w : Bool) (s : State) : Out := binary a b d (alu opMaxu w) s
def execSlt (a b : Src) (d : Dst) (w : Bool) (s : State) : Out := binary a b d (alu opSlt w) s
def execSltu (a b : Src) (d : Dst) (w : Bool) (s : State) : Out := binary a b d (alu opSltu w) s
def execMul (a b : Src) (d : Dst) (w : Bool) (s : State) : Out := binary a b d (alu opMul w) s
def execMulh (a b : Src) (d : Dst) (w : Bool) (s : State) : Out := binary a b d (alu opMulh w) s
def execMulhu (a b : Src) (d : Dst) (w : Bool) (s : State) : Out := binary a b d (alu opMulhu w) s
def execSeq (a b : Src) (d : Dst) (w : Bool) (s : State) : Out := binary a b d (alu opSeq w) s
def execSne (a b : Src) (d : Dst) (w : Bool) (s : State) : Out := binary a b d (alu opSne w) s

/-- A division: a divisor whose low n bits are 0 raises INT_DIVZERO (R136). -/
def division (f : Nat → Nat → Nat → Nat) (a b : Src) (d : Dst) (w : Bool) (s : State) : Out :=
  run (.one d) (do
    let vs ← ops [.one a, .one b] (.one d)
    require (lowBits (aluWidth w) (vs.getD 1 0) != 0) .intDivzero 0 0
    wr d (alu f w (vs.getD 0 0) (vs.getD 1 0))) s

def execDiv (a b : Src) (d : Dst) (w : Bool) (s : State) : Out := division opDiv a b d w s
def execDivu (a b : Src) (d : Dst) (w : Bool) (s : State) : Out := division opDivu a b d w s
def execRem (a b : Src) (d : Dst) (w : Bool) (s : State) : Out := division opRem a b d w s
def execRemu (a b : Src) (d : Dst) (w : Bool) (s : State) : Out := division opRemu a b d w s

/-! ## bitc (R137) -/

/-- Index of the lowest set bit from bit i up; n where there is none. -/
def lowestSet (x n : Nat) : Nat → Nat → Nat
  | 0, _ => n
  | k + 1, i => if x / 2 ^ i % 2 = 1 then i else lowestSet x n k (i + 1)

/-- Number of set bits among the low k bits. -/
def popCount (x : Nat) : Nat → Nat
  | 0 => 0
  | k + 1 => x / 2 ^ k % 2 + popCount x k

/-- The low n bits in reverse order of units of u bits. -/
def reverseUnits (u x : Nat) : Nat → Nat
  | 0 => 0
  | k + 1 => x % 2 ^ u * 2 ^ (u * k) + reverseUnits u (x / 2 ^ u) k

def bitcOp (o : BitVec 3) (n a : Nat) : Nat :=
  match o.toNat with
  | 0 => if a = 0 then n else n - 1 - ilog2 a
  | 1 => lowestSet a n n 0
  | 2 => popCount a n
  | 3 => reverseUnits 1 a n
  | _ => reverseUnits 8 a (n / 8)

def execBitc (a : Src) (d : Dst) (o : BitVec 3) (w : Bool) (s : State) : Out :=
  run (.one d) (do
    reservedIf (decide (5 ≤ o.toNat))
    let vs ← ops [.one a] (.one d)
    let n := aluWidth w
    wr d (sext (bitcOp o n (lowBits n (vs.getD 0 0))) n)) s

/-! ## Immediates and constants (R138, R139) -/

/-- sext(IMM13, 13). -/
def imm13 (i : BitVec 13) : Word := i.signExtend 64

def execAddi (a : Src) (d : Dst) (i : BitVec 13) (s : State) : Out := unary a d (fun x => x + imm13 i) s
def execAndi (a : Src) (d : Dst) (i : BitVec 13) (s : State) : Out := unary a d (fun x => x &&& imm13 i) s
def execOri (a : Src) (d : Dst) (i : BitVec 13) (s : State) : Out := unary a d (fun x => x ||| imm13 i) s
def execXori (a : Src) (d : Dst) (i : BitVec 13) (s : State) : Out := unary a d (fun x => x ^^^ imm13 i) s
def execSlli (a : Src) (d : Dst) (i : BitVec 6) (s : State) : Out := unary a d (fun x => x <<< i.toNat) s
def execSrli (a : Src) (d : Dst) (i : BitVec 6) (s : State) : Out := unary a d (fun x => x >>> i.toNat) s
def execSrai (a : Src) (d : Dst) (i : BitVec 6) (s : State) : Out := unary a d (fun x => x.sshiftRight i.toNat) s
def execSlti (a : Src) (d : Dst) (i : BitVec 13) (s : State) : Out :=
  unary a d (fun x => if x.slt (imm13 i) then 1 else 0) s

def execLdk (d : Dst) (i : BitVec 19) (s : State) : Out :=
  run (.one d) (do
    let _ ← ops [] (.one d)
    wr d (i.signExtend 64)) s

def execLdkx (a : Src) (d : Dst) (i : BitVec 13) (s : State) : Out :=
  unary a d (fun x => (x <<< 13) + i.zeroExtend 64) s

/-! ## Fields, selection and carries (R140–R144) -/

/-- A field of w bits at position p, zero- or sign-extended (R140). -/
def fieldOf (x : Word) (p w : Nat) (zext : Bool) : Word :=
  let f := x.toNat / 2 ^ p % 2 ^ w
  if zext then wordOf f else sext f w

def execExtf (a : Src) (d : Dst) (w : BitVec 6) (z : Bool) (s : State) : Out :=
  unary a d (fun x => fieldOf x 0 (w.toNat + 1) z) s

def execBfx (a b : Src) (d : Dst) (w : BitVec 6) (z : Bool) (s : State) : Out :=
  binary a b d (fun x y => fieldOf x (y.toNat % 64) (w.toNat + 1) z) s

/-- A field inserted into a base (R141). -/
def insertField (w : Nat) (v pos base : Word) : Word :=
  let p := pos.toNat % 64
  let mask : Word := (wordOf (2 ^ w - 1)) <<< p
  (base &&& ~~~mask) ||| ((v <<< p) &&& mask)

def execIns (a b : Src) (d : Dst) (w : BitVec 6) (s : State) : Out :=
  ternary a b (baseOf d) d (insertField (w.toNat + 1)) s

def execSel (a b : Src) (d : Dst) (c : Src) (s : State) : Out :=
  ternary a b c d (fun x y z => if z ≠ 0 then x else y) s

def execKeep (a : Src) (d : Dst) (p : Bool) (s : State) : Out :=
  if p then
    run (.pair d) (do
      let vs ← ops [.pair a] (.pair d)
      wrPair d (vs.getD 0 0) (vs.getD 1 0)) s
  else unary a d (fun x => x) s

/-- min(max(a, b), c), signed or unsigned (R143). -/
def clampOp (u : Bool) (x y z : Word) : Word :=
  if u then
    let m := if x.ult y then y else x
    if z.ult m then z else m
  else
    let m := if x.slt y then y else x
    if z.slt m then z else m

def execClamp (a b : Src) (d : Dst) (c : Src) (u : Bool) (s : State) : Out := ternary a b c d (clampOp u) s

/-- The pair (low, high) of an addition or subtraction with carry (R144). -/
def carryOp (sub w : Bool) (x y z : Word) : Word × Word :=
  let n := aluWidth w
  let a := lowBits n x
  let b := lowBits n y
  let c := z.toNat % 2
  if sub then (sext ((a + 2 ^ n + 2 ^ n - b - c) % 2 ^ n) n, if a < b + c then 1 else 0)
  else (sext ((a + b + c) % 2 ^ n) n, wordOf ((a + b + c) / 2 ^ n))

/-- An instruction with a carry and a pair result. -/
def carry (sub : Bool) (a b : Src) (d : Dst) (c : Src) (w : Bool) (s : State) : Out :=
  run (.pair d) (do
    let vs ← ops [.one a, .one b, .one c] (.pair d)
    let r := carryOp sub w (vs.getD 0 0) (vs.getD 1 0) (vs.getD 2 0)
    wrPair d r.1 r.2) s

def execAddc (a b : Src) (d : Dst) (c : Src) (w : Bool) (s : State) : Out := carry false a b d c w s
def execSubc (a b : Src) (d : Dst) (c : Src) (w : Bool) (s : State) : Out := carry true a b d c w s

end Sys2Proof.Machine
end

