-- ==== Sys2Proof/Machine/Sign.lean ====
section
/-! DEFINITION. The digests and signatures that the specification names (spec/01_device.md R13, spec/04_assembly_objects.md
R92, spec/25_system.md R421): SHA-512 and Ed25519. The specification names the two algorithms and gives no arithmetic; it is
that of FIPS 180-4 and RFC 8032 (PRESUMED, log 10). -/

namespace Sys2Proof.Machine

/-! ## Bytes and numbers -/

/-- The number that bytes hold, the first being the least significant. -/
def bytesNat : List Byte → Nat
  | [] => 0
  | b :: bs => b.toNat + 256 * bytesNat bs

/-- The `n` low bytes of a number, the least significant first. -/
def natBytes : Nat → Nat → List Byte
  | 0, _ => []
  | n + 1, v => BitVec.ofNat 8 v :: natBytes n (v / 256)

/-! ## SHA-512 -/

/-- The greatest r whose k-th power is at most x, where r is `r0` plus a number of `n` bits. -/
def rootBelow (k x : Nat) : Nat → Nat → Nat
  | 0, r0 => r0
  | n + 1, r0 => rootBelow k x n (if (r0 + 2 ^ n) ^ k ≤ x then r0 + 2 ^ n else r0)

def isPrime (n : Nat) : Bool := decide (2 ≤ n) && (List.range n).all fun d => decide (d < 2) || n % d != 0

/-- The first `n` primes, of the 80 that SHA-512 uses. -/
def firstPrimes (n : Nat) : List Nat := ((List.range 410).filter isPrime).take n

/-- The first 64 bits of the fractional part of the k-th root of p. -/
def rootFraction (k p : Nat) : Word := BitVec.ofNat 64 (rootBelow k (p * 2 ^ (64 * k)) 69 0)

def shaConstants : List Word := (firstPrimes 80).map (rootFraction 3)

/-- The eight words of a hash value. -/
structure Digest where
  a : Word
  b : Word
  c : Word
  d : Word
  e : Word
  f : Word
  g : Word
  h : Word
  deriving DecidableEq, Repr

def Digest.words (x : Digest) : List Word := [x.a, x.b, x.c, x.d, x.e, x.f, x.g, x.h]

/-- The initial hash value. -/
def Digest.initial : Digest :=
  let w := fun i => ((firstPrimes 8).map (rootFraction 2)).getD i 0
  ⟨w 0, w 1, w 2, w 3, w 4, w 5, w 6, w 7⟩

def Digest.plus (x y : Digest) : Digest :=
  ⟨x.a + y.a, x.b + y.b, x.c + y.c, x.d + y.d, x.e + y.e, x.f + y.f, x.g + y.g, x.h + y.h⟩

/-- One round: its constant and its word of the schedule. -/
def Digest.round (x : Digest) (k w : Word) : Digest :=
  let s1 := x.e.rotateRight 14 ^^^ x.e.rotateRight 18 ^^^ x.e.rotateRight 41
  let s0 := x.a.rotateRight 28 ^^^ x.a.rotateRight 34 ^^^ x.a.rotateRight 39
  let t1 := x.h + s1 + ((x.e &&& x.f) ^^^ (~~~x.e &&& x.g)) + k + w
  let t2 := s0 + ((x.a &&& x.b) ^^^ (x.a &&& x.c) ^^^ (x.b &&& x.c))
  ⟨t1 + t2, x.a, x.b, x.c, x.d + t1, x.e, x.f, x.g⟩

/-- The message schedule, `n` words longer. -/
def shaSchedule (w : Array Word) : Nat → Array Word
  | 0 => w
  | n + 1 =>
    let at' := fun back => w.getD (w.size - back) 0
    let x := at' 2
    let y := at' 15
    let s1 := x.rotateRight 19 ^^^ x.rotateRight 61 ^^^ (x >>> 6)
    let s0 := y.rotateRight 1 ^^^ y.rotateRight 8 ^^^ (y >>> 7)
    shaSchedule (w.push (s1 + at' 7 + s0 + at' 16)) n

/-- One block of 128 bytes. -/
def Digest.block (x : Digest) (bs : List Byte) : Digest :=
  let w := (List.range 16).map fun i => BitVec.ofNat 64 (bytesNat ((bs.drop (8 * i)).take 8).reverse)
  let w := (shaSchedule w.toArray 64).toList
  x.plus ((shaConstants.zip w).foldl (fun x p => x.round p.1 p.2) x)

/-- Blocks of a padded message, `n` of them. -/
def Digest.blocks : Nat → Digest → List Byte → Digest
  | 0, x, _ => x
  | n + 1, x, bs => Digest.blocks n (x.block (bs.take 128)) (bs.drop 128)

/-- The SHA-512 digest of bytes. -/
def sha512 (bs : List Byte) : List Byte :=
  let n := bs.length
  let padded := bs ++ (0x80#8 :: List.replicate ((239 - n % 128) % 128) 0) ++ (natBytes 16 (8 * n)).reverse
  ((Digest.blocks (padded.length / 128) Digest.initial padded).words.map fun w => (natBytes 8 w.toNat).reverse).flatten

/-! ## Ed25519 -/

def edPrime : Nat := 2 ^ 255 - 19

/-- The order of the base point. -/
def edOrder : Nat := 2 ^ 252 + 27742317777372353535851937790883648493

/-- A power modulo the prime, by an exponent of `n` bits. -/
def edPow (b : Nat) : Nat → Nat → Nat
  | 0, _ => 1
  | n + 1, e =>
    let r := edPow (b * b % edPrime) n (e / 2)
    if e % 2 = 1 then r * b % edPrime else r

def edInverse (x : Nat) : Nat := edPow x 256 (edPrime - 2)
def edMinus (a b : Nat) : Nat := (a + edPrime - b % edPrime) % edPrime

/-- The curve's constant, −121665 ÷ 121666. -/
def edD : Nat := edMinus 0 121665 * edInverse 121666 % edPrime

/-- A point in extended homogeneous coordinates. -/
structure EdPoint where
  x : Nat
  y : Nat
  z : Nat
  t : Nat
  deriving DecidableEq, Repr

def EdPoint.zero : EdPoint := ⟨0, 1, 1, 0⟩

def EdPoint.add (p q : EdPoint) : EdPoint :=
  let a := edMinus p.y p.x * edMinus q.y q.x
  let b := (p.y + p.x) * (q.y + q.x)
  let c := 2 * edD * p.t * q.t
  let d := 2 * p.z * q.z
  let e := edMinus b a
  let f := edMinus d c
  let g := d + c
  let h := b + a
  ⟨e * f % edPrime, g * h % edPrime, f * g % edPrime, e * h % edPrime⟩

/-- A multiple of a point, by a number of `n` bits. -/
def EdPoint.times (p : EdPoint) : Nat → Nat → EdPoint
  | 0, _ => EdPoint.zero
  | n + 1, k =>
    let r := (p.add p).times n (k / 2)
    if k % 2 = 1 then r.add p else r

def EdPoint.same (p q : EdPoint) : Bool :=
  p.x * q.z % edPrime == q.x * p.z % edPrime && p.y * q.z % edPrime == q.y * p.z % edPrime

/-- The 32 bytes that encode a point: y, with the low bit of x above it. -/
def EdPoint.encode (p : EdPoint) : List Byte :=
  let z := edInverse p.z
  natBytes 32 (p.y * z % edPrime + p.x * z % edPrime % 2 * 2 ^ 255)

/-- The point of a given y and low bit of x, if there is one. -/
def edPoint (y odd : Nat) : Option EdPoint :=
  let x2 := edMinus (y * y) 1 * edInverse ((edD * y * y + 1) % edPrime) % edPrime
  let r := edPow x2 256 ((edPrime + 3) / 8)
  let x := if r * r % edPrime = x2 then r else r * edPow 2 256 ((edPrime - 1) / 4) % edPrime
  if edPrime ≤ y ∨ x * x % edPrime ≠ x2 ∨ (x = 0 ∧ odd = 1) then none
  else
    let x := if x % 2 = odd then x else edPrime - x
    some ⟨x, y, 1, x * y % edPrime⟩

def EdPoint.decode (bs : List Byte) : Option EdPoint :=
  let n := bytesNat bs
  if bs.length = 32 then edPoint (n % 2 ^ 255) (n / 2 ^ 255) else none

def EdPoint.base : EdPoint := (edPoint (4 * edInverse 5 % edPrime) 0).getD EdPoint.zero

/-- The secret scalar of a private key of 32 bytes. -/
def edScalar (seed : List Byte) : Nat := bytesNat ((sha512 seed).take 32) % 2 ^ 254 / 8 * 8 + 2 ^ 254

/-- The public key of a private key. -/
def edPublic (seed : List Byte) : List Byte := (EdPoint.base.times 256 (edScalar seed)).encode

/-- The Ed25519 signature of a message, of 64 bytes. -/
def edSign (seed msg : List Byte) : List Byte :=
  let pub := edPublic seed
  let r := bytesNat (sha512 ((sha512 seed).drop 32 ++ msg)) % edOrder
  let big := (EdPoint.base.times 256 r).encode
  let k := bytesNat (sha512 (big ++ pub ++ msg)) % edOrder
  big ++ natBytes 32 ((r + k * edScalar seed) % edOrder)

/-- A signature verifies under a public key, with the cofactor. -/
def edVerifies (pub msg sig : List Byte) : Bool :=
  match EdPoint.decode pub, EdPoint.decode (sig.take 32) with
  | some a, some r =>
    let s := bytesNat (sig.drop 32)
    let k := bytesNat (sha512 (sig.take 32 ++ pub ++ msg)) % edOrder
    sig.length == 64 && decide (s < edOrder) &&
      ((EdPoint.base.times 256 s).times 4 8).same ((r.add (a.times 256 k)).times 4 8)
  | _, _ => false

/-! ## As the device uses them -/

/-- The KEYID of a public key (R92). -/
def keyIdOf (pub : List Byte) : List Byte := (sha512 pub).take 32

/-- The accepted public key that a KEYID names (R92, R93). -/
def keyNamed (id : List Byte) : Option (List Byte) := Config.acceptedKeys.find? fun k => keyIdOf k == id

end Sys2Proof.Machine
end

