-- ==== Sys2Proof/Machine/Kiosk.lean ====
section
/-! DEFINITION. The kiosk (spec/25_system.md R406–R421): start-up, events and their rings, mailboxes and their requests but
LOAD, management messages; and the host's posted writes and reads. -/

namespace Sys2Proof.Machine

/-! ## Start-up (R406, R419) and the power cap (R413) -/

/-- POWER_GOOD: device time and start-up stage 1 begin; what stands in flash and in the host's memory stays. -/
def execPowerGood (s : State) : Out :=
  .next { State.reset with
    blob := s.blob, mem := s.mem.filter fun c => decide (extBase ≤ c.1), cur := s.cur, turns := s.turns, tick := s.tick
    free := s.free }

/-- STACK_JOIN: a stack with an enabled channel has trained. -/
def execStackJoin (stack : Nat) (s : State) : Out :=
  .next (if s.stackEnabled stack then
    { s with kiosk := { s.kiosk with
        joined := if s.kiosk.joined.contains stack then s.kiosk.joined else stack :: s.kiosk.joined
        stage := max 2 s.kiosk.stage } }
    else s)

/-- MESH_SELF_TEST: stage 3; the host link is at full speed and the Siard links have trained. -/
def execMeshSelfTest (s : State) : Out :=
  .next { s with kiosk := { s.kiosk with stage := 3, hostFull := true, siard := true } }

/-- POWER_LIMIT (R402, R413): a device alert. -/
def execPowerLimit (s : State) : Out := .next (s.event 6 (some .powerLimit) none none 0 0)

/-! ## Events (R418) -/

def Event.words (e : Event) : List Word := [e.w0, e.w1, e.w2, e.w3]

/-- A record queued in the ring of 256 of a mailbox, or dropped from it. -/
def Kiosk.queue (k : Kiosk) (e : Event) (mb : Nat) : Kiosk :=
  let r := SMap.get [] k.rings mb
  if 256 ≤ r.length then { k with dropped := SMap.set 0 k.dropped mb (sat (2 ^ 32 - 1) (SMap.get 0 k.dropped mb + 1)) }
  else { k with rings := SMap.set [] k.rings mb (r ++ [e]) }

/-- The mailboxes whose rings receive a record. -/
def Event.mailboxes (e : Event) : List Nat :=
  match e.part with
  | some p => [0, p + 1, 32 + p]
  | none => [0]

/-- A class 31 message of the kiosk to a core. The manual gives its stamp no value (log 4). -/
def State.kioskSends (s : State) (core : Nat) (tag : BitVec 32) (ws : List Word) : State :=
  let (stamp, s) := s.fresh
  { s with msgs := s.msgs ++ [⟨core, ⟨31, tag, 0x3FFF, false, stamp, ws⟩, false⟩] }

/-- The core to which a partition's events are routed (R417). -/
def State.eventRoute (s : State) (p : Nat) : Option Nat :=
  let w := SMap.get 0 s.kiosk.routes p
  if bit w 14 then some (fld w 0 14) else none

/-- KIOSK_EVENT: the oldest event reaches its rings, and the core to which its partition's events are routed. -/
def execKioskEvent (s : State) : Out :=
  match s.kiosk.events with
  | [] => .next s
  | e :: rest =>
    let k := e.mailboxes.foldl (fun k mb => k.queue e mb) { s.kiosk with events := rest }
    let s := { s with kiosk := k }
    .next (match e.part.bind s.eventRoute with
      | some c => s.kioskSends c 0x02 e.words
      | none => s)

/-! ## Requests (R415–R417) -/

/-- How a request comes out: it goes on later, it is refused with a status and changes nothing, or it is done. -/
inductive Did where
  | wait (s : State)
  | refuse (status : Nat)
  | done (res : List Word) (s : State)
  deriving DecidableEq, Repr

/-- A request: its mailbox, the core that made it (0x3FFF for the host) and MBARG0–MBARG6. -/
structure Ask where
  mb   : Nat
  who  : Nat
  args : List Word
  deriving DecidableEq, Repr

def Ask.arg (a : Ask) (i : Nat) : Word := a.args.getD i 0

/-- The partition that a request acts for. -/
def Ask.part (a : Ask) : Nat := if a.mb = 0 then fld (a.arg 6) 0 4 else if a.mb ≤ 16 then a.mb - 1 else a.mb - 32

def State.askedExists (s : State) (a : Ask) : Bool := (s.part a.part).exists?

/-- The place that an address in a request names: host memory, or the runtime's space (log 23). -/
def State.askPlace (s : State) (a : Ask) (va : Word) (right : Right) : Option Place :=
  if a.mb ≤ 16 then (if va.toNat < 2 ^ 40 then some (.ext (extBase + va.toNat)) else none)
  else match (s.translateNow a.who true va right).1 with
    | .ok x => some x.place
    | _ => none

/-- A byte that the kiosk reads; none where it cannot be read. -/
def State.byteAt (s : State) : Place → Option Byte
  | .spad k => if s.tagAt k = tagPoison then none else some (readByte s.mem k)
  | .hbm k => if s.poisoned k ∨ s.offline k then none else some (readByte s.mem k)
  | .ext k => some (readByte s.mem k)
  | _ => none

/-- Bytes at an address in a request. -/
def State.askBytes (s : State) (a : Ask) (va : Word) (n : Nat) : Option (List Byte) :=
  (List.range n).mapM fun i => (s.askPlace a (va + wordOf i) .r).bind s.byteAt

/-- The first `n` bytes of a list, with zeros after its end. -/
def padBytes (n : Nat) (l : List Byte) : List Byte := (l ++ List.replicate n 0).take n

/-- MBDATA as bytes. -/
def State.mbData (s : State) (mb off n : Nat) : List Byte :=
  (List.range n).map fun i => BitVec.ofNat 8 ((s.mail mb (0x100 + (off + i) / 8 * 8)).toNat / 256 ^ ((off + i) % 8))

/-- Words of MBDATA. -/
def State.setMbData (s : State) (mb : Nat) (ws : List Word) : State :=
  (ws.zipIdx).foldl (fun s p => s.setMail mb (0x100 + 8 * p.2) p.1) s

/-- Bytes gathered into words. -/
def wordsOfBytes : Nat → List Byte → List Word
  | 0, _ => []
  | n + 1, bs => wordOf (bytesNat (bs.take 8)) :: wordsOfBytes n (bs.drop 8)

/-- QUERY. -/
def State.query (a : Ask) (s : State) : Did :=
  let enabled := ((List.range 12).filter s.stackEnabled).foldl (fun m i => m + 2 ^ i) 0
  let parts := ((List.range 16).filter fun p => (s.part p).exists?).foldl (fun m i => m + 2 ^ i) 0
  .done [wordOf s.ns, wordOf (s.liveCe % 1024 + (s.part a.part).clusters.length % 1024 * 1024 + enabled * 2 ^ 20),
    wordOf parts, Config.firmwareVersion, s.mbStage] s

/-- ATTEST (R421). -/
def State.attest (a : Ask) (s : State) : Did :=
  let ids := s.kiosk.keyIds
  let head := padBytes 64 Config.firmwareDigest ++ padBytes 64 Config.configDigest ++
    (List.range 8).map (fun i => BitVec.ofNat 8 (ids.length / 256 ^ i)) ++ (ids.map (padBytes 32)).flatten ++ s.mbData a.mb 0 32
  let report := head ++ edSign Config.identityKey (sha512 head)
  if 3840 < report.length then .refuse 20
  else .done [wordOf report.length] (s.setMbData a.mb (wordsOfBytes ((report.length + 7) / 8) report))

/-- EVENT_READ. -/
def State.eventRead (a : Ask) (s : State) : Did :=
  let n := (a.arg 0).toNat
  if n = 0 ∨ 120 < n then .refuse 18
  else
    let r := SMap.get [] s.kiosk.rings a.mb
    let out := r.take n
    let s := { s with kiosk := { s.kiosk with rings := SMap.set [] s.kiosk.rings a.mb (r.drop n) } }
    .done [wordOf out.length] (s.setMbData a.mb (out.map Event.words).flatten)

/-- EVENT_ROUTE. -/
def State.routeEvents (a : Ask) (s : State) : Did :=
  let w := a.arg 0
  if a.mb < 32 then .refuse 17
  else if !s.askedExists a || fld w 15 49 != 0 || !s.inPart a.part (fld w 0 14) then .refuse 18
  else .done [] { s with kiosk := { s.kiosk with routes := SMap.set 0 s.kiosk.routes a.part w } }

/-- LAUNCH (R324, R336, R417). -/
def State.mailLaunch (a : Ask) (s : State) : Did :=
  let p := a.part
  if !s.askedExists a then .refuse 18
  else
    let issuer := 16 * (s.part p).clusters.headD 0
    let va := a.arg 0
    let place := fun (va : Word) =>
      if a.mb ≤ 16 then
        match (s.translateNow issuer false va .r).1 with
        | .ok x => some x.place
        | _ => none
      else s.askPlace a va .r
    if va.toNat % 64 ≠ 0 ∨ (a.mb ≤ 16 ∧ isAliasRegion va.toNat) then .refuse 18
    else match (List.range 64).mapM fun i => (place (va + wordOf i)).bind s.byteAt with
      | none => .refuse 18
      | some bs =>
        let ws := wordsOfBytes 8 bs
        let w0 := ws.getD 0 0
        if (ldBad ws).isSome || !decide (ldPrio w0 ≤ (s.part p).pceil) || s.ldBadCore p w0 then .refuse 18
        else
          let home := match ldKind w0 with
            | 0 => if ldAny w0 then 0 else dieOf (ldCore w0)
            | 1 => match (s.resolve issuer false (ws.getD 1 0) 64 .r).1 with
              | .ok pa => fld (s.physWord (pa + 24)) 11 2
              | .error _ => 0
            | _ => 0
          if s.engineFull home then .wait s
          else
            let (key, s) := s.enterLaunch ws (a.arg 1) issuer false p 0 none
            .done [match s.launch? key with | some l => l.idWord | none => 0] s

/-! ## Partitions (R308, R411, R417) -/

/-- Insertion into a rising list without repeats. -/
def insertOnce (n : Nat) : List Nat → List Nat
  | [] => [n]
  | m :: ms => if n < m then n :: m :: ms else if n = m then m :: ms else m :: insertOnce n ms

/-- The clusters that a request lists, or its status. -/
def State.askClusters (s : State) (a : Ask) (addr count : Word) (own : Nat → Bool) : Except Nat (List Nat) :=
  if count.toNat = 0 ∨ 768 < count.toNat then .error 18
  else match s.askBytes a addr (2 * count.toNat) with
    | none => .error 18
    | some bs =>
      let ns := (List.range count.toNat).map fun i => bytesNat ((bs.drop (2 * i)).take 2)
      if ns.any fun n => decide (768 ≤ n) || s.blob.clusters.contains n then .error 18
      else
        let cls := ns.map clusterOfIndex
        let taken := fun cl => s.parts.any fun kp => kp.2.exists? && kp.2.clusters.contains cl && !own kp.1
        if cls.any taken ∨ (cls.foldl (fun l c => insertOnce c l) []).length ≠ cls.length then .error 20
        else .ok (cls.foldl (fun l c => insertOnce c l) [])

/-- A cluster programmed for a partition: its cores' partition, and its store budget. -/
def State.programCluster (p : Nat) (rate burst : Word) (s : State) (cl : Nat) : State :=
  let s := (List.range 16).foldl (fun (s : State) i => s.updCore (cl * 16 + i) fun k => { k with pid := BitVec.ofNat 4 p }) s
  s.updCluster cl fun k => engineKiosk (engineKiosk k 0x2100 rate) 0x2108 burst

/-- A run of `n` granules of the interleaved window, the lowest that has room. -/
def State.takeGranules (s : State) (n : Nat) : Option (Nat × State) :=
  match findIdx (fun (r : Nat × Nat) => decide (n ≤ r.2)) s.kiosk.freed 0 with
  | some (i, r) =>
    let rest := if r.2 = n then dropNth s.kiosk.freed i else setNth s.kiosk.freed i (r.1 + n, r.2 - n)
    some (r.1, { s with kiosk := { s.kiosk with freed := rest } })
  | none =>
    let g := s.kiosk.nextGranule
    if g + n ≤ 393216 * s.channelList.length then some (g, { s with kiosk := { s.kiosk with nextGranule := g + n } })
    else none

/-- PART_CREATE. The descriptor takes the first granule, the arena those after it (log 22). -/
def State.partCreate (a : Ask) (s : State) : Did :=
  let p := fld (a.arg 0) 0 4
  let rate := wordOf (fld (a.arg 5) 0 16)
  let burst := wordOf (fld (a.arg 5) 16 16)
  if a.mb ≠ 0 then .refuse 17
  else if fld (a.arg 0) 4 60 ≠ 0 ∨ fld (a.arg 4) 6 58 ≠ 0 ∨ fld (a.arg 5) 32 32 ≠ 0 then .refuse 18
  else match s.askClusters a (a.arg 1) (a.arg 2) (fun _ => false) with
    | .error e => .refuse (if e = 18 then 18 else 20)
    | .ok cls =>
      if (s.part p).exists? then .refuse 20
      else if burst = 0 then .refuse 18
      else match s.takeGranules (1 + Config.arenaGranules + (a.arg 3).toNat) with
        | none => .refuse 20
        | some (g, s) =>
          let q : Partition :=
            { exists? := true, clusters := cls, pceil := fld (a.arg 4) 0 6, granules := (a.arg 3).toNat,
              arena := 4096 * (g + 1), arenaLen := 4096 * Config.arenaGranules, desc := 4096 * g, moving := [], moved := [] }
          let s := { s with parts := SMap.put s.parts p q }
          let s := s.putPhys q.desc [wordOf (p + q.pceil * 2 ^ 8), wordOf q.arena, wordOf q.arenaLen, 0, 0, 0, 0, 0]
          .done [] (cls.foldl (State.programCluster p rate burst) s)

/-- Nothing of a core is under way: no activation, and every engine command retired (R417). -/
def Core.quiet (k : Core) : Bool :=
  k.act.isNone && k.susp.isNone && k.inl.isNone && k.mx.inbox.isEmpty && k.chan.inbox.isEmpty && k.flight.isEmpty

/-- The registers of a core that belong to its partition's context, taken from another core (R181, R211, R285, R309). -/
def Core.withContext (k src : Core) : Core :=
  { k with
    memctl := src.memctl, tagto := src.tagto, portto := src.portto, sysvec := src.sysvec, cmask := src.cmask
    clsh := src.clsh, drops := src.drops, dord := src.dord, rring := src.rring, rrpos := src.rrpos, dqcfg := src.dqcfg
    dqpos := src.dqpos, steal := src.steal }

/-- A core that its partition gives up: the context of the partition leaves it. -/
def Core.given (k : Core) : Core := { k.withContext Core.reset with pid := 0 }

/-- PART_DESTROY: it ends every activation and launch of the partition, and answers once every engine command has
retired. What its dispatchers hold goes with it (DESIGN CHOICE, log 22). -/
def State.partDestroy (a : Ask) (s : State) : Did :=
  let p := fld (a.arg 0) 0 4
  if a.mb ≠ 0 then .refuse 17
  else if fld (a.arg 0) 4 60 ≠ 0 ∨ !(s.part p).exists? then .refuse 18
  else
    let roots := (s.launches.filter fun kl => kl.2.part == p && kl.2.parent.isNone && kl.2.phase != .retired).map Prod.fst
    let s := roots.foldl (fun s k => s.endLaunch k none) s
    let cores := s.partCores p
    let s := cores.foldl (fun (s : State) c => (s.endAct c false true none).endAct c true true none) s
    let nm := s.stackEngines.any fun ks => ks.2.ctxs.toList.any fun x => x.inbox.any fun m => m.part == p
    let live := s.launches.any fun kl => kl.2.part == p && kl.2.phase != .retired
    if nm || live || !(cores.all fun c => (s.core c).quiet) then .wait s
    else
      let q := s.part p
      let run : Quarantined := ⟨q.desc / 4096, 1 + q.arenaLen / 4096 + q.granules, p, s.tgen⟩
      let s := { s with parts := SMap.erase s.parts p
                        dies := s.dies.map fun (kd : Nat × Die) => (kd.1, { kd.2 with pops := kd.2.pops.filter fun x => x.part != p })
                        kiosk := { s.kiosk with quarantine := s.kiosk.quarantine ++ [run] } }
      .done [] (cores.foldl (fun (s : State) c => s.updCore c fun k => { k.given with disp := Disp.reset }) s)

/-! ### Resize (R411) -/

/-- A range of memory with its tags, moved to another place. -/
def State.copyRange (s : State) (src dst n : Nat) : State :=
  let inR := fun b (k : Nat) => decide (b ≤ k) && decide (k < b + n)
  let cells := s.mem.filter fun c => inR src c.1
  let tags := s.tags.filter fun c => inR src c.1
  { s with
    mem := cells.foldl (fun m c => writeByte m (c.1 - src + dst) c.2) (s.mem.filter fun c => !inR dst c.1)
    tags := tags.foldl (fun m c => SMap.set tagEmpty m (c.1 - src + dst) c.2) (s.tags.filter fun c => !inR dst c.1) }

/-- A canonical address of one core's private scratchpad as that of another's. -/
def shiftPriv (old new k : Nat) : Nat :=
  if privBase old ≤ k ∧ k < privBase old + 0x20000 then k - privBase old + privBase new else k

def Source.shift (f : Nat → Nat) : Source → Source
  | .tcb k => .tcb (f k)
  | .slot k => .slot (f k)
  | x => x

/-- A barrier with a member renamed. -/
def Barrier.rename (f : Nat → Nat) (b : Barrier) : Barrier :=
  { arrived := b.arrived.map fun p => (f p.1, p.2), leaving := b.leaving.map f, broken := b.broken.map fun p => (f p.1, p.2) }

/-- A group with a member core renamed: its team structure stays (R411). -/
def Group.rename (f : Nat → Nat) (g : Group) : Group :=
  { g with
    bar := g.bar.rename f
    teams := g.teams.map fun t => { t with cores := t.cores.map f, live := t.live.map f, bar := t.bar.rename f } }

/-- The member sets of a launch's group and team descriptors, written anew (R306, R307). -/
def State.redescribe (s : State) (l : Launch) : State :=
  l.groups.foldl (fun (s : State) g =>
    if g.desc = 0 ∨ g.phase ≠ .running then s else
    let first := ((g.teams.map fun t => t.cores).flatten).headD 0
    let s := s.putPhys (g.desc + 8) [wordOf (g.teams.length + dieOf first * 64)]
    g.teams.foldl (fun (s : State) t =>
      let cl := t.cores.headD 0 / 16
      s.putPhys (t.desc + 8) [wordOf (coreMask t.cores + cl % 256 * 2 ^ 16 + cl / 256 * 2 ^ 24)]) s) s

/-- A table's keys moved with a core's private scratchpad. -/
def SMap.shiftKeys {α : Type} (f : Nat → Nat) (m : SMap α) : SMap α :=
  m.foldl (fun (r : SMap α) kv => SMap.put r (f kv.1) kv.2) []

/-- Port words of another core stand before those of a core (R123). -/
def Core.takeFifos (k src : Core) : Core :=
  { k with
    fifoN := src.fifoN ++ k.fifoN, fifoE := src.fifoE ++ k.fifoE, fifoS := src.fifoS ++ k.fifoS, fifoW := src.fifoW ++ k.fifoW }

/-- The follow-on commands that a channel holds for a core go to another (R253). -/
def Channel.redirect (f : Nat → Nat) (c : Channel) : Channel :=
  let go := fun (x : Follow) => { x with core := f x.core }
  { c with held := c.held.map go, carriedHeld := c.carriedHeld.map go }

/-- A context moved from a core to another (R411 steps 2 and 3): save area, private scratchpad with tags, what the
dispatcher and the channel keep of it, its port words (R123), and the registers of the partition's context. -/
def State.moveContext (s : State) (old new : Nat) : State :=
  let k := s.core old
  let sh := shiftPriv old new
  let f := fun c => if c = old then new else c
  let s := (s.copyRange (saveArea old) (saveArea new) 0x1000).copyRange (privBase old) (privBase new) 0x20000
  let s := s.updCore new fun n =>
    { (n.withContext k).takeFifos k with
      susp := k.susp.map fun a => { a with source := a.source.shift sh }, suspCtx := k.suspCtx
      chan := { n.chan with carried := k.chan.carried, carriedHeld := k.chan.carriedHeld } }
  let s := s.updCore old fun n =>
    { n with
      susp := none, suspCtx := SuspCtx.none, fifoN := [], fifoE := [], fifoS := [], fifoW := []
      chan := { n.chan with carried := [], carriedHeld := [] } }
  let s : State := { s with
    cores := s.cores.map fun (kc : Nat × Core) => (kc.1, { kc.2 with chan := kc.2.chan.redirect f })
    slots := SMap.shiftKeys sh s.slots, origins := SMap.shiftKeys sh s.origins, tcbLaunch := SMap.shiftKeys sh s.tcbLaunch
    tcbStamp := SMap.shiftKeys sh s.tcbStamp, injects := SMap.shiftKeys sh s.injects
    launches := s.launches.map fun (kl : Nat × Launch) => (kl.1, { kl.2 with groups := kl.2.groups.map (Group.rename f) }) }
  (s.launches.map Prod.snd).foldl State.redescribe s

/-- The pages of a removed cluster's shared scratchpad get entries in the engine that takes them over; the granules that
receive them are the kiosk's choice (R394, R411 step 4; log 24). -/
def State.moveShared (s : State) (old new : Nat) : State :=
  let (r, s) := s.choose 512
  s.updCluster new fun k =>
    { k with migs := (k.migs.filter fun m => m.valid) ++ (List.range 512).map fun i =>
        ⟨sharedBase old / 4096 + i, true, sharedBase new / 4096 + (i + r) % 512, 0, 0, 0⟩ }

/-- A cluster of the partition whose cores can take the suspended contexts of a removed cluster, place by place. -/
def State.takerOf (s : State) (p old : Nat) : Option Nat :=
  (s.part p).clusters.find? fun cl => (List.range 16).all fun i =>
    (s.core (old * 16 + i)).susp.isNone || (s.coreLive (cl * 16 + i) && (s.core (cl * 16 + i)).idle)

/-- One removed cluster given up once its cores have saved their contexts and a cluster can take them. -/
def State.giveUp (p : Nat) (s : State) (old : Nat) : State :=
  let cores := (List.range 16).map fun i => old * 16 + i
  let free := fun c => let k := s.core c; k.act.isNone && k.inl.isNone && k.trapping.isNone
  match s.takerOf p old with
  | some new =>
    if !cores.all free then s
    else
      let full := (List.range 16).filter fun i => (s.core (old * 16 + i)).susp.isSome
      let s := full.foldl (fun (s : State) i => s.moveContext (old * 16 + i) (new * 16 + i)) s
      let s := cores.foldl (fun (s : State) c => s.updCore c Core.given) (s.moveShared old new)
      s.updPart p fun q => { q with
        moving := q.moving.filter fun c => clusterOf c != old, moved := q.moved ++ full.map fun i => new * 16 + i }
  | none => s

/-- PART_RESIZE: it answers once every moved context has resumed. -/
def State.partResize (a : Ask) (s : State) : Did :=
  let p := fld (a.arg 0) 0 4
  let q := s.part p
  if a.mb ≠ 0 then .refuse 17
  else if fld (a.arg 0) 4 60 ≠ 0 ∨ !q.exists? then .refuse 18
  else if !q.moving.isEmpty || !q.moved.isEmpty then
    let s := ((q.moving.map clusterOf).foldl (fun l c => insertOnce c l) []).foldl (State.giveUp p) s
    let s := s.updPart p fun q => { q with moved := q.moved.filter fun c => (s.core c).susp.isSome }
    if (s.part p).moving.isEmpty && (s.part p).moved.isEmpty then .done [] s else .wait s
  else match s.askClusters a (a.arg 1) (a.arg 2) (fun k => k == p) with
    | .error e => .refuse e
    | .ok cls =>
      let ce := s.cluster (q.clusters.headD 0)
      let added := cls.filter fun c => !q.clusters.contains c
      let gone := q.clusters.filter fun c => !cls.contains c
      let s := added.foldl (State.programCluster p ce.sbrate ce.sbburst) s
      let s := s.updPart p fun q => { q with
        clusters := cls, moving := (gone.map fun cl => (List.range 16).map fun i => cl * 16 + i).flatten }
      if gone.isEmpty then .done [] s else .wait s

/-! ## Doorbells and answers (R416) -/

/-- MBSTAT of an answer. -/
def answerWord (status : Nat) (cmd : Word) : Word := wordOf (status + 2 ^ 16 + fld cmd 32 32 * 2 ^ 32)

/-- An answer to a doorbell: results, MBSTAT, then MSI-X vector 0 or a class 31 message of kind 0x01. -/
def State.answer (s : State) (d : Door) (status : Nat) (res : List Word) : State :=
  let st := answerWord status d.cmd
  let rs := (List.range 7).map fun i => res.getD i 0
  let s := (rs.zipIdx).foldl (fun s p => s.setMail d.mb (0x48 + 8 * p.2) p.1) s
  let s := s.setMail d.mb 0x40 st
  let s := { s with kiosk := { s.kiosk with doors := s.kiosk.doors.filter fun x => x.mb != d.mb } }
  if d.mb ≤ 16 then s.raiseMsix d.mb 0 else s.kioskSends d.who 0x01 (st :: rs)

/-- The start-up stage that a request needs (R419; log 25). -/
def stageOf (op : Nat) : Nat := if op = 0x0001 ∨ op = 0x0040 ∨ op = 0x0050 ∨ op = 0x0051 then 1 else 2

/-- The OPCODEs of R417. -/
def opcodes : List Nat := [0x0001, 0x0010, 0x0020, 0x0030, 0x0031, 0x0032, 0x0040, 0x0050, 0x0051]

/-- A request of a mailbox, performed where its OPCODE is the row's; an unknown one is answered with STATUS 19. -/
def State.serve (s : State) (mb : Nat) (mine : Nat → Bool) (f : Ask → State → Did) : Out :=
  match s.kiosk.doors.find? fun d => d.mb == mb with
  | none => .next s
  | some d =>
    let op := fld d.cmd 0 16
    if !mine op then .next s
    else if s.kiosk.stage < stageOf op then .next (s.answer d 16 [])
    else if !opcodes.contains op then .next (s.answer d 19 [])
    else match f ⟨mb, d.who, d.args⟩ s with
      | .wait s => .next s
      | .refuse st => .next (s.answer d st [])
      | .done res s => .next (s.answer d 0 res)

/-- QUERY; and the answer to an unknown OPCODE. -/
def execMbQuery (mb : Nat) (s : State) : Out := s.serve mb (fun op => op == 0x0001 || !opcodes.contains op) State.query

def execMbLaunch (mb : Nat) (s : State) : Out := s.serve mb (· == 0x0020) State.mailLaunch
def execMbPartCreate (mb : Nat) (s : State) : Out := s.serve mb (· == 0x0030) State.partCreate
def execMbPartResize (mb : Nat) (s : State) : Out := s.serve mb (· == 0x0031) State.partResize
def execMbPartDestroy (mb : Nat) (s : State) : Out := s.serve mb (· == 0x0032) State.partDestroy
def execMbAttest (mb : Nat) (s : State) : Out := s.serve mb (· == 0x0040) State.attest
def execMbEventRead (mb : Nat) (s : State) : Out := s.serve mb (· == 0x0050) State.eventRead
def execMbEventRoute (mb : Nat) (s : State) : Out := s.serve mb (· == 0x0051) State.routeEvents

/-! ## The host's accesses (R407, R408) -/

/-- POSTED_WRITE (R408): eight bytes, at the physical address that the function's window maps to; in control space only
the function's own mailbox is reached (log 26). A write into an arrival word replaces its contents (R409). -/
def execPostedWrite (fn pa : Nat) (v : Word) (s : State) : Out :=
  if pa % 8 ≠ 0 then .next s
  else match s.place 0 pa with
    | .ctl pa => match blockOf pa with
      | .mailbox m off => .next (if m = fn ∧ off < 0x1000 then s.mailWrite m off (BitVec.allOnes 64) v 0x3FFF else s)
      | _ => .next s
    | .spad k =>
      if s.tagAt k = tagArrival then .next ((s.write k 8 v).changed k)
      else .next (s.plainStore (.spad k) v)
    | pl => if s.wqFull pl then .next s else .next (s.plainStore pl v)

/-- HOST_READ (R408): eight bytes. A read that its home refuses returns a value that the manual does not state (log 4). -/
def execHostRead (fn pa : Nat) (s : State) : Out :=
  let got := fun (s : State) (v : Word) => { s with host := { s.host with lastRead := v } }
  let unknown := fun (s : State) => let (v, s) := s.fresh; got s v
  if pa % 8 ≠ 0 then .next (got s 0)
  else match s.place 0 pa with
    | .ctl pa => match blockOf pa with
      | .mailbox m off => .next (got s (if m = fn ∧ off < 0x1000 then s.mailRead m off else 0))
      | _ => .next (got s 0)
    | pl => match s.homeRead pl 8 with
      | .ok (v, s) => .next (got s v)
      | .error _ => .next (unknown (s.afterRead pl 8))

end Sys2Proof.Machine
end

