-- ==== Sys2Proof/Machine/Loader.lean ====
section
/-! DEFINITION. The loader (spec/04_assembly_objects.md R82–R96): the parts of a DOF file, the checks of R93 in their order,
layout, relocation, placement and start; the injection list (R341, R403, R417); and management messages (R418). -/

namespace Sys2Proof.Machine

/-! ## The file's parts (R82–R92) -/

abbrev Bytes := Array Byte

/-- The number in `n` bytes at an offset; bytes beyond the end read zero. -/
def Bytes.nat (f : Bytes) (o n : Nat) : Nat := bytesNat ((List.range n).map fun i => f.getD (o + i) 0)

/-- `n` bytes at an offset replaced by those of a number. -/
def Bytes.patch (f : Bytes) (o v : Nat) : Nat → Bytes
  | 0 => f
  | n + 1 => Bytes.patch (f.setIfInBounds o (BitVec.ofNat 8 v)) (o + 1) (v / 256) n

def Bytes.slice (f : Bytes) (o n : Nat) : Bytes := ((List.range n).map fun i => f.getD (o + i) 0).toArray

/-- A section: KIND 0 text, 1 stext, 2 pdata, 3 sdata, 4 hbm (R84). -/
structure DofSection where
  kind  : Nat
  align : Nat
  off   : Nat
  size  : Nat
  va    : Nat
  deriving DecidableEq, Repr

structure DofSymbol where
  sec   : Nat
  kind  : Nat
  value : Nat
  deriving DecidableEq, Repr

structure DofReloc where
  loc  : Nat
  sec  : Nat
  type : Nat
  sym  : Nat
  add  : Int
  deriving DecidableEq, Repr

structure DofRegion where
  shared : Bool
  align  : Nat
  full   : Bool
  tile   : Bool
  size   : Nat
  deriving DecidableEq, Repr

/-- A record of the launch table: its offset there, TYPE and SIZE (R89). -/
structure DofRecord where
  pos  : Nat
  type : Nat
  size : Nat
  deriving DecidableEq, Repr

/-- A file as read. -/
structure Dof where
  file    : Bytes
  /-- offset, count and entry size of the eight tables -/
  tables  : List (Nat × Nat × Nat)
  ymax    : Nat
  secs    : List DofSection
  syms    : List DofSymbol
  relocs  : List DofReloc
  /-- section and offset of each header -/
  blocks  : List (Nat × Nat)
  regions : List DofRegion
  launch  : Bytes
  recs    : List DofRecord
  recsOk  : Bool
  deriving DecidableEq, Repr

/-- Records up to the end of the launch table, and whether they fill it. -/
def readRecords (lt : Bytes) : Nat → Nat → List DofRecord × Bool
  | 0, o => ([], o == lt.size)
  | n + 1, o =>
    if lt.size ≤ o then ([], o == lt.size)
    else
      let size := lt.nat (o + 2) 2
      if size < 8 ∨ size % 8 ≠ 0 ∨ lt.size < o + size then ([], false)
      else
        let r := readRecords lt n (o + size)
        (⟨o, lt.nat o 2, size⟩ :: r.1, r.2 && lt.nat (o + 4) 4 == 0)

def readDof (f : Bytes) : Dof :=
  let tab := fun i => (f.nat (16 + 16 * i) 8, f.nat (24 + 16 * i) 4, f.nat (28 + 16 * i) 4)
  let at0 := fun i => (tab i).1
  let rows := fun i => List.range (min (tab i).2.1 f.size)
  let lt := f.slice (at0 6) (min (8 * (tab 6).2.1) f.size)
  let r := readRecords lt lt.size 0
  { file := f
    tables := (List.range 8).map tab
    ymax := f.nat 12 4
    secs := (rows 0).map fun i =>
      let o := at0 0 + 32 * i
      ⟨f.nat (o + 4) 1, 2 ^ (f.nat (o + 5) 1), f.nat (o + 8) 8, f.nat (o + 16) 8, f.nat (o + 24) 8⟩
    syms := (rows 2).map fun i =>
      let o := at0 2 + 24 * i
      ⟨f.nat (o + 4) 2, f.nat (o + 6) 1, f.nat (o + 8) 8⟩
    relocs := (rows 3).map fun i =>
      let o := at0 3 + 24 * i
      ⟨f.nat o 8, f.nat (o + 8) 2, f.nat (o + 10) 1, f.nat (o + 12) 4, sextInt (f.nat (o + 16) 8) 64⟩
    blocks := (rows 4).map fun i =>
      let o := at0 4 + 16 * i
      (f.nat (o + 8) 2, f.nat o 8)
    regions := (rows 5).map fun i =>
      let o := at0 5 + 32 * i
      ⟨f.nat (o + 4) 1 == 1, 2 ^ (f.nat (o + 5) 1), f.nat (o + 6) 1 % 2 == 1, f.nat (o + 6) 1 / 2 % 2 == 1, f.nat (o + 8) 8⟩
    launch := lt
    recs := r.1
    recsOk := r.2 }

/-! ## Statuses 1–3 (R93) -/

/-- Entry sizes of the tables (R83). -/
def entrySizes : List Nat := [32, 1, 24, 24, 16, 32, 8, 128]

/-- Status 1: MAGIC, major VERSION, the header and its zero fields, and the entry sizes that it gives. -/
def Dof.badHeader (d : Dof) : Bool :=
  let f := d.file
  decide (f.size < 144) || f.nat 0 4 != 0x4C475744 || f.nat 6 2 != 1 || f.nat 8 4 / 4 != 0 ||
  d.tables.map (fun t => t.2.2) != entrySizes || (d.tables.map fun t => t.2.1).getD 7 0 != 1

/-- Where the signature section begins. -/
def Dof.sigAt (d : Dof) : Nat := (d.tables.getD 7 (0, 0, 0)).1

/-- Status 2: the KEYID and the signature (R92). Bytes other than zero at offsets 96–127 of the signature section have
this status too (DESIGN CHOICE, log 18: the specification gives them none). -/
def Dof.badSignature (d : Dof) : Bool :=
  let f := d.file
  let o := d.sigAt
  decide (f.size < o + 128) || (f.slice (o + 96) 32).toList.any (· != 0) ||
    match keyNamed (f.slice o 32).toList with
    | some pub => !edVerifies pub (sha512 (f.slice 0 o).toList) (f.slice (o + 32) 64).toList
    | none => true

/-- The runs of bytes that the header, tables and sections take. -/
def Dof.runs (d : Dof) : List (Nat × Nat) :=
  ((0, 144) :: d.tables.map fun t => (t.1, t.2.1 * t.2.2)) ++ d.secs.map fun s => (s.off, s.size)

def runsOverlap (a b : Nat × Nat) : Bool := decide (0 < a.2) && decide (0 < b.2) && decide (a.1 < b.1 + b.2) && decide (b.1 < a.1 + a.2)

def anyOverlap : List (Nat × Nat) → Bool
  | [] => false
  | r :: rs => rs.any (runsOverlap r) || anyOverlap rs

/-- Status 3: a part extends beyond the file, or overlaps another. A file with bytes after the signature section has this
status too (DESIGN CHOICE, log 18: the specification gives it none). -/
def Dof.badExtents (d : Dof) : Bool :=
  d.runs.any (fun r => decide (d.file.size < r.1 + r.2)) || anyOverlap d.runs || d.sigAt + 128 != d.file.size

/-! ## Status 4: the block table -/

def DofSection.code (s : DofSection) : Bool := decide (s.kind < 2)

/-- The header of a block. -/
def headerAt (data : Bytes) (o : Nat) : Word := wordOf (data.nat o 8)

/-- The header checks of R43 that a file's bytes show. -/
def headerOk (data : Bytes) (o : Nat) : Bool :=
  let h := headerAt data o
  o % 8 == 0 && hdrMark h == 0b111110 && hdrLen h != 0 && decide (hdrCarry h ≤ 4) && fld h 24 3 == 0 &&
  (hdrKind h != .entry || (hdrCarry h == 0 && fld h 36 12 == 0)) &&
  (hdrKind h != .yield || (hdrCarry h == 0 && data.nat (o + 11) 1 == 0xC3))

/-- The end of a block. -/
def blockEndAt (data : Bytes) (o : Nat) : Nat := let l := hdrLen (headerAt data o); o + 8 + 4 * (l + l % 2)

/-- The listed headers cover a section from an offset to exactly its end, with gaps of zero bytes between blocks. -/
def covers' (data : Bytes) : List Nat → Nat → Bool
  | [], o => o == data.size
  | b :: bs, o =>
    decide (o ≤ b) && decide (b - o < 4096) && (data.slice o (b - o)).toList.all (· == 0) && headerOk data b &&
    decide (blockEndAt data b ≤ data.size) &&
    (hdrLen (headerAt data b) % 2 == 0 || data.nat (blockEndAt data b - 4) 4 == 0) && covers' data bs (blockEndAt data b)

/-- The offset field of a transfer, in 8-byte units from its block's header. -/
def transferOff : Instr → Option Int
  | .br _ _ _ o => some o.toInt
  | .jmp o => some o.toInt
  | .call o => some o.toInt
  | .loop _ o => some o.toInt
  | .loopi _ o => some o.toInt
  | .brk o => some o.toInt
  | _ => none

/-- A transfer of a block that no relocation patches, and whose target is not a listed header. -/
def badTransfer (data : Bytes) (heads patched : List Nat) (b : Nat) : Bool :=
  (List.range (hdrLen (headerAt data b))).any fun i =>
    let o := b + 8 + 4 * i
    !patched.contains o &&
    (match transferOff (decodeWord (BitVec.ofNat 32 (data.nat o 4))) with
      | some k => !heads.any fun h => decide ((h : Int) = (b : Int) + 8 * k)
      | none => false)

/-- The argument of a yield-point block's `yield`. -/
def yieldArg (data : Bytes) (b : Nat) : Option Nat :=
  if hdrKind (headerAt data b) = .yield then some (data.nat (b + 8) 4 % 2 ^ 13) else none

def Dof.data (d : Dof) (s : DofSection) : Bytes := d.file.slice s.off s.size
def Dof.heads (d : Dof) (i : Nat) : List Nat := (d.blocks.filter fun b => b.1 == i).map Prod.snd

def Dof.badBlocks (d : Dof) : Bool :=
  (d.blocks.any fun b => match d.secs[b.1]? with
    | some s => !s.code
    | none => true) ||
  (d.secs.zipIdx).any fun p =>
    p.1.code &&
      (let data := d.data p.1
       let heads := d.heads p.2
       let patched := (d.relocs.filter fun r => r.sec == p.2 && (r.type == 2 || r.type == 3)).map fun r => r.loc
       !covers' data heads 0 || heads.any (badTransfer data heads patched) ||
         (d.ymax != 0 && heads.any fun b => decide (d.ymax < (yieldArg data b).getD 0)))

/-- The largest argument of a `yield` in the file's yield-point blocks. -/
def Dof.maxYield (d : Dof) : Nat :=
  ((d.secs.zipIdx).filter fun p => p.1.code).foldl (fun m p =>
    (d.heads p.2).foldl (fun m b => max m ((yieldArg (d.data p.1) b).getD 0)) m) 0

/-! ## Target cores and layout (R94, R95) -/

/-- Body of a record, from its offset. -/
def Dof.body (d : Dof) (r : DofRecord) (o n : Nat) : Nat := d.launch.nat (r.pos + 8 + o) n

/-- The core fields of a record: named, or the loader's to choose (log 18). -/
def Dof.named (d : Dof) (r : DofRecord) : List Nat × Bool :=
  match r.type with
  | 1 => let c := d.body r 0 2; if c = 0xFFFF then ([], true) else ([c], false)
  | 2 => let c := fld (wordOf (d.body r 56 8)) 34 14; if c = 0x3FFF then ([], true) else ([c], false)
  | 4 =>
    let es := ((List.range 8).map fun e => wordOf (d.body r (64 + 8 * e) 8)).filter entValid
    if entCore (es.headD 0) = 0x3FFF then ([], true) else (es.map entCore, false)
  | 6 => ((List.range (d.body r 2 2)).map fun i => d.body r (8 + 2 * i) 2, false)
  | _ => ([], false)

/-- The cores of each record, with the loader's choices made among the cores of the partition. -/
def State.chooseCores (d : Dof) (cores : List Nat) : List DofRecord → State → List (List Nat) × State
  | [], s => ([], s)
  | r :: rs, s =>
    let n := d.named r
    let (c, s) := if n.2 then (let (i, s) := s.choose (max 1 cores.length); ([cores.getD i 0], s)) else (n.1, s)
    let (cs, s) := State.chooseCores d cores rs s
    (c :: cs, s)

/-- Where everything lies: sections and regions by offset in their unit, records by unit (shared) and offset. -/
structure Layout where
  secs    : List Nat
  regions : List Nat
  recs    : List (Option (Bool × Nat))
  priv    : Nat
  shared  : Nat
  deriving DecidableEq, Repr

def roundUp (n a : Nat) : Nat := if a = 0 then n else (n + a - 1) / a * a

/-- The record's unit is shared; none for a record that is not placed. A queue's place stands in its BASE word of the file:
0 private, 1 shared (log 18). -/
def Dof.recShared (d : Dof) (r : DofRecord) : Option Bool :=
  match r.type with
  | 2 => some false
  | 3 => some true
  | 4 => some true
  | 5 => some (d.body r 0 8 == 1)
  | _ => none

/-- Bytes that a placed record takes. -/
def Dof.recBytes (d : Dof) (r : DofRecord) : Nat :=
  match r.type with
  | 4 => 128
  | 5 => let g := wordOf (d.body r 8 8); 64 + 8 * fld g 0 32 * fld g 32 16
  | _ => 64

/-- Places records of one TYPE and unit after a position. -/
def Dof.placeRecs (d : Dof) (type : Nat) (shared : Bool) (cur : Nat) (recs : List (DofRecord × Option (Bool × Nat))) :
    Nat × List (DofRecord × Option (Bool × Nat)) :=
  recs.foldl (fun (acc : Nat × List (DofRecord × Option (Bool × Nat))) p =>
    if p.1.type = type ∧ d.recShared p.1 = some shared then
      let o := roundUp acc.1 64
      (o + d.recBytes p.1, acc.2 ++ [(p.1, some (shared, o))])
    else (acc.1, acc.2 ++ [p])) (cur, [])

/-- The layout that every target core and every cluster that holds one receives (R94, R95). TCBs of different owners share
one sequence of offsets (DESIGN CHOICE, log 18: packing them owner by owner would keep R95 as well). -/
def Dof.layout (d : Dof) : Layout :=
  let s0 := d.secs.foldl (fun (a : List Nat × Nat × Nat) s =>
    match s.kind with
    | 4 => (a.1 ++ [s.va], a.2)
    | k =>
      if k % 2 = 0 then (let o := roundUp a.2.1 s.align; (a.1 ++ [o], o + s.size, a.2.2))
      else (let o := roundUp a.2.2 s.align; (a.1 ++ [o], a.2.1, o + s.size))) ([], 0, 0)
  let r0 := d.regions.foldl (fun (a : List Nat × Nat × Nat) r =>
    if r.shared then (let o := roundUp a.2.2 r.align; (a.1 ++ [o], a.2.1, o + r.size))
    else (let o := roundUp a.2.1 r.align; (a.1 ++ [o], o + r.size, a.2.2))) ([], s0.2)
  let p := d.placeRecs 2 false r0.2.1 (d.recs.map fun r => (r, none))
  let p := d.placeRecs 5 false p.1 p.2
  let q := d.placeRecs 5 true r0.2.2 p.2
  let q := d.placeRecs 4 true q.1 q.2
  let q := d.placeRecs 3 true q.1 q.2
  ⟨s0.1, r0.1, q.2.map Prod.snd, p.1, q.1⟩

/-- A local alias of an offset in a unit (R25). -/
def unitVa (shared : Bool) (o : Nat) : Nat := aliasBase + (if shared then 0x200000 else 0) + o

/-! ## Status 5: relocations (R86) -/

/-- The address of a section's byte. -/
def Dof.secVa (d : Dof) (l : Layout) (i o : Nat) : Option Nat :=
  (d.secs[i]?).map fun s => if s.kind = 4 then s.va + o else unitVa (s.kind % 2 == 1) (l.secs.getD i 0 + o)

/-- The address of a symbol; none where it has none. A tile's names the skewed view (R77). The VALUE of a constant is read
unsigned (DESIGN CHOICE, log 18). -/
def Dof.symVa (d : Dof) (l : Layout) (i : Nat) : Option Nat :=
  match d.syms[i]? with
  | none => none
  | some y =>
    if y.kind = 5 then
      match findIdx (fun (r : DofRecord) => decide (r.pos = y.value)) d.recs 0 with
      | some (j, _) => ((l.recs.getD j none).map fun p => unitVa p.1 p.2)
      | none => none
    else if y.sec = 0xFFFF then some y.value
    else if y.sec = 0xFFFE then
      (d.regions[y.value]?).map fun r =>
        unitVa r.shared (l.regions.getD y.value 0) + if r.tile then (if r.shared then 0x200000 else 0x100000) else 0
    else d.secVa l y.sec y.value

/-- The range of an immediate of 13 bits, by the OP of the instruction in place. -/
def immRange (op : Nat) : Int × Int :=
  if op = 0x21 ∨ op = 0xDC then (0, 8191)
  else if op = 0x1C ∨ op = 0x1D ∨ op = 0x1E then (0, 63)
  else if op = 0xC3 then (1, 4096)
  else if 0xD0 ≤ op ∧ op ≤ 0xD4 then (0, 4095)
  else if op = 0xDE then (0, 3)
  else (-4096, 4095)

/-- A field of `n` low bits of an instruction word replaced. -/
def Bytes.patchLow (f : Bytes) (o n : Nat) (v : Int) : Bytes :=
  let w := f.nat o 4
  f.patch o (w / 2 ^ n * 2 ^ n + (v % (2 ^ n : Nat)).toNat) 4

/-- A relocation applied to its section's bytes, or to the launch table; none where it fails. A V of `abs64` fits its word
signed or unsigned (DESIGN CHOICE, log 18). -/
def Dof.relocate (d : Dof) (l : Layout) (r : DofReloc) (data : Bytes) : Option Bytes :=
  match d.symVa l r.sym with
  | none => none
  | some a =>
    let v : Int := (a : Int) + r.add
    if r.type = 1 then
      if r.loc + 8 ≤ data.size ∧ -(2 ^ 63 : Nat) ≤ v ∧ v < (2 ^ 64 : Nat) then some (data.patch r.loc (v % (2 ^ 64 : Nat)).toNat 8) else none
    else if r.sec = 0xFFFF ∨ data.size < r.loc + 4 then none
    else if r.type = 2 ∨ r.type = 3 then
      match (d.heads r.sec).find? fun b => decide (b ≤ r.loc) && decide (r.loc < blockEndAt data b), d.secVa l r.sec 0 with
      | some b, some base =>
        let n := if r.type = 2 then 24 else 9
        let k := v - ((base + b : Nat) : Int)
        if k % 8 = 0 ∧ -(2 ^ (n - 1) : Nat) ≤ k / 8 ∧ k / 8 < (2 ^ (n - 1) : Nat) then some (data.patchLow r.loc n (k / 8)) else none
      | _, _ => none
    else if r.type = 4 then
      if -262144 ≤ v ∧ v ≤ 262143 then some (data.patchLow r.loc 19 v) else none
    else if r.type = 5 then
      let lim := immRange (data.nat (r.loc + 3) 1)
      if lim.1 ≤ v ∧ v ≤ lim.2 then some (data.patchLow r.loc 13 v) else none
    else none

/-- Every relocation applied in order: the sections' bytes and the launch table; none where one fails. -/
def Dof.relocated (d : Dof) (l : Layout) : Option (List Bytes × Bytes) :=
  d.relocs.foldl (fun acc r => acc.bind fun p =>
    if r.sec = 0xFFFF then (d.relocate l r p.2).map fun lt => (p.1, lt)
    else match p.1[r.sec]? with
      | some data => (d.relocate l r data).map fun x => (setNth p.1 r.sec x, p.2)
      | none => none) (some (d.secs.map d.data, d.launch))

/-! ## Status 6 and status 7 -/

/-- The cores of a partition that are enabled. -/
def State.enabledCores (s : State) (p : Nat) : List Nat := (s.partCores p).filter s.coreLive

/-- The section's pages are mapped writable in the user space of a core. -/
def State.mappedW (s : State) (core : Nat) (sec : DofSection) : Bool :=
  (List.range ((sec.va % 4096 + sec.size + 4095) / 4096)).all fun i =>
    match (s.translateNow core false (wordOf (sec.va / 4096 * 4096 + 4096 * i)) .w).1 with
    | .ok _ => true
    | _ => false

/-- A record is malformed (R89–R91, R344). -/
def Dof.badRecord (d : Dof) (l : Layout) (r : DofRecord) : Bool :=
  let w := fun o n => d.body r o n
  match r.type with
  | 1 =>
    let tcb := (d.recs.zip l.recs).any fun p => p.1.type == 2 && (match p.2 with
      | some q => w 8 8 == unitVa q.1 q.2
      | none => false)
    r.size != 64 || decide (63 < w 2 1) || w 3 1 / 32 != 0 || decide (3 < w 4 1) || w 5 3 != 0 || (w 4 1 == 2 && !tcb)
  | 2 => r.size != 72 || fld (wordOf (w 8 8)) 27 27 == 0
  | 3 => r.size != 72
  | 4 => r.size != 136
  | 5 => r.size != 72
  | 6 =>
    let n := w 2 2
    decide (n < 2) || decide (64 < n) || w 4 4 != 0 || r.size != 8 + 8 + (2 * n + 7) / 8 * 8 ||
      (decide (4095 < w 0 2) && w 0 2 != 0xFFFF)
  | 7 => r.size != 24 || decide (23 < w 0 2) || w 2 6 != 0
  | _ => true

/-- A multicast group is in use: some router holds a valid entry of it. -/
def State.groupUsed (s : State) (g : Nat) : Bool := s.routers.any fun kr => mcgValid (s.mcgEntry kr.1 2 g)

/-- The number of each group record, the loader's choice being the lowest that is free; none where one is in use. -/
def State.groupNumbers (s : State) (d : Dof) : List DofRecord → List Nat → Option (List Nat)
  | [], _ => some []
  | r :: rs, used =>
    if r.type ≠ 6 then State.groupNumbers s d rs used
    else
      let g := d.body r 0 2
      let taken := fun g => s.groupUsed g || used.contains g
      match (if g = 0xFFFF then (List.range 4096).find? fun g => !taken g else if taken g then none else some g) with
      | some g => (State.groupNumbers s d rs (g :: used)).map fun gs => g :: gs
      | none => none

/-! ## The injection list (R341, R403, R417) -/

/-- What a load is to arm: TCBs, and HBM lines by stack. -/
structure Injects where
  tcbs  : List Nat
  lines : List (Nat × Nat)
  deriving DecidableEq, Repr

/-- The TCB that an entry names: a record, or a TCB laid out as data in `pdata`. `owner` gives a record's core. -/
def Dof.injectTcb (d : Dof) (l : Layout) (datas : List Bytes) (owner : Nat → Nat) (y : DofSymbol) : Option Nat :=
  if y.kind = 5 then
    match findIdx (fun (r : DofRecord) => decide (r.pos = y.value) && r.type == 2) d.recs 0 with
    | some (j, _) => ((l.recs.getD j none).map fun p => privBase (owner j) + p.2)
    | none => none
  else match d.secs[y.sec]? with
    | some s =>
      if s.kind = 2 ∧ y.value % 64 = 0 ∧ y.value + 64 ≤ s.size then
        let c := fld (wordOf ((datas.getD y.sec #[]).nat (y.value + 56) 8)) 34 14
        some (privBase c + l.secs.getD y.sec 0 + y.value)
      else none
    | none => none

/-- The entries of a list; none where one refuses the load. -/
def State.readInjects (s : State) (d : Dof) (l : Layout) (datas : List Bytes) (owner : Nat → Nat) (t0 : Nat) :
    List (Word × Word) → Option Injects
  | [] => some ⟨[], []⟩
  | (w0, w1) :: rest =>
    match s.readInjects d l datas owner t0 rest with
    | none => none
    | some r =>
      match d.syms[fld w0 32 32]? with
      | none => none
      | some y =>
        match fld w0 0 8 with
        | 0 => if w1 ≠ 0 then none else (d.injectTcb l datas owner y).map fun k => { r with tcbs := k :: r.tcbs }
        | 1 =>
          if w1.toNat % 64 ≠ 0 ∨ ((d.secs[y.sec]?).map fun x => x.kind) ≠ some 4 then none
          else match (s.translateNow t0 false (wordOf (((d.secVa l y.sec y.value).getD 0) + w1.toNat)) .r).1 with
            | .ok x => match x.place with
              | .hbm k => if r.lines.any fun p => p.1 == stackOf k then none else some { r with lines := (stackOf k, k) :: r.lines }
              | _ => none
            | _ => none
        | _ => none

/-! ## Placement (R94–R96) -/

/-- A word with its tag, as the loader writes it. -/
def State.loadWord (s : State) (k : Nat) (v : Word) (t : BitVec 2) : State := ((s.write k 8 v).setTag k t).changed k

/-- Bytes written from a scratchpad address on, zero-padded to words; offsets of arrival words receive tag 10. -/
def State.loadBytes (s : State) (k : Nat) (data : Bytes) (t : BitVec 2) (arrivals : List Nat) : State :=
  (List.range ((data.size + 7) / 8)).foldl (fun s i =>
    s.loadWord (k + 8 * i) (wordOf (data.nat (8 * i) 8)) (if arrivals.contains (8 * i) then tagArrival else t)) s

/-- Bytes of an `hbm` section written through the user space of a core. -/
def State.loadHbm (s : State) (core : Nat) (va : Nat) (data : Bytes) : State :=
  (List.range data.size).foldl (fun s i =>
    match s.translateNow core false (wordOf (va + i)) .w with
    | (.ok x, s) => match s.homeStore 0x3FFF x.place 1 (wordOf (data.nat i 1)) false with
      | .ok s => s
      | .error _ => s
    | (_, s) => s) s

/-- The unit of every target core, or of every cluster that holds one. -/
def unitBases (targets : List Nat) (shared : Bool) : List Nat :=
  if shared then ((targets.map clusterOf).foldl (fun l c => insertOnce c l) []).map sharedBase else targets.map privBase

/-- A section placed; one in HBM through the user space of core `t0`. -/
def State.loadSection (s : State) (d : Dof) (l : Layout) (targets : List Nat) (t0 i : Nat) (data : Bytes) : State :=
  match d.secs[i]? with
  | none => s
  | some sec =>
    if sec.kind = 4 then s.loadHbm t0 sec.va data
    else
      let arr := (d.syms.filter fun y => y.sec == i && y.kind == 4).map fun y => y.value
      (unitBases targets (sec.kind % 2 == 1)).foldl (fun (s : State) b => s.loadBytes (b + l.secs.getD i 0) data tagFull arr) s

/-- The words of a record's body, after relocation. -/
def recWords (lt : Bytes) (r : DofRecord) (n : Nat) : List Word := (List.range n).map fun i => wordOf (lt.nat (r.pos + 8 + 8 * i) 8)

/-- A descriptor record placed (R95, R96). `cs` are its cores. -/
def State.loadRecord (s : State) (lt : Bytes) (targets : List Nat) (r : DofRecord) (at? : Option (Bool × Nat)) (cs : List Nat) :
    State :=
  match at? with
  | none => s
  | some (shared, o) =>
    let put := fun (s : State) (b : Nat) (ws : List Word) (arr : List Nat) =>
      (ws.zipIdx).foldl (fun (s : State) p =>
        s.loadWord (b + o + 8 * p.2) p.1 (if arr.contains p.2 then tagArrival else tagFull)) s
    match r.type with
    | 2 =>
      let ws := recWords lt r 8
      let dep := wordOf (fld (ws.getD 1 0) 27 27 * 2 ^ 27 + 2 * 2 ^ 62)
      let ctl := setFld (setFld (ws.getD 7 0) 34 14 (cs.headD 0)) 48 2 0
      put s (privBase (cs.headD 0)) (setNth (setNth ws 1 dep) 7 ctl) [1]
    | 4 =>
      let ws := recWords lt r 16
      put s (sharedBase (clusterOf (cs.headD 0))) (setNth ws 8 (setFld (ws.getD 8 0) 0 14 (cs.headD 0))) []
    | 5 =>
      let ws := setNth (recWords lt r 8) 0 (wordOf (unitVa shared (o + 64)))
      let slots := fld (ws.getD 1 0) 0 32 * fld (ws.getD 1 0) 32 16
      (unitBases targets shared).foldl (fun (s : State) b =>
        (List.range slots).foldl (fun (s : State) i => s.loadWord (b + o + 64 + 8 * i) 0 tagEmpty) (put s b ws [])) s
    | _ => (unitBases targets shared).foldl (fun (s : State) b => put s b (recWords lt r 8) []) s

/-- The link that a route takes from a cluster towards another: columns first, or rows first (R299). -/
def routeLink (yx : Bool) (cl dst : Nat) : Option Nat :=
  let x := if meshX cl < meshX dst then some 1 else if meshX dst < meshX cl then some 3 else none
  let y := if meshY cl < meshY dst then some 2 else if meshY dst < meshY cl then some 0 else none
  if yx then y <|> x else x <|> y

/-- Routers on the route from a cluster to another, each with the link taken from it. -/
def routeTo (yx : Bool) : Nat → Nat → Nat → List (Nat × Nat)
  | 0, _, _ => []
  | n + 1, cl, dst =>
    match routeLink yx cl dst with
    | some i => match linkTo cl i with
      | some next => (cl, i) :: routeTo yx n next dst
      | none => []
    | none => []

/-- The tables of a multicast group loaded (R91, R300): a tree from the first member's cluster, along the routes that the
ORDER of class 0 gives in its router (DESIGN CHOICE, log 18: a group is not bound to one class). Every router gets its entry,
those off the tree too: any core may send to the group. -/
def State.loadGroup (s : State) (g : Nat) (cores : List Nat) : State :=
  let root := clusterOf (cores.headD 0)
  let yx := bit (SMap.get 0 (s.router root).regs (routerKey 2 0)) 0
  let legs := (cores.map fun c => routeTo yx 64 root (clusterOf c)).flatten
  ((List.range 768).map clusterOfIndex).foldl (fun (s : State) cl =>
    let links := (legs.filter fun p => p.1 == cl).map Prod.snd
    let egress := (List.range 4).foldl (fun m i => if links.contains i then m + 2 ^ i else m) 0
    let loc := (List.range 16).foldl (fun m i => if cores.contains (cl * 16 + i) then m + 2 ^ i else m) 0
    let w := wordOf (egress + loc * 2 ^ 4 + 2 ^ 20 + (if cl = root then 2 ^ 21 else 0) + root * 2 ^ 22)
    [0, 2].foldl (fun (s : State) plane => s.updRouter cl fun r =>
      { r with regs := SMap.set 0 r.regs (routerKey plane (0x10000 + 8 * g)) w }) s) s

/-- A line's queued writes reach their bank, and its stack's injection is armed (R403). -/
def State.armLine (s : State) (k : Nat) : State :=
  (State.drainLine k 64 s).updStack (stackOf k) fun st => st.writeEinj (wordOf (k % 2 ^ 52 / 64 * 64 + 1))

/-! ## Start (R90, R96) -/

/-- The launch descriptor of an initial activation record (R90). -/
def startWords (lt : Bytes) (r : DofRecord) (core : Nat) : List Word :=
  let w := recWords lt r 7
  let kind := fld (w.getD 0 0) 32 8
  let pol := fld (w.getD 0 0) 24 8
  let k := match kind with | 0 => 0 | 1 => 1 | 2 => 2 | _ => 4
  let w0 := wordOf (k + fld (w.getD 0 0) 16 6 * 2 ^ 3 + pol % 4 * 2 ^ 9 + pol / 4 % 8 * 2 ^ 11 + if kind = 0 then core * 2 ^ 16 else 0)
  let args := if kind = 2 then [1, 0, 0, 0] else (List.range 4).map fun i => w.getD (2 + i) 0
  [w0, w.getD 1 0] ++ args ++ [0, 0]

/-- ARGS of a record of KIND 2 become h0–h3 of the TCB that it names (R90, R312; DEDUCED, log 18). -/
def State.giveArgs (s : State) (lt : Bytes) (r : DofRecord) (issuer : Nat) : State :=
  let w := recWords lt r 7
  if fld (w.getD 0 0) 32 8 ≠ 2 then s
  else match (s.resolve issuer false (w.getD 1 0) 64 .w).1 with
    | .ok pa => s.putPhys (pa + 16) ((List.range 4).map fun i => w.getD (2 + i) 0)
    | .error _ => s

/-- A launch in its engine goes as far as it can at once; one behind it waits (R15, R336). -/
def State.pushOn (s : State) (key : Nat) : State :=
  match s.launch? key with
  | some l => if (s.die l.home).engine.contains key then (s.engineStep l.home key).getD s else s
  | none => s

/-- Initial activation records started in order: the launches' keys. Each record comes with its core and with the core
whose aliases its launch names. -/
def State.startRecords (lt : Bytes) (part : Nat) : List (DofRecord × Nat × Nat) → State → List Nat × State
  | [], s => ([], s)
  | (r, core, issuer) :: rest, s =>
    let s := s.giveArgs lt r issuer
    let (key, s) := s.enterLaunch (startWords lt r core) ((recWords lt r 7).getD 6 0) issuer false part (dieOf core) none
    let (ks, s) := State.startRecords lt part rest ((s.pushOn key).pushOn key)
    (key :: ks, s)

/-- The core for which the launch of a record resolves local aliases: the owner of the TCB, or the first core of the stage,
whose loaded copy TARGET names; else the record's core (R90, R95, R324; log 18). -/
def issuerOf (lt : Bytes) (recs : List (DofRecord × Option (Bool × Nat) × List Nat)) (r : DofRecord) (core : Nat) : Nat :=
  let w := recWords lt r 2
  let type := match fld (w.getD 0 0) 32 8 with
    | 2 => 2
    | 3 => 4
    | _ => 0
  match recs.find? fun p => p.1.type == type && p.2.1.any fun q => (w.getD 1 0).toNat == unitVa q.1 q.2 with
  | some p => p.2.2.headD core
  | none => core

/-- The release arrivals of TCBs that no record names (R96). -/
def State.releaseRest (s : State) (key : Nat) (stamp : Word) (tcbs : List Nat) : State :=
  tcbs.foldl (fun (s : State) k => (s.memberJoins key).releaseTask key stamp k) s

/-- The file placed and started; the launch id word of its first record, or 0. -/
def State.loadFile (s : State) (d : Dof) (l : Layout) (datas : List Bytes) (lt : Bytes) (cores : List (List Nat))
    (targets groups : List Nat) (part t0 : Nat) (inj : Injects) : Word × State :=
  let s := (datas.zipIdx).foldl (fun (s : State) p => s.loadSection d l targets t0 p.2 p.1) s
  let s := (d.regions.zip l.regions).foldl (fun (s : State) p =>
    (unitBases targets p.1.shared).foldl (fun (s : State) b =>
      s.loadBytes (b + p.2) (Array.replicate p.1.size 0) (if p.1.full then tagFull else tagEmpty) []) s) s
  let recs := d.recs.zip (l.recs.zip cores)
  let s := recs.foldl (fun (s : State) p => s.loadRecord lt targets p.1 p.2.1 p.2.2) s
  let s := (((recs.filter fun p => p.1.type == 6).map fun p => p.2.2).zip groups).foldl (fun (s : State) p => s.loadGroup p.2 p.1) s
  let s := (recs.filter fun p => p.1.type == 7).foldl (fun (s : State) p =>
    targets.foldl (fun (s : State) c => s.updCore c fun k => { k with
      clsh := vset k.clsh (lt.nat (p.1.pos + 8) 2)
        (hdrField (wordOf (lt.nat (p.1.pos + 16) 8)) ||| 0x0200000000000001#64) }) s) s
  let s := inj.lines.foldl (fun (s : State) p => s.armLine p.2) s
  let starts := (recs.filter fun p => p.1.type == 1).map fun p =>
    let core := p.2.2.headD 0
    (p.1, core, issuerOf lt recs p.1 core)
  let (keys, s) := State.startRecords lt part starts s
  let s := { s with injects := inj.tcbs.foldl (fun m k => SMap.put m k keys) s.injects }
  match keys, (d.recs.filter fun r => r.type == 1) with
  | key :: _, first :: _ =>
    let named := (d.recs.filter fun r => r.type == 1 && d.body r 4 1 == 2).map fun r => lt.nat (r.pos + 16) 8
    let rest := (recs.filter fun p => p.1.type == 2).filterMap fun p => match p.2.1 with
      | some q => if named.contains (unitVa q.1 q.2) then none else some (privBase (p.2.2.headD 0) + q.2)
      | none => none
    let s := s.releaseRest key ((recWords lt first 7).getD 6 0) rest
    (match s.launch? key with | some x => x.idWord | none => 0, s)
  | _, _ => (0, s)

/-- LOAD: the checks of R93 in their order, then placement and start. -/
def State.loadDof (a : Ask) (s : State) : Did :=
  let p := a.part
  if !s.askedExists a then .refuse 18
  else if a.arg 2 ≠ 0 ∧ (a.arg 3).toNat % 16 ≠ 0 then .refuse 18
  else match s.askBytes a (a.arg 0) (a.arg 1).toNat, (if a.arg 2 = 0 then some [] else s.askBytes a (a.arg 2) (a.arg 3).toNat) with
    | some bs, some ls =>
      let d := readDof bs.toArray
      if d.badHeader then .refuse 1
      else if d.badSignature then .refuse 2
      else if d.badExtents then .refuse 3
      else if d.badBlocks then .refuse 4
      else
        let enabled := s.enabledCores p
        let (cores, s) := State.chooseCores d enabled d.recs s
        let targets := cores.flatten.foldl (fun l c => insertOnce c l) []
        let l := d.layout
        match d.relocated l with
        | none => .refuse 5
        | some (datas, lt) =>
          let t0 := targets.headD (enabled.headD 0)
          if 0x20000 < l.priv ∨ 0x200000 < l.shared ∨ targets.any (fun c => !enabled.contains c) ∨
              d.secs.any (fun x => x.kind == 4 && !s.mappedW t0 x) then .refuse 6
          else
            let moved := { d with launch := lt }
            let prio := d.recs.any fun r => r.type == 1 && decide ((s.part p).pceil < d.body r 2 1)
            let bound := 16 * (if d.ymax = 0 then d.maxYield else d.ymax)
            let list := (List.range (ls.length / 16)).map fun i =>
              (wordOf (bytesNat ((ls.drop (16 * i)).take 8)), wordOf (bytesNat ((ls.drop (16 * i + 8)).take 8)))
            if !d.recsOk || d.recs.any (moved.badRecord l) || prio ||
                targets.any (fun c => decide ((s.core c).ybud.toNat < bound)) then .refuse 7
            else match s.groupNumbers d d.recs [], s.readInjects d l datas (fun j => (cores.getD j []).headD 0) t0 list with
              | some groups, some inj =>
                let (id, s) := s.loadFile d l datas lt cores targets groups p t0 inj
                .done [id] { s with kiosk := { s.kiosk with
                  keyIds := s.kiosk.keyIds ++ [(d.file.slice d.sigAt 32).toList] } }
              | _, _ => .refuse 7
    | _, _ => .refuse 18

def execMbLoad (mb : Nat) (s : State) : Out := s.serve mb (· == 0x0010) State.loadDof

/-! ## Management messages (R418) -/

/-- A request by its OPCODE. -/
def State.perform (op : Nat) (a : Ask) (s : State) : Did :=
  if s.kiosk.stage < stageOf op then .refuse 16
  else match op with
    | 0x0001 => s.query a
    | 0x0010 => s.loadDof a
    | 0x0020 => s.mailLaunch a
    | 0x0030 => s.partCreate a
    | 0x0031 => s.partResize a
    | 0x0032 => s.partDestroy a
    | 0x0040 => s.attest a
    | 0x0050 => s.eventRead a
    | 0x0051 => s.routeEvents a
    | _ => .refuse 19

/-- MANAGEMENT_REQUEST: the oldest class 31 message to the kiosk, of kind 0x20; any other kind is answered with STATUS 19.
The answer carries the request's whole TAG. -/
def execManagementRequest (s : State) : Out :=
  match s.kiosk.requests with
  | [] => .next s
  | (src, m) :: rest =>
    let gone := fun (s : State) => { s with kiosk := { s.kiosk with requests := rest } }
    let cmd := m.payload.getD 0 0
    let answer := fun (s : State) (st : Nat) (res : List Word) =>
      (gone s).kioskSends src m.tag (answerWord st cmd :: (List.range 7).map fun i => res.getD i 0)
    if m.tag.toNat % 256 ≠ 0x20 then .next (answer s 19 [])
    else
      let a : Ask := ⟨32 + (s.core src).pid.toNat, src, (List.range 7).map fun i => m.payload.getD (i + 1) 0⟩
      match s.perform (fld cmd 0 16) a with
      | .wait s => .next s
      | .refuse st => .next (answer s st [])
      | .done res s => .next (answer s 0 res)

end Sys2Proof.Machine
end

