-- ==== Sys2Proof/Machine/Dispatch.lean ====
section
/-! DEFINITION. What each step means: one arm per constructor of `Instr`. -/

namespace Sys2Proof.Machine

def exec (i : Instr) (s : State) : Host.Outcome State Fault Refusal :=
  match i with
  | .add a b d w => Sys2Proof.Machine.execAdd a b d w s
  | .sub a b d w => Sys2Proof.Machine.execSub a b d w s
  | .and a b d w => Sys2Proof.Machine.execAnd a b d w s
  | .or a b d w => Sys2Proof.Machine.execOr a b d w s
  | .xor a b d w => Sys2Proof.Machine.execXor a b d w s
  | .andn a b d w => Sys2Proof.Machine.execAndn a b d w s
  | .sll a b d w => Sys2Proof.Machine.execSll a b d w s
  | .srl a b d w => Sys2Proof.Machine.execSrl a b d w s
  | .sra a b d w => Sys2Proof.Machine.execSra a b d w s
  | .rol a b d w => Sys2Proof.Machine.execRol a b d w s
  | .min a b d w => Sys2Proof.Machine.execMin a b d w s
  | .max a b d w => Sys2Proof.Machine.execMax a b d w s
  | .minu a b d w => Sys2Proof.Machine.execMinu a b d w s
  | .maxu a b d w => Sys2Proof.Machine.execMaxu a b d w s
  | .slt a b d w => Sys2Proof.Machine.execSlt a b d w s
  | .sltu a b d w => Sys2Proof.Machine.execSltu a b d w s
  | .mul a b d w => Sys2Proof.Machine.execMul a b d w s
  | .mulh a b d w => Sys2Proof.Machine.execMulh a b d w s
  | .mulhu a b d w => Sys2Proof.Machine.execMulhu a b d w s
  | .div a b d w => Sys2Proof.Machine.execDiv a b d w s
  | .divu a b d w => Sys2Proof.Machine.execDivu a b d w s
  | .rem a b d w => Sys2Proof.Machine.execRem a b d w s
  | .remu a b d w => Sys2Proof.Machine.execRemu a b d w s
  | .bitc a d o w => Sys2Proof.Machine.execBitc a d o w s
  | .addi a d imm => Sys2Proof.Machine.execAddi a d imm s
  | .andi a d imm => Sys2Proof.Machine.execAndi a d imm s
  | .ori a d imm => Sys2Proof.Machine.execOri a d imm s
  | .xori a d imm => Sys2Proof.Machine.execXori a d imm s
  | .slli a d imm => Sys2Proof.Machine.execSlli a d imm s
  | .srli a d imm => Sys2Proof.Machine.execSrli a d imm s
  | .srai a d imm => Sys2Proof.Machine.execSrai a d imm s
  | .slti a d imm => Sys2Proof.Machine.execSlti a d imm s
  | .ldk d imm => Sys2Proof.Machine.execLdk d imm s
  | .ldkx a d imm => Sys2Proof.Machine.execLdkx a d imm s
  | .extf a d w z => Sys2Proof.Machine.execExtf a d w z s
  | .ins a b d w => Sys2Proof.Machine.execIns a b d w s
  | .bfx a b d w z => Sys2Proof.Machine.execBfx a b d w z s
  | .sel a b d c => Sys2Proof.Machine.execSel a b d c s
  | .keep a d p => Sys2Proof.Machine.execKeep a d p s
  | .seq a b d w => Sys2Proof.Machine.execSeq a b d w s
  | .sne a b d w => Sys2Proof.Machine.execSne a b d w s
  | .addc a b d c w => Sys2Proof.Machine.execAddc a b d c w s
  | .subc a b d c w => Sys2Proof.Machine.execSubc a b d c w s
  | .clamp a b d c u => Sys2Proof.Machine.execClamp a b d c u s
  | .br a b n o => Sys2Proof.Machine.execBr a b n o s
  | .jmp o => Sys2Proof.Machine.execJmp o s
  | .call o => Sys2Proof.Machine.execCall o s
  | .jr a => Sys2Proof.Machine.execJr a s
  | .callr a => Sys2Proof.Machine.execCallr a s
  | .loop a o => Sys2Proof.Machine.execLoop a o s
  | .loopi n o => Sys2Proof.Machine.execLoopi n o s
  | .brk o => Sys2Proof.Machine.execBrk o s
  | .fadd a b d f r fs => Sys2Proof.Machine.execFadd a b d f r fs s
  | .fsub a b d f r fs => Sys2Proof.Machine.execFsub a b d f r fs s
  | .fmul a b d f r fs => Sys2Proof.Machine.execFmul a b d f r fs s
  | .fma a b d f r fs => Sys2Proof.Machine.execFma a b d f r fs s
  | .fdiv a b d f r fs => Sys2Proof.Machine.execFdiv a b d f r fs s
  | .fsqrt a d f r fs => Sys2Proof.Machine.execFsqrt a d f r fs s
  | .fmin a b d f => Sys2Proof.Machine.execFmin a b d f s
  | .fmax a b d f => Sys2Proof.Machine.execFmax a b d f s
  | .fsgn a b d f o => Sys2Proof.Machine.execFsgn a b d f o s
  | .fhsum a b d f r fs => Sys2Proof.Machine.execFhsum a b d f r fs s
  | .pdot a b d c u fs => Sys2Proof.Machine.execPdot a b d c u fs s
  | .fscl a b d f r fs => Sys2Proof.Machine.execFscl a b d f r fs s
  | .frcp a d f r fs => Sys2Proof.Machine.execFrcp a d f r fs s
  | .frsq a d f r fs => Sys2Proof.Machine.execFrsq a d f r fs s
  | .fexp2 a d f r fs => Sys2Proof.Machine.execFexp2 a d f r fs s
  | .fround a d f r => Sys2Proof.Machine.execFround a d f r s
  | .fcmp a b d f p => Sys2Proof.Machine.execFcmp a b d f p s
  | .fclass a d f => Sys2Proof.Machine.execFclass a d f s
  | .cvt a p fs d f r t q => Sys2Proof.Machine.execCvt a p fs d f r t q s
  | .cvti a u d f r => Sys2Proof.Machine.execCvti a u d f r s
  | .cvtf a u d f r => Sys2Proof.Machine.execCvtf a u d f r s
  | .cvtx a p k d => Sys2Proof.Machine.execCvtx a p k d s
  | .pperm a b d c => Sys2Proof.Machine.execPperm a b d c s
  | .ppack a b d f r fs x => Sys2Proof.Machine.execPpack a b d f r fs x s
  | .punpk a d f x h => Sys2Proof.Machine.execPunpk a d f x h s
  | .wsadd a b d => Sys2Proof.Machine.execWsadd a b d s
  | .wsscl a b d fs => Sys2Proof.Machine.execWsscl a b d fs s
  | .wsrnd a b d f r fs t => Sys2Proof.Machine.execWsrnd a b d f r fs t s
  | .pint a b d w u fs o => Sys2Proof.Machine.execPint a b d w u fs o s
  | .pdoti a b d y x w => Sys2Proof.Machine.execPdoti a b d y x w s
  | .ld a d z t o => Sys2Proof.Machine.execLd a d z t o s
  | .st a b z t o => Sys2Proof.Machine.execSt a b z t o s
  | .ldp a d t o => Sys2Proof.Machine.execLdp a d t o s
  | .stp a b t o => Sys2Proof.Machine.execStp a b t o s
  | .tagr a d o => Sys2Proof.Machine.execTagr a d o s
  | .tagw a b o => Sys2Proof.Machine.execTagw a b o s
  | .touch a z o => Sys2Proof.Machine.execTouch a z o s
  | .ldm a d z t o => Sys2Proof.Machine.execLdm a d z t o s
  | .stm a b z t o => Sys2Proof.Machine.execStm a b z t o s
  | .amo a b p z fs q => Sys2Proof.Machine.execAmo a b p z fs q s
  | .amor a b d p z fs q => Sys2Proof.Machine.execAmor a b d p z fs q s
  | .amod a b p z fs q => Sys2Proof.Machine.execAmod a b p z fs q s
  | .cas a b d z fs x q => Sys2Proof.Machine.execCas a b d z fs x q s
  | .putsig a b c => Sys2Proof.Machine.execPutsig a b c s
  | .putsig2 a b c => Sys2Proof.Machine.execPutsig2 a b c s
  | .arm a b => Sys2Proof.Machine.execArm a b s
  | .waitg a b d l => Sys2Proof.Machine.execWaitg a b d l s
  | .waitm a b d l => Sys2Proof.Machine.execWaitm a b d l s
  | .waitc l fs c t => Sys2Proof.Machine.execWaitc l fs c t s
  | .waitt a b d l => Sys2Proof.Machine.execWaitt a b d l s
  | .bar a l => Sys2Proof.Machine.execBar a l s
  | .barg a l => Sys2Proof.Machine.execBarg a l s
  | .sig a b => Sys2Proof.Machine.execSig a b s
  | .qres a d l => Sys2Proof.Machine.execQres a d l s
  | .qpub a => Sys2Proof.Machine.execQpub a s
  | .qpop a d l => Sys2Proof.Machine.execQpop a d l s
  | .qrel a => Sys2Proof.Machine.execQrel a s
  | .qpush a b d l => Sys2Proof.Machine.execQpush a b d l s
  | .qinfo a d => Sys2Proof.Machine.execQinfo a d s
  | .qclose a => Sys2Proof.Machine.execQclose a s
  | .tmm a b d imm c => Sys2Proof.Machine.execTmm a b d imm c s
  | .tzero b d c => Sys2Proof.Machine.execTzero b d c s
  | .tst a b d c => Sys2Proof.Machine.execTst a b d c s
  | .tred a b d c => Sys2Proof.Machine.execTred a b d c s
  | .tws a b d c => Sys2Proof.Machine.execTws a b d c s
  | .twsl a b d c => Sys2Proof.Machine.execTwsl a b d c s
  | .tcfg a b => Sys2Proof.Machine.execTcfg a b s
  | .tcmd a d => Sys2Proof.Machine.execTcmd a d s
  | .tld a b d c => Sys2Proof.Machine.execTld a b d c s
  | .tacc a b d c => Sys2Proof.Machine.execTacc a b d c s
  | .ecmd a b d => Sys2Proof.Machine.execEcmd a b d s
  | .chain a d => Sys2Proof.Machine.execChain a d s
  | .cstat a b d => Sys2Proof.Machine.execCstat a b d s
  | .ccan d => Sys2Proof.Machine.execCcan d s
  | .send a b => Sys2Proof.Machine.execSend a b s
  | .sendb a b => Sys2Proof.Machine.execSendb a b s
  | .sendi a b => Sys2Proof.Machine.execSendi a b s
  | .cmask a d => Sys2Proof.Machine.execCmask a d s
  | .cunm a d => Sys2Proof.Machine.execCunm a d s
  | .rdin a d => Sys2Proof.Machine.execRdin a d s
  | .redn a b => Sys2Proof.Machine.execRedn a b s
  | .sendw a b d l => Sys2Proof.Machine.execSendw a b d l s
  | .spawn a b => Sys2Proof.Machine.execSpawn a b s
  | .take d => Sys2Proof.Machine.execTake d s
  | .yield imm => Sys2Proof.Machine.execYield imm s
  | .launch a d => Sys2Proof.Machine.execLaunch a d s
  | .tready a d => Sys2Proof.Machine.execTready a d s
  | .stagePut a b d => Sys2Proof.Machine.execStagePut a b d s
  | .stageTwin a b d => Sys2Proof.Machine.execStageTwin a b d s
  | .stageMerge a b d => Sys2Proof.Machine.execStageMerge a b d s
  | .stageInfo a d => Sys2Proof.Machine.execStageInfo a d s
  | .stageClose a => Sys2Proof.Machine.execStageClose a s
  | .gid d fs => Sys2Proof.Machine.execGid d fs s
  | .qdie a d l => Sys2Proof.Machine.execQdie a d l s
  | .tcbq d => Sys2Proof.Machine.execTcbq d s
  | .getc d n => Sys2Proof.Machine.execGetc d n s
  | .setc a n => Sys2Proof.Machine.execSetc a n s
  | .swpc a d n => Sys2Proof.Machine.execSwpc a d n s
  | .setcb a d k n => Sys2Proof.Machine.execSetcb a d k n s
  | .sys a n => Sys2Proof.Machine.execSys a n s
  | .resumeTeam a => Sys2Proof.Machine.execResumeTeam a s
  | .tret e => Sys2Proof.Machine.execTret e s
  | .halt a => Sys2Proof.Machine.execHalt a s
  | .xinv a b => Sys2Proof.Machine.execXinv a b s
  | .xprobe a d => Sys2Proof.Machine.execXprobe a d s
  | .stamp a d f => Sys2Proof.Machine.execStamp a d f s
  | .cyc d r => Sys2Proof.Machine.execCyc d r s
  | .ebreak imm => Sys2Proof.Machine.execEbreak imm s
  | .gate m => Sys2Proof.Machine.execGate m s
  | .steal thief => Sys2Proof.Machine.execSteal thief s
  | .dieQueuePop die part => Sys2Proof.Machine.execDieQueuePop die part s
  | .homeAccess acc => Sys2Proof.Machine.execHomeAccess acc s
  | .accessCompletion acc => Sys2Proof.Machine.execAccessCompletion acc s
  | .translationWalk cluster miss => Sys2Proof.Machine.execTranslationWalk cluster miss s
  | .translationInvalidation cluster => Sys2Proof.Machine.execTranslationInvalidation cluster s
  | .quarantineReturn part => Sys2Proof.Machine.execQuarantineReturn part s
  | .followOnDelivery idx => Sys2Proof.Machine.execFollowOnDelivery idx s
  | .chunkCompletion chunk => Sys2Proof.Machine.execChunkCompletion chunk s
  | .ringArbitrationRound cluster => Sys2Proof.Machine.execRingArbitrationRound cluster s
  | .storeBudgetRefill cluster bytes => Sys2Proof.Machine.execStoreBudgetRefill cluster bytes s
  | .messageAccept msg => Sys2Proof.Machine.execMessageAccept msg s
  | .reductionContribution cluster tree => Sys2Proof.Machine.execReductionContribution cluster tree s
  | .flitAgePriority msg => Sys2Proof.Machine.execFlitAgePriority msg s
  | .launchEnqueue die => Sys2Proof.Machine.execLaunchEnqueue die s
  | .memberRetirement launch => Sys2Proof.Machine.execMemberRetirement launch s
  | .completionSignal launch => Sys2Proof.Machine.execCompletionSignal launch s
  | .retirementReport launch group => Sys2Proof.Machine.execRetirementReport launch group s
  | .groupPlacement launch group => Sys2Proof.Machine.execGroupPlacement launch group s
  | .stageOverload stage queue => Sys2Proof.Machine.execStageOverload stage queue s
  | .kioskStageOrder stage merge arg => Sys2Proof.Machine.execKioskStageOrder stage merge arg s
  | .writeWindow stack chan => Sys2Proof.Machine.execWriteWindow stack chan s
  | .rowAlert stack row => Sys2Proof.Machine.execRowAlert stack row s
  | .refresh stack chan bank => Sys2Proof.Machine.execRefresh stack chan bank s
  | .migrationPull stack entry line => Sys2Proof.Machine.execMigrationPull stack entry line s
  | .nmGemv stack ctx => Sys2Proof.Machine.execNmGemv stack ctx s
  | .nmAxpby stack ctx => Sys2Proof.Machine.execNmAxpby stack ctx s
  | .nmReduce stack ctx => Sys2Proof.Machine.execNmReduce stack ctx s
  | .nmFill stack ctx => Sys2Proof.Machine.execNmFill stack ctx s
  | .nmCopy stack ctx => Sys2Proof.Machine.execNmCopy stack ctx s
  | .nmMigrate stack ctx => Sys2Proof.Machine.execNmMigrate stack ctx s
  | .nmReply stack ctx => Sys2Proof.Machine.execNmReply stack ctx s
  | .disturbWrite stack v => Sys2Proof.Machine.execDisturbWrite stack v s
  | .einjWrite stack v => Sys2Proof.Machine.execEinjWrite stack v s
  | .astatWrite cluster unit v => Sys2Proof.Machine.execAstatWrite cluster unit v s
  | .ecccntWrite stack v => Sys2Proof.Machine.execEcccntWrite stack v s
  | .sfaultWrite stack v => Sys2Proof.Machine.execSfaultWrite stack v s
  | .cefaultWrite cluster v => Sys2Proof.Machine.execCefaultWrite cluster v s
  | .nmstatWrite stack ctx v => Sys2Proof.Machine.execNmstatWrite stack ctx v s
  | .ggateWrite die slot v => Sys2Proof.Machine.execGgateWrite die slot v s
  | .phaltWrite die v => Sys2Proof.Machine.execPhaltWrite die v s
  | .preqWrite die cluster v => Sys2Proof.Machine.execPreqWrite die cluster v s
  | .registerWrite pa kiosk v => Sys2Proof.Machine.execRegisterWrite pa kiosk v s
  | .postedWrite fn pa v => Sys2Proof.Machine.execPostedWrite fn pa v s
  | .hostRead fn pa => Sys2Proof.Machine.execHostRead fn pa s
  | .extTimeout acc => Sys2Proof.Machine.execExtTimeout acc s
  | .linkTraining link eight => Sys2Proof.Machine.execLinkTraining link eight s
  | .stackJoin stack => Sys2Proof.Machine.execStackJoin stack s
  | .mbQuery mb => Sys2Proof.Machine.execMbQuery mb s
  | .mbLoad mb => Sys2Proof.Machine.execMbLoad mb s
  | .mbLaunch mb => Sys2Proof.Machine.execMbLaunch mb s
  | .mbPartCreate mb => Sys2Proof.Machine.execMbPartCreate mb s
  | .mbPartResize mb => Sys2Proof.Machine.execMbPartResize mb s
  | .mbPartDestroy mb => Sys2Proof.Machine.execMbPartDestroy mb s
  | .mbAttest mb => Sys2Proof.Machine.execMbAttest mb s
  | .mbEventRead mb => Sys2Proof.Machine.execMbEventRead mb s
  | .mbEventRoute mb => Sys2Proof.Machine.execMbEventRoute mb s
  | .illegalOpcode word => Sys2Proof.Machine.execIllegalOpcode word s
  | .reservedField word => Sys2Proof.Machine.execReservedField word s
  | .msiXUnmask fn vec => Sys2Proof.Machine.execMsiXUnmask fn vec s
  | .stackOutOfService stack chan => Sys2Proof.Machine.execStackOutOfService stack chan s
  | .hret => Sys2Proof.Machine.execHret s
  | .done => Sys2Proof.Machine.execDone s
  | .nop => Sys2Proof.Machine.execNop s
  | .rfill => Sys2Proof.Machine.execRfill s
  | .blockEnd => Sys2Proof.Machine.execBlockEnd s
  | .dispatchSelect => Sys2Proof.Machine.execDispatchSelect s
  | .stealBackoffExpiry => Sys2Proof.Machine.execStealBackoffExpiry s
  | .readyPush => Sys2Proof.Machine.execReadyPush s
  | .yieldOverrun => Sys2Proof.Machine.execYieldOverrun s
  | .preemption => Sys2Proof.Machine.execPreemption s
  | .trapEntry => Sys2Proof.Machine.execTrapEntry s
  | .portTimeout => Sys2Proof.Machine.execPortTimeout s
  | .tagTimeout => Sys2Proof.Machine.execTagTimeout s
  | .waitTimeout => Sys2Proof.Machine.execWaitTimeout s
  | .queueTimeout => Sys2Proof.Machine.execQueueTimeout s
  | .msgTimeout => Sys2Proof.Machine.execMsgTimeout s
  | .opcMm => Sys2Proof.Machine.execOpcMm s
  | .opcZero => Sys2Proof.Machine.execOpcZero s
  | .opcSt => Sys2Proof.Machine.execOpcSt s
  | .opcRed => Sys2Proof.Machine.execOpcRed s
  | .opcWs => Sys2Proof.Machine.execOpcWs s
  | .opcWsl => Sys2Proof.Machine.execOpcWsl s
  | .opcLd => Sys2Proof.Machine.execOpcLd s
  | .opcAcc => Sys2Proof.Machine.execOpcAcc s
  | .matrixCommandRetire => Sys2Proof.Machine.execMatrixCommandRetire s
  | .copyRecord => Sys2Proof.Machine.execCopyRecord s
  | .multicastCopy => Sys2Proof.Machine.execMulticastCopy s
  | .fillRecord => Sys2Proof.Machine.execFillRecord s
  | .recordLanding => Sys2Proof.Machine.execRecordLanding s
  | .chainRetire => Sys2Proof.Machine.execChainRetire s
  | .inlineExecution => Sys2Proof.Machine.execInlineExecution s
  | .stagePutApply => Sys2Proof.Machine.execStagePutApply s
  | .powerGood => Sys2Proof.Machine.execPowerGood s
  | .meshSelfTest => Sys2Proof.Machine.execMeshSelfTest s
  | .powerLimit => Sys2Proof.Machine.execPowerLimit s
  | .managementRequest => Sys2Proof.Machine.execManagementRequest s
  | .kioskEvent => Sys2Proof.Machine.execKioskEvent s
  | .qdieExpiry => Sys2Proof.Machine.execQdieExpiry s

end Sys2Proof.Machine
end

