-- ==== Sys2Proof/Machine/Schedule.lean ====
section
/-! DEFINITION. Turns: what a core does in its turn (spec/03_encoding.md R43, R64; spec/06_core_state.md R128; spec/10
R222; spec/16_messages.md R293), the turn of another agent, who moves when the tape of turns is empty (log 1), and the
passing of time (log 5). -/

namespace Sys2Proof.Machine

/-! ## A core's turn -/

/-- The activation is a member of a stopped team (R222). -/
def State.stopped (s : State) (k : Core) : Bool :=
  match k.member? with
  | some (l, g, t, _) =>
    match (s.launch? l).bind fun x => x.group? g with
    | some gr => match gr.teams[t]? with
      | some tm => tm.stopped
      | none => false
    | none => false
  | none => false

/-- A starting activation enters the block of its entry header (R43, R128), and a member of a team in checkpoint mode
writes its first checkpoint there (R222). While the checkpoint waits for the store-budget meter, the entry has not been
made. -/
def firstBody : CM Unit := fun s =>
  match enter s.ctx.hdr .start s with
  | .error e => .error e
  | .ok ((), t) =>
    match t.me.member? with
    | none => .ok ((), t)
    | some (_, _, _, rank) => match checkpoint rank t.ctx.pc t with
      | .ok ((), t) => .ok ((), t.updMe fun k => { k with wait := none })
      | .error _ => pause (plainWait .drain) s

def State.firstEntry (s : State) : State := runBody .none firstBody s

/-- The instruction at the program counter, fetched or held since an earlier turn (R12, R40). -/
def State.fetched (s : State) : Fetched (Instr × State) :=
  match s.ctx.latch with
  | some i => .ok (i, s)
  | none =>
    match s.fetch32 s.cur s.ctx.priv s.ctx.pc with
    | .ok w =>
      let i := decodeWord w
      .ok (i, (s.keepCopy s.cur s.ctx.priv s.ctx.pc w).updCtx fun c => { c with latch := some i })
    | .fault c info => .fault c info
    | .miss => .miss

/-- The turn of the current core's activation: it enters its first block, comes to the end of a block, or runs its next
instruction. A fetch that fails raises its cause (R12). -/
def runActivation (s : State) : Out :=
  if s.stopped s.me then .next s
  else if s.ctx.len = 0 then .next s.firstEntry
  else if s.ctx.latch.isNone && s.ctx.atEnd then execBlockEnd s
  else match s.fetched with
    | .ok (i, s) => exec i s
    | .fault c info => .next (runBody .none (raise c 0 info) s)
    | .miss => .next (s.queueMiss s.cur s.ctx.priv s.ctx.pc)

/-- The turn of the current core. One whose activation has been stopped gives it up once its commands have retired
(R231); one whose next instruction would retire while YCNT is 0 takes YIELD_OVERRUN (R130). -/
def coreTurn (s : State) : Out :=
  let k := s.me
  if !s.coreLive s.cur then (if clusterExists (clusterOf s.cur) then .next s else .fault .noSuchCore)
  else if k.trapping.isSome then .next s.trapEntry
  else match k.inl with
    | some i => exec (decodeWord (i.msg.slot i.slot)) s
    | none => match k.act with
      | none => .next s
      | some a =>
        if a.ending.isSome then .next (s.leaves s.cur)
        else if k.ctx.spent then execYieldOverrun s
        else runActivation s

/-- The turn of another agent, on behalf of a core: an instruction word is none. -/
def eventTurn (i : Instr) (s : State) : Out := if isWord i then .next s else exec i s

/-- A turn taken. -/
def takeTurn (t : Turn) (s : State) : Out :=
  match t with
  | .core c => coreTurn { s with cur := c }
  | .event c i => eventTurn i { s with cur := c }

/-! ## Who may move -/

/-- The chunks of the longest record that a command has started. -/
def ChCmd.chunks (m : ChCmd) : Nat := m.runs.foldl (fun n r => max n ((r.total + 511) / 512)) 0

/-- What a core's copy channel may do. -/
def channelEvents (c : Channel) : List Instr :=
  match c.inbox with
  | [] => []
  | m :: _ =>
    [Instr.copyRecord, Instr.multicastCopy, Instr.fillRecord] ++
    ((List.range m.chunks).map fun i => Instr.chunkCompletion i) ++
    [Instr.recordLanding] ++ ((List.range c.held.length).map fun i => Instr.followOnDelivery i) ++ [Instr.chainRetire]

/-- What a core's dispatcher, engines and accesses may do. -/
def coreEvents (s : State) (c : Nat) (k : Core) : List Turn :=
  let on := fun (b : Bool) (is : List Instr) => if b then is else []
  let accesses : List Instr := (k.flight.map fun a => [Instr.homeAccess a.id, Instr.accessCompletion a.id]).flatten
  let all : List Instr :=
    on k.trapping.isSome [.trapEntry] ++ accesses ++
    on (!k.mx.inbox.isEmpty)
      [.opcMm, .opcZero, .opcSt, .opcRed, .opcWs, .opcWsl, .opcLd, .opcAcc, .matrixCommandRetire] ++
    channelEvents k.chan ++
    on (s.puts.any fun p => p.core == c) [.stagePutApply] ++
    on (!k.disp.pushes.isEmpty) [.readyPush] ++
    on (k.disp.inbox.any fun m => m.inl) [.inlineExecution] ++
    on k.ctx.spent [.yieldOverrun] ++ on k.act.isSome [.preemption] ++
    on k.act.isNone [.dispatchSelect]
  all.map (Turn.event c) ++
  (match k.disp.asking with
    | some v => [.event v (.steal c)]
    | none => [])

/-- What a cluster's engine and routers may do. -/
def clusterEvents (cl : Nat) (e : Cluster) : List Instr :=
  ((List.range e.misses.length).map fun i => Instr.translationWalk cl i) ++
  (if e.invals.isEmpty then [] else [Instr.translationInvalidation cl]) ++
  (if e.sbrate ≠ 0 ∧ e.sblevel < min (e.capacity : Int) 512 then [Instr.storeBudgetRefill cl e.capacity] else []) ++
  ((e.migs.zipIdx).filterMap fun p => if p.1.valid then p.1.nextLine.map (Instr.migrationPull (64 + cl) p.2) else none)

/-- What a stack may do. -/
def stackEvents (n : Nat) (k : Stack) : List Instr :=
  ((k.counts.filter fun rc => decide (fld k.actth 0 16 ≤ rc.2)).map fun rc => Instr.rowAlert n rc.1) ++
  ((k.wq.filter fun q => decide (64 ≤ q.2.length)).map fun q => Instr.writeWindow n q.1) ++
  ((List.range 8).map fun c =>
    if (vget NmCtx.reset k.ctxs c).inbox.isEmpty then []
    else [Instr.nmGemv n c, Instr.nmAxpby n c, Instr.nmReduce n c, Instr.nmFill n c, Instr.nmCopy n c, Instr.nmMigrate n c,
      Instr.nmReply n c]).flatten ++
  ((k.migs.zipIdx).filterMap fun p => if p.1.valid then p.1.nextLine.map (Instr.migrationPull n p.2) else none)

/-- What a die's dispatch engines may do. -/
def dieEvents (d : Nat) (k : Die) : List Instr :=
  (if k.engine.isEmpty then [] else [Instr.launchEnqueue d]) ++ k.pops.map fun p => Instr.dieQueuePop d p.part

/-- What the engines may do for a launch. -/
def launchEvents (key : Nat) (l : Launch) : List Instr :=
  match l.phase with
  | .running =>
    (l.groups.map fun g => if g.phase = .released then Instr.groupPlacement key g.index else Instr.retirementReport key g.index) ++
      [Instr.memberRetirement key]
  | .recorded => [Instr.completionSignal key]
  | _ => []

/-- What the kiosk may do. -/
def kioskEvents (k : Kiosk) : List Instr :=
  (if k.events.isEmpty then [] else [Instr.kioskEvent]) ++
  (k.doors.map fun d => [Instr.mbQuery d.mb, Instr.mbLoad d.mb, Instr.mbLaunch d.mb, Instr.mbPartCreate d.mb, Instr.mbPartResize d.mb,
    Instr.mbPartDestroy d.1, Instr.mbAttest d.1, Instr.mbEventRead d.1, Instr.mbEventRoute d.1]).flatten ++
  (if k.requests.isEmpty then [] else [Instr.managementRequest]) ++
  k.quarantine.map fun q => Instr.quarantineReturn q.part

/-- The agents beside the running code, in the order in which they are asked (log 1). -/
def State.agents (s : State) : List Turn :=
  let cores : List Turn := (s.cores.map fun (kc : Nat × Core) => coreEvents s kc.1 kc.2).flatten
  let rings := s.cores.filter fun (kc : Nat × Core) => kc.2.flight.any fun a => !a.injected
  let others : List Instr :=
    (s.clusters.map fun (kc : Nat × Cluster) => clusterEvents kc.1 kc.2).flatten ++
    (rings.map fun (kc : Nat × Core) => Instr.ringArbitrationRound (clusterOf kc.1)) ++
    (s.routers.map fun (kr : Nat × Router) => kr.2.waiting.map fun c => Instr.reductionContribution kr.1 c.tree).flatten ++
    ((List.range s.msgs.length).map fun i => Instr.messageAccept i) ++
    (s.dies.map fun (kd : Nat × Die) => dieEvents kd.1 kd.2).flatten ++
    (s.launches.map fun (kl : Nat × Launch) => launchEvents kl.1 kl.2).flatten ++
    (s.stackEngines.map fun (ks : Nat × Stack) => stackEvents ks.1 ks.2).flatten ++
    kioskEvents s.kiosk
  cores ++ others.map (Turn.event s.cur)

/-- The cores that run code, from the one after the current core on. -/
def State.runners (s : State) : List Turn :=
  let cs := (s.cores.filter fun kc => kc.2.act.isSome || kc.2.inl.isSome).map Prod.fst
  ((cs.filter fun c => decide (s.cur < c)) ++ cs.filter fun c => decide (c ≤ s.cur)).map Turn.core

/-- What the mere passing of time brings: write windows, queues that stay long (R371), the ends of back-offs and of bounded waits. -/
def State.lapses (s : State) : List Turn :=
  ((s.stackEngines.map fun ks => (ks.2.wq.map fun q => Instr.writeWindow ks.1 q.1)).flatten.map (Turn.event s.cur)) ++
  ((s.stages.map fun kg => (s.stInstances kg.1).map fun q => Instr.stageOverload kg.1 q).flatten.map (Turn.event s.cur)) ++
  (s.cores.map fun kc =>
    if kc.2.disp.backoff then [.event kc.1 .stealBackoffExpiry]
    else if kc.2.wait.isSome then
      [Instr.portTimeout, .tagTimeout, .waitTimeout, .queueTimeout, .msgTimeout, .qdieExpiry].map (Turn.event kc.1)
    else []).flatten

/-- A turn changes something, the current core and time apart. -/
def State.moves (s : State) (t : Turn) : Bool :=
  let plain := fun (s : State) => { s with cur := 0, ns := 0, cycles := 0 }
  match takeTurn t s with
  | .next s' => decide (plain s' ≠ plain s)
  | _ => false

/-- Who moves while the tape is empty: the first agent that can; else the next core whose code can; else time (log 1). -/
def State.defaultTurn (s : State) : Turn :=
  ((s.agents ++ s.runners ++ s.lapses).find? s.moves).getD (.core s.cur)

/-- The next turn: the head of the tape, or the default. -/
def State.nextTurn (s : State) : Turn × State :=
  match s.turns with
  | t :: ts => (t, { s with turns := ts })
  | [] => (s.defaultTurn, s)

/-- Time that a step takes (log 5). -/
def State.pass (s : State) : State :=
  { s with ns := s.ns + Config.stepNs s.tick, cycles := s.cycles + Config.stepCycles s.tick, tick := s.tick + 1 }

/-- One step of the device. -/
def turnStep (s : State) : Out :=
  let (t, s) := s.nextTurn
  match takeTurn t s with
  | .next s => .next s.pass
  | .fault r => .fault r
  | .refused r => .refused r

/-! ## A word placed where the next step fetches (log 12) -/

/-- The place from which the current core's next turn fetches an instruction word, if it fetches one. -/
def State.fetchesAt (s : State) : Option Nat :=
  let k := s.me
  if s.coreLive s.cur && k.trapping.isNone && k.inl.isNone && k.act.isSome && !s.stopped k && k.ctx.len != 0 &&
      k.ctx.latch.isNone && !k.ctx.atEnd then
    match s.fetchKey s.cur k.ctx.priv k.ctx.pc with
    | .ok a => some a
    | _ => none
  else none

/-- The activation of a launch at the start of the core's own private scratchpad. -/
def placedAct (s : State) : Act :=
  ⟨.targeted, privAlias 0, [], 0, true, true, 3, 0, 0, none, [0, 0, 0, 0, s.partLevel s.cur], 0, none, 0, 0, 0, 0, 0, 0, 0,
    [], [], false, none⟩

/-- The current core stands at the only instruction of the first block of its private scratchpad. -/
def State.atFirstWord (s : State) : State :=
  s.updMe fun k =>
    { k with
      act := some (placedAct s), trapping := none, inl := none, wait := none
      ctx := { startCtx (placedAct s) k.ybud.toNat 0 with len := 1 } }

/-- The word stored where the current core fetches next, and the next turn given to that core. A core that runs nothing
gets an activation first: that is what a load and a launch come to. -/
def State.placeWord (s : State) (w : BitVec 32) : State :=
  let (s, a) := match s.fetchesAt with
    | some a => (s, a)
    | none => (s.atFirstWord, privBase s.cur + 8)
  let s := s.write a 4 (w.zeroExtend 64)
  let s := s.updMe fun k => { k with ibuf := SMap.erase k.ibuf a }
  { s with turns := .core s.cur :: s.turns }

end Sys2Proof.Machine
end

