-- ==== Sys2Proof/Machine/Step.lean ====
section
/-! DEFINITION. One step of the device, and an instruction placed where the next step fetches. -/

namespace Sys2Proof.Machine

/-- One step: the turn at the head of the tape, or the default turn, and the time that it takes. -/
def step (s : State) : Host.Outcome State Fault Refusal := turnStep s

/-- The state with an instruction word, numbered as the opcode table numbers its bits, stored where `step` fetches its
next instruction; the core gets the activation that the fetch needs, and the next turn (log 12). -/
def State.withFetchWord (s : State) (nbits w : Nat) : State := s.placeWord (BitVec.ofNat 32 (w % 2 ^ nbits))

end Sys2Proof.Machine
end

