-- ==== Sys2Proof/Safety.lean ====
section
/-! DEFINITION. The terms in which claims are made: what it is for the running code to be able to retire, what retiring
does, when operands and addresses are accepted, and the form that every step keeps. -/

namespace Sys2Proof.Machine

/-! ## Retirement (R130) -/

/-- The running code may retire an instruction: inline code always, other code while its yield count is not 0. -/
def State.mayRetire (s : State) : Bool := s.me.inl.isSome || s.ctx.ycnt != 0

/-- What retiring does to a core: the count of retired instructions rises, no wait remains, and the yield count becomes
`n` of what it was, unless the code is inline. -/
def Core.counts (n : Nat → Nat) (k : Core) : Core :=
  match k.inl with
  | none =>
    { k with retired := k.retired + 1, wait := none, inlHold := false, ctx := { k.ctx with ycnt := n k.ctx.ycnt, latch := none } }
  | some _ => { k with retired := k.retired + 1, wait := none, ctx := { k.ctx with latch := none } }

/-- The program counter, or the slot of inline code, moved to the next instruction. -/
def Core.onward (k : Core) : Core :=
  match k.inl with
  | some i => { k with inl := some { i with slot := i.slot + 1 } }
  | none => { k with ctx := { k.ctx with pc := k.ctx.pc + 4 } }

/-- An instruction that sets the program counter itself has retired. -/
def State.counted (s : State) (n : Nat → Nat) : State := (s.updMe (Core.counts n)).clearMisses

/-- An instruction that goes on to the next word has retired. -/
def State.retired (s : State) : State := (s.counted fun n => n - 1).updMe Core.onward

/-- A transfer of control has retired. -/
def State.moved (s : State) : State := s.counted fun n => n - 1

/-- The words that an instruction took from its ports are gone from their FIFOs. -/
def State.popped (s : State) (us : List Use) : State :=
  s.updMe fun k => (portsOf us).foldl (fun k p => k.setFifo p ((k.fifo p).drop 1)) k

/-! ## Operands that stand ready (R50–R53, R64, R120–R123) -/

/-- Registers that a use or a destination names. -/
def namedRegs (us : List Use) (d : DestSpec) : List Nat := (us.map Use.regs).flatten ++ d.regs

/-- Registers that are filled before the instruction has an effect (R121): the members of every named pair, but those
that are only written. -/
def filledRegs (us : List Use) (d : DestSpec) : List Nat :=
  ((namedRegs us d).map fun n => [n / 2 * 2, n / 2 * 2 + 1]).flatten.filter
    fun n => (us.map Use.regs).flatten.contains n || !d.regs.contains n

/-- One absent register filled from the core's save area. -/
def State.fillOne (s : State) (n : Nat) : State :=
  if (vget Reg.reset s.ctx.regs n).cond = .absent then
    s.updCtx fun c => { c with regs := vset c.regs n ⟨(s.savedReg s.cur n).getD 0, .present, none⟩ }
  else s

/-- Bank 1 woken if it is named, and the registers filled (R121, R122). -/
def State.readied (s : State) (us : List Use) (d : DestSpec) : State :=
  (filledRegs us d).foldl State.fillOne
    (if (namedRegs us d).any fun n => decide (8 ≤ n) then s.updCtx Ctx.wake else s)

/-- The operands taken: banks woken, registers filled, ports popped. -/
def State.took (s : State) (us : List Use) (d : DestSpec) : State := (s.readied us d).popped us

/-- An instruction's operands stand ready: no check of R64 fails, no access whose value it reads has failed, no fill meets
poison, no value is awaited, every port read has a neighbour and holds its words, and a port written has room. -/
structure State.Ready (s : State) (us : List Use) (d : DestSpec) : Prop where
  formed : us.any Use.bad = false ∧ d.bad = false
  even : (∀ u ∈ us, u.odd = none) ∧ d.odd = none
  live : ∀ u ∈ us, u.unread s.ctx = none
  saved : ∀ n ∈ filledRegs us d, (vget Reg.reset s.ctx.regs n).cond = .absent → (s.savedReg s.cur n).isSome = true
  sound : ∀ u ∈ us, ∀ id ∈ u.pends s.ctx, ∀ a ∈ s.me.mine, a.id = id → a.failed? = false
  held : ∀ u ∈ us, u.pends (s.readied us d).ctx = []
  ports : ∀ p ∈ portsOf us, (s.portPeer s.cur p).isSome = true ∧ (portsOf us).count p ≤ (s.me.fifo p).length
  room : ∀ p n, d.port? = some (p, n) → ∃ c, s.portPeer s.cur p = some c ∧ ((s.core c).fifo (oppositePort p)).length + n ≤ 8

/-- The value of an instruction's first, second and third one-word source, once they stand ready. -/
def State.first (s : State) (us : List Use) (d : DestSpec) : Word := ((s.readied us d).me.vals [] us).getD 0 0
def State.second (s : State) (us : List Use) (d : DestSpec) : Word := ((s.readied us d).me.vals [] us).getD 1 0
def State.third (s : State) (us : List Use) (d : DestSpec) : Word := ((s.readied us d).me.vals [] us).getD 2 0

/-- The operands taken and a one-word result delivered. -/
def State.writes (s : State) (us : List Use) (d : Dst) (v : Word) : State := (s.took us (.one d)).deliver d v

/-- The operands taken and a pair delivered, low word first. -/
def State.writesPair (s : State) (us : List Use) (d : Dst) (lo hi : Word) : State := (s.took us (.pair d)).deliverPair d lo hi

/-- An operation on the low 64 bits of two words, or on their low 32 bits with the result sign-extended (R134). -/
def atWidth (f : (n : Nat) → BitVec n → BitVec n → BitVec n) (w : Bool) (x y : Word) : Word :=
  if w then (f 32 (x.truncate 32) (y.truncate 32)).signExtend 64 else f 64 x y

/-- The integer instructions that write one word, with the operands they read. bitc with a reserved code is none. -/
def oneResult : Instr → Option (List Use × Dst)
  | .add a b d _ | .sub a b d _ | .and a b d _ | .or a b d _ | .xor a b d _ | .andn a b d _ => some ([.one a, .one b], d)
  | .sll a b d _ | .srl a b d _ | .sra a b d _ | .rol a b d _ => some ([.one a, .one b], d)
  | .min a b d _ | .max a b d _ | .minu a b d _ | .maxu a b d _ | .slt a b d _ | .sltu a b d _ => some ([.one a, .one b], d)
  | .mul a b d _ | .mulh a b d _ | .mulhu a b d _ | .seq a b d _ | .sne a b d _ | .bfx a b d _ _ => some ([.one a, .one b], d)
  | .addi a d _ | .andi a d _ | .ori a d _ | .xori a d _ | .slti a d _ | .ldkx a d _ => some ([.one a], d)
  | .slli a d _ | .srli a d _ | .srai a d _ | .extf a d _ _ | .keep a d false => some ([.one a], d)
  | .ins a b d _ => some ([.one a, .one b, .one (baseOf d)], d)
  | .sel a b d c | .clamp a b d c _ => some ([.one a, .one b, .one c], d)
  | .ldk d _ => some ([], d)
  | .bitc a d o _ => if o.toNat < 5 then some ([.one a], d) else none
  | _ => none

/-- A named register of the running code. -/
def State.reg (s : State) (n : Nat) : Reg := vget Reg.reset s.ctx.regs n

/-- An instruction that names a register of bank 1 finds the bank's values lost (R122). -/
def State.bankWasOff (s : State) (us : List Use) (d : DestSpec) : Prop :=
  (∃ n ∈ namedRegs us d, 8 ≤ n) ∧ s.ctx.gate ≠ 0 ∧ (s.ctx.gate = 2 ∨ s.ctx.bankLost = true)

/-! ## Floating-point flags (R127, R153) -/

/-- The flags of lanes set in FPS. -/
def State.flagged (s : State) (fs : List Flags) : State :=
  s.updCtx fun c => { c with fps := c.fps ||| (fs.foldl (· ||| ·) 0).zeroExtend 64 }

/-- Some lane raises flag n. -/
def raisedBy (fs : List Flags) (n : Nat) : Prop := ∃ f ∈ fs, f.getLsbD n = true

/-- No flag that a lane raises has its trap enabled. -/
def State.untrapped (s : State) (fs : List Flags) : Prop := ∀ n, n < 5 → raisedBy fs n → bit s.ctx.fps (5 + n) = false

/-- The causes of the flags NV, DZ, OF, UF and NX. -/
def fpCause (n : Nat) : Cause := [Cause.fpInvalid, .fpDivzero, .fpOverflow, .fpUnderflow, .fpInexact].getD n .fpInexact

/-- Lanes computed and delivered with their flags; or the trap of the first enabled flag, with the lanes that raise it as
its information, in the state in which the instruction began. -/
def State.AnswersLanes (s : State) (i : Instr) (us : List Use) (d : Dst) (w : Nat) (rs : List Rounded) : Prop :=
  let fs := rs.map fun r => r.flags
  (s.untrapped fs →
    exec i s = .next (((s.took us (.one d)).flagged fs).deliver d (ofLanes w (rs.map fun r => r.code))).retired) ∧
  (∀ n mask, n < 5 → raisedBy fs n → bit s.ctx.fps (5 + n) = true →
    (∀ m, m < n → raisedBy fs m → bit s.ctx.fps (5 + m) = false) →
    (∀ j, bit mask j = true ↔ ∃ f, fs[j]? = some f ∧ f.getLsbD n = true) →
    (s.take (causeOf (fpCause n) 0 mask)).2 = false → exec i s = .next (s.take (causeOf (fpCause n) 0 mask)).1)

/-- The element format code that a field names: 000 takes FMT (R55). -/
def State.format (s : State) (f : BitVec 3) : Nat := if f = 0 then fld s.ctx.fmt 0 3 else f.toNat

/-! ## Blocks (R41–R44) -/

/-- A header that R43 lets a transfer of control enter stands at an address, read at a privilege level. -/
structure State.HeaderFor (s : State) (sup : Bool) (a h : Word) : Prop where
  aligned : a.toNat % 8 = 0
  fetched : s.fetch64 s.cur sup a = .ok h
  mark : fld h 58 6 = 0b111110
  length : fld h 48 10 ≠ 0
  carry : fld h 29 3 ≤ 4
  reserved : fld h 24 3 = 0
  start : fld h 27 2 = 3 → fld h 29 3 = 0 ∧ fld h 36 12 = 0
  point : fld h 27 2 = 2 → fld h 29 3 = 0 ∧ ∃ w, s.fetch32 s.cur sup (a + 8) = .ok w ∧ w.extractLsb' 24 8 = 0xC3#8

/-- The same at the running code's own level. -/
def State.HeaderAt (s : State) (a h : Word) : Prop := s.HeaderFor s.ctx.priv a h

/-- The running code of `t` stands at the first instruction of the block whose header `h` stands at `a`, entered from the
context of `s`: entries beyond CARRY are gone, registers outside LIVE are dead, the others are as they were. -/
structure State.EntersBlock (s t : State) (a h : Word) : Prop where
  pc : t.ctx.pc = a + 8
  header : t.ctx.hdr = a ∧ t.ctx.len = fld h 48 10 ∧ t.ctx.kind = hdrKind h
  trellis : t.ctx.trellis = s.ctx.trellis.take (fld h 29 3)
  rest : { t with cores := s.cores, clusters := s.clusters } = s

/-- A register after a block has been entered (R43). -/
def State.regEntered (s : State) (h : Word) (n : Nat) : Reg :=
  if fld h (32 + n) 1 = 1 then s.reg n else { s.reg n with cond := .dead, pend := none }

/-- The loop stack after a taken transfer out of the block being executed (R150). -/
def State.loopsLeft (s : State) : List LoopEntry :=
  match s.ctx.loops with
  | e :: es => if e.body = s.ctx.hdr then es else e :: es
  | [] => []

/-- The target of a relative offset in 8-byte units from the header of the block (R45). -/
def State.target (s : State) {n : Nat} (o : BitVec n) : Word := s.ctx.hdr + 8 * o.signExtend 64

/-- OP values that name no instruction (R62). -/
def unassignedOps : List Nat :=
  let span := fun lo hi => (List.range (hi + 1 - lo)).map (lo + ·)
  [(0x2C, 0x2F), (0x38, 0x3F), (0x5E, 0x5F), (0x69, 0x6F), (0x7E, 0x7F), (0x87, 0x8F), (0x9A, 0x9F), (0xA4, 0xAF),
    (0xB9, 0xBF), (0xCA, 0xCF), (0xDF, 0xF7), (0xFC, 0xFF), (0xF8, 0xFB)].flatMap fun r => span r.1 r.2

/-! ## Traps (R212–R218) -/

/-- A trap, or a service, can be entered at once at `tgt` with level `sup`: outermost code with a frame at `f` in its own
private scratchpad, in the plain or the skewed view (R24), whose words take stores and on which no access is parked or
outstanding, no value awaited or failed, no register absent, and at the target a header at which an activation may start,
outside the frame. -/
structure State.Enterable (s : State) (f : Nat) (sup : Bool) (tgt h : Word) : Prop where
  canonical : Memory.wf s.mem = true
  outer : s.me.inl = none
  frame : s.frameKey = some f
  present : ∀ n, n < 16 → (s.reg n).cond ≠ .absent
  settled : s.ctx.pendings = [] ∧ ∀ a ∈ s.me.flight, a.failed? = false
  quiet : s.me.wait = none ∧ ∀ p ∈ s.parked, p.core ≠ s.cur ∧ ∀ i, i < 64 → p.pa / 8 ≠ frameWord f (8 * i) / 8
  done : s.frameBusy f = false
  stores : ∀ i, i < 64 → s.tagAt (frameWord f (8 * i)) ≠ tagArrival
  header : s.HeaderFor sup tgt h ∧ fld h 27 2 = 3
  mapped : s.translateHit s.cur sup (tgt + 8) .x ≠ .miss
  apart : ∀ o, o = 0 ∨ o = 4 → ∀ k, s.fetchKey s.cur sup (tgt + o) = .ok k → ∀ i, i < 64 → k / 8 ≠ frameWord f (8 * i) / 8

/-- A cause of the running code is offered to its handler (R214). -/
structure State.TakesTraps (s : State) (f : Nat) (h : Word) : Prop where
  free : s.ctx.trap.intrap = false
  enabled : bit s.ctx.trap.tbase 0 = true
  entry : s.Enterable f s.ctx.priv (hdrField s.ctx.trap.tbase) h

/-- Control has entered a handler or service block at `tgt`, from the context of `s`, whose frame at `f` is written (R213,
R214). -/
structure State.EnteredHandler (s t : State) (f : Nat) (sup : Bool) (tgt h resume : Word) (regs : TrapRegs) : Prop where
  trap : t.ctx.trap = regs
  place : t.ctx.pc = tgt + 8 ∧ t.ctx.hdr = tgt ∧ t.ctx.len = fld h 48 10 ∧ t.ctx.kind = .entry
  emptied : t.ctx.trellis = [] ∧ t.ctx.loops = [] ∧ t.ctx.gate = 0
  flags : t.ctx.fps = s.ctx.fps &&& 0x1F
  level : t.ctx.priv = sup
  kept : t.ctx.fmt = s.ctx.fmt ∧ t.ctx.st = s.ctx.st ∧ t.ctx.lsrc = s.ctx.lsrc ∧ t.ctx.ycnt = s.ctx.ycnt ∧
    t.ctx.mx = s.ctx.mx ∧ t.ctx.lteam = s.ctx.lteam ∧ t.ctx.lgroup = s.ctx.lgroup ∧ t.ctx.lgrid = s.ctx.lgrid ∧
    t.ctx.lgraph = s.ctx.lgraph ∧ t.ctx.lpart = s.ctx.lpart
  told : ∀ n, n < 4 → fld h (32 + n) 1 = 1 →
    t.reg n = ⟨[regs.tcause, regs.tpc, regs.taddr, regs.tinfo].getD n 0, .present, none⟩
  dead : ∀ n, n < 16 → (4 ≤ n ∨ fld h (32 + n) 1 = 0) → (t.reg n).cond = .dead
  saved : ∀ n, n < 16 → (s.reg n).cond = .present → (n < 8 ∨ s.ctx.gate ≠ 2 ∧ s.ctx.bankLost = false) →
    t.word (frameWord f (8 * n)) = (s.reg n).val
  entries : ∀ n x, s.ctx.trellis[n]? = some x → n < 16 → t.word (frameWord f (0x80 + 8 * n)) = x.val
  status : t.word (frameWord f 0x100) = resume ∧ t.word (frameWord f 0x158) = s.ctx.cstat ∧
    t.word (frameWord f 0x160) = s.ctx.fmt ∧ t.word (frameWord f 0x168) = s.ctx.fps ∧ t.word (frameWord f 0x170) = s.ctx.st ∧
    t.word (frameWord f 0x180) = s.ctx.gate.zeroExtend 64 ∧ t.word (frameWord f 0x188) = s.ctx.lsrc
  causes : t.word (frameWord f 0x1A0) = regs.tcause ∧ t.word (frameWord f 0x1A8) = regs.tpc ∧
    t.word (frameWord f 0x1B0) = regs.taddr ∧ t.word (frameWord f 0x1B8) = regs.tinfo ∧ t.word (frameWord f 0x1C0) = regs.tdpc ∧
    t.word (frameWord f 0x1C8) = s.ctx.hdr
  memory : ∀ a, (∀ i, i < 0x3A → a / 8 ≠ frameWord f (8 * i) / 8) → readByte t.mem a = readByte s.mem a

/-- The trap registers after a cause with a code has been taken (R214). -/
def State.trapped (s : State) (c : CauseRec) : TrapRegs :=
  { s.ctx.trap with
    tcause := wordOf (c.cause.code.toNat + (if c.deferred then 256 else 0) + (if c.engine then 512 else 0))
    tpc := keep (c.atPc.getD s.ctx.pc) 0xFFFFFFFFFFFFFF
    taddr := c.addr
    tinfo := c.info
    tdpc := c.dpc
    intrap := true }

/-- A cause has been taken by the running code's handler (R214, R215). -/
def State.TrapTaken (s t : State) (f : Nat) (h : Word) (c : CauseRec) : Prop :=
  s.EnteredHandler t f s.ctx.priv (hdrField s.ctx.trap.tbase) h s.ctx.pc (s.trapped c)

/-! ## Addresses and requests (R180, R185, R271) -/

/-- An address is accepted for an access of `size` bytes: aligned, an alias where the code is inline, and translated. -/
def State.accepts (s : State) (va : Word) (size : Nat) (right : Right) (x : Xlated) : Prop :=
  va.toNat % size = 0 ∧ (s.me.inl.isSome → isAliasRegion va.toNat) ∧ s.translate s.cur s.ctx.priv va right = .ok x

/-- The core's request ring takes the requests to these places. -/
def State.takes (s : State) (pls : List Place) : Prop :=
  (pls.filter fun p => !bypasses s.cur p).length = 0 ∨
    s.me.ringCount + (pls.filter fun p => !bypasses s.cur p).length ≤ 32

/-- The state with an access issued. -/
def State.issuing (s : State) (op : AccOp) (va : Word) (x : Xlated) (load store acqOk acqFail : Bool) : State :=
  s.updMe fun k => { k with flight := k.flight ++ [newAccess s op va x load store acqOk acqFail], nextId := k.nextId + 1 }

/-- The state with a destination that awaits an access. -/
def State.awaiting (s : State) (d : Dst) (id : Nat) : State :=
  match d with
  | .h n => s.updCtx fun c => c.setReg n.val ⟨0, .present, some id⟩
  | .push => s.updCtx fun c => c.push ⟨0, some id⟩
  | _ => s

/-- The state with loads, or reads of tags, issued one after another. -/
def State.loading (s : State) (acq : Bool) (xs : List (AccOp × Word × Xlated)) : State :=
  xs.foldl (fun s p => s.issuing p.1 p.2.1 p.2.2 true false acq acq) s

/-- The state with stores issued one after another: size, address, data. -/
def State.storing (s : State) (untagged : Bool) (xs : List (Nat × Word × Word × Xlated)) : State :=
  xs.foldl (fun s p => s.issuing (.store p.1 p.2.2.1 untagged) p.2.1 p.2.2.2 false true false false) s

/-- The destination of the i-th word of a run: the registers that follow, or one more push. -/
def runDest (d : Dst) (i : Nat) : Dst :=
  match d with
  | .h n => .h (Fin.ofNat 16 (n.val + i))
  | d => d

/-- A run of destinations that await accesses. -/
def State.awaitingRun (s : State) (d : Dst) (ids : List Nat) : State :=
  ids.zipIdx.foldl (fun s p => s.awaiting (runDest d p.2) p.1) s

/-- No injection of poison is armed for the running activation's first load (R341). -/
def State.uninjected (s : State) : Prop := ∀ x, s.me.act = some x → x.inject = false

/-- No access is parked at the word that holds an address, so that a change of it serves none (R179). -/
def State.quietAt (s : State) (k : Nat) : Prop := ∀ p ∈ s.parked, p.pa / 8 ≠ k / 8

/-- Address of a memory instruction (R186). -/
def offsetFrom (base : Word) (o : BitVec 8) (size : Nat) : Word := base + o.signExtend 64 * wordOf size

/-! ## The form that every step keeps -/

/-- Memory, tags and poison marks stand in their canonical form: keys strictly rise, and nothing listed is the default. -/
def State.Canonical (s : State) : Prop :=
  Memory.wf s.mem = true ∧ SMap.wf tagEmpty s.tags = true ∧ SMap.wf false s.poison = true

end Sys2Proof.Machine
end

