-- ==== Sys2Proof/WellFormed.lean ====
section
/-! DEFINITION. Well-formed instructions: those that a decoder can give (spec/03_encoding.md R48–R51, R61–R63). -/

namespace Sys2Proof

/-- `bad` holds only a reserved value of the field (R50). -/
def Src.wf : Src → Bool
  | .bad v => decide (37 ≤ v.toNat)
  | _ => true

/-- `bad` holds only a reserved value of the field (R51). -/
def Dst.wf : Dst → Bool
  | .bad v => decide (21 ≤ v.toNat)
  | _ => true

/-- The source operands of an instruction, in field order. -/
def Instr.srcs : Instr → List Src
  | .add a b _ _ => [a, b]
  | .sub a b _ _ => [a, b]
  | .and a b _ _ => [a, b]
  | .or a b _ _ => [a, b]
  | .xor a b _ _ => [a, b]
  | .andn a b _ _ => [a, b]
  | .sll a b _ _ => [a, b]
  | .srl a b _ _ => [a, b]
  | .sra a b _ _ => [a, b]
  | .rol a b _ _ => [a, b]
  | .min a b _ _ => [a, b]
  | .max a b _ _ => [a, b]
  | .minu a b _ _ => [a, b]
  | .maxu a b _ _ => [a, b]
  | .slt a b _ _ => [a, b]
  | .sltu a b _ _ => [a, b]
  | .mul a b _ _ => [a, b]
  | .mulh a b _ _ => [a, b]
  | .mulhu a b _ _ => [a, b]
  | .div a b _ _ => [a, b]
  | .divu a b _ _ => [a, b]
  | .rem a b _ _ => [a, b]
  | .remu a b _ _ => [a, b]
  | .bitc a _ _ _ => [a]
  | .addi a _ _ => [a]
  | .andi a _ _ => [a]
  | .ori a _ _ => [a]
  | .xori a _ _ => [a]
  | .slli a _ _ => [a]
  | .srli a _ _ => [a]
  | .srai a _ _ => [a]
  | .slti a _ _ => [a]
  | .ldk _ _ => []
  | .ldkx a _ _ => [a]
  | .extf a _ _ _ => [a]
  | .ins a b _ _ => [a, b]
  | .bfx a b _ _ _ => [a, b]
  | .sel a b _ c => [a, b, c]
  | .keep a _ _ => [a]
  | .seq a b _ _ => [a, b]
  | .sne a b _ _ => [a, b]
  | .addc a b _ c _ => [a, b, c]
  | .subc a b _ c _ => [a, b, c]
  | .clamp a b _ c _ => [a, b, c]
  | .br a b _ _ => [a, b]
  | .jmp _ => []
  | .call _ => []
  | .jr a => [a]
  | .callr a => [a]
  | .loop a _ => [a]
  | .loopi _ _ => []
  | .brk _ => []
  | .fadd a b _ _ _ _ => [a, b]
  | .fsub a b _ _ _ _ => [a, b]
  | .fmul a b _ _ _ _ => [a, b]
  | .fma a b _ _ _ _ => [a, b]
  | .fdiv a b _ _ _ _ => [a, b]
  | .fsqrt a _ _ _ _ => [a]
  | .fmin a b _ _ => [a, b]
  | .fmax a b _ _ => [a, b]
  | .fsgn a b _ _ _ => [a, b]
  | .fhsum a b _ _ _ _ => [a, b]
  | .pdot a b _ _ _ _ => [a, b]
  | .fscl a b _ _ _ _ => [a, b]
  | .frcp a _ _ _ _ => [a]
  | .frsq a _ _ _ _ => [a]
  | .fexp2 a _ _ _ _ => [a]
  | .fround a _ _ _ => [a]
  | .fcmp a b _ _ _ => [a, b]
  | .fclass a _ _ => [a]
  | .cvt a _ _ _ _ _ _ _ => [a]
  | .cvti a _ _ _ _ => [a]
  | .cvtf a _ _ _ _ => [a]
  | .cvtx a _ _ _ => [a]
  | .pperm a b _ c => [a, b, c]
  | .ppack a b _ _ _ _ _ => [a, b]
  | .punpk a _ _ _ _ => [a]
  | .wsadd a b _ => [a, b]
  | .wsscl a b _ _ => [a, b]
  | .wsrnd a b _ _ _ _ _ => [a, b]
  | .pint a b _ _ _ _ _ => [a, b]
  | .pdoti a b _ _ _ _ => [a, b]
  | .ld a _ _ _ _ => [a]
  | .st a b _ _ _ => [a, b]
  | .ldp a _ _ _ => [a]
  | .stp a b _ _ => [a, b]
  | .tagr a _ _ => [a]
  | .tagw a b _ => [a, b]
  | .touch a _ _ => [a]
  | .ldm a _ _ _ _ => [a]
  | .stm a b _ _ _ => [a, b]
  | .amo a b _ _ _ _ => [a, b]
  | .amor a b _ _ _ _ _ => [a, b]
  | .amod a b _ _ _ _ => [a, b]
  | .cas a b _ _ _ _ _ => [a, b]
  | .putsig a b c => [a, b, c]
  | .putsig2 a b c => [a, b, c]
  | .arm a b => [a, b]
  | .waitg a b _ _ => [a, b]
  | .waitm a b _ _ => [a, b]
  | .waitc _ _ _ _ => []
  | .waitt a b _ _ => [a, b]
  | .bar a _ => [a]
  | .barg a _ => [a]
  | .sig a b => [a, b]
  | .qres a _ _ => [a]
  | .qpub a => [a]
  | .qpop a _ _ => [a]
  | .qrel a => [a]
  | .qpush a b _ _ => [a, b]
  | .qinfo a _ => [a]
  | .qclose a => [a]
  | .tmm a b _ _ _ => [a, b]
  | .tzero b _ _ => [b]
  | .tst a b _ _ => [a, b]
  | .tred a b _ _ => [a, b]
  | .tws a b _ _ => [a, b]
  | .twsl a b _ _ => [a, b]
  | .tcfg a b => [a, b]
  | .tcmd a _ => [a]
  | .tld a b _ _ => [a, b]
  | .tacc a b _ _ => [a, b]
  | .ecmd a b _ => [a, b]
  | .chain a _ => [a]
  | .cstat a b _ => [a, b]
  | .ccan _ => []
  | .send a b => [a, b]
  | .sendb a b => [a, b]
  | .sendi a b => [a, b]
  | .cmask a _ => [a]
  | .cunm a _ => [a]
  | .rdin a _ => [a]
  | .redn a b => [a, b]
  | .sendw a b _ _ => [a, b]
  | .spawn a b => [a, b]
  | .take _ => []
  | .yield _ => []
  | .launch a _ => [a]
  | .tready a _ => [a]
  | .stagePut a b _ => [a, b]
  | .stageTwin a b _ => [a, b]
  | .stageMerge a b _ => [a, b]
  | .stageInfo a _ => [a]
  | .stageClose a => [a]
  | .gid _ _ => []
  | .qdie a _ _ => [a]
  | .tcbq _ => []
  | .getc _ _ => []
  | .setc a _ => [a]
  | .swpc a _ _ => [a]
  | .setcb a _ _ _ => [a]
  | .sys a _ => [a]
  | .resumeTeam a => [a]
  | .tret _ => []
  | .halt a => [a]
  | .xinv a b => [a, b]
  | .xprobe a _ => [a]
  | .stamp a _ _ => [a]
  | .cyc _ _ => []
  | .ebreak _ => []
  | .gate _ => []
  | .steal _ => []
  | .dieQueuePop _ _ => []
  | .homeAccess _ => []
  | .accessCompletion _ => []
  | .translationWalk _ _ => []
  | .translationInvalidation _ => []
  | .quarantineReturn _ => []
  | .followOnDelivery _ => []
  | .chunkCompletion _ => []
  | .ringArbitrationRound _ => []
  | .storeBudgetRefill _ _ => []
  | .messageAccept _ => []
  | .reductionContribution _ _ => []
  | .flitAgePriority _ => []
  | .launchEnqueue _ => []
  | .memberRetirement _ => []
  | .completionSignal _ => []
  | .retirementReport _ _ => []
  | .groupPlacement _ _ => []
  | .stageOverload _ _ => []
  | .kioskStageOrder _ _ _ => []
  | .writeWindow _ _ => []
  | .rowAlert _ _ => []
  | .refresh _ _ _ => []
  | .migrationPull _ _ _ => []
  | .nmGemv _ _ => []
  | .nmAxpby _ _ => []
  | .nmReduce _ _ => []
  | .nmFill _ _ => []
  | .nmCopy _ _ => []
  | .nmMigrate _ _ => []
  | .nmReply _ _ => []
  | .disturbWrite _ _ => []
  | .einjWrite _ _ => []
  | .astatWrite _ _ _ => []
  | .ecccntWrite _ _ => []
  | .sfaultWrite _ _ => []
  | .cefaultWrite _ _ => []
  | .nmstatWrite _ _ _ => []
  | .ggateWrite _ _ _ => []
  | .phaltWrite _ _ => []
  | .preqWrite _ _ _ => []
  | .registerWrite _ _ _ => []
  | .postedWrite _ _ _ => []
  | .hostRead _ _ => []
  | .extTimeout _ => []
  | .linkTraining _ _ => []
  | .stackJoin _ => []
  | .mbQuery _ => []
  | .mbLoad _ => []
  | .mbLaunch _ => []
  | .mbPartCreate _ => []
  | .mbPartResize _ => []
  | .mbPartDestroy _ => []
  | .mbAttest _ => []
  | .mbEventRead _ => []
  | .mbEventRoute _ => []
  | .illegalOpcode _ => []
  | .reservedField _ => []
  | .msiXUnmask _ _ => []
  | .stackOutOfService _ _ => []
  | .hret => []
  | .done => []
  | .nop => []
  | .rfill => []
  | .blockEnd => []
  | .dispatchSelect => []
  | .stealBackoffExpiry => []
  | .readyPush => []
  | .yieldOverrun => []
  | .preemption => []
  | .trapEntry => []
  | .portTimeout => []
  | .tagTimeout => []
  | .waitTimeout => []
  | .queueTimeout => []
  | .msgTimeout => []
  | .opcMm => []
  | .opcZero => []
  | .opcSt => []
  | .opcRed => []
  | .opcWs => []
  | .opcWsl => []
  | .opcLd => []
  | .opcAcc => []
  | .matrixCommandRetire => []
  | .copyRecord => []
  | .multicastCopy => []
  | .fillRecord => []
  | .recordLanding => []
  | .chainRetire => []
  | .inlineExecution => []
  | .stagePutApply => []
  | .powerGood => []
  | .meshSelfTest => []
  | .powerLimit => []
  | .managementRequest => []
  | .kioskEvent => []
  | .qdieExpiry => []

/-- The destinations of an instruction. -/
def Instr.dsts : Instr → List Dst
  | .add _ _ d _ => [d]
  | .sub _ _ d _ => [d]
  | .and _ _ d _ => [d]
  | .or _ _ d _ => [d]
  | .xor _ _ d _ => [d]
  | .andn _ _ d _ => [d]
  | .sll _ _ d _ => [d]
  | .srl _ _ d _ => [d]
  | .sra _ _ d _ => [d]
  | .rol _ _ d _ => [d]
  | .min _ _ d _ => [d]
  | .max _ _ d _ => [d]
  | .minu _ _ d _ => [d]
  | .maxu _ _ d _ => [d]
  | .slt _ _ d _ => [d]
  | .sltu _ _ d _ => [d]
  | .mul _ _ d _ => [d]
  | .mulh _ _ d _ => [d]
  | .mulhu _ _ d _ => [d]
  | .div _ _ d _ => [d]
  | .divu _ _ d _ => [d]
  | .rem _ _ d _ => [d]
  | .remu _ _ d _ => [d]
  | .bitc _ d _ _ => [d]
  | .addi _ d _ => [d]
  | .andi _ d _ => [d]
  | .ori _ d _ => [d]
  | .xori _ d _ => [d]
  | .slli _ d _ => [d]
  | .srli _ d _ => [d]
  | .srai _ d _ => [d]
  | .slti _ d _ => [d]
  | .ldk d _ => [d]
  | .ldkx _ d _ => [d]
  | .extf _ d _ _ => [d]
  | .ins _ _ d _ => [d]
  | .bfx _ _ d _ _ => [d]
  | .sel _ _ d _ => [d]
  | .keep _ d _ => [d]
  | .seq _ _ d _ => [d]
  | .sne _ _ d _ => [d]
  | .addc _ _ d _ _ => [d]
  | .subc _ _ d _ _ => [d]
  | .clamp _ _ d _ _ => [d]
  | .br _ _ _ _ => []
  | .jmp _ => []
  | .call _ => []
  | .jr _ => []
  | .callr _ => []
  | .loop _ _ => []
  | .loopi _ _ => []
  | .brk _ => []
  | .fadd _ _ d _ _ _ => [d]
  | .fsub _ _ d _ _ _ => [d]
  | .fmul _ _ d _ _ _ => [d]
  | .fma _ _ d _ _ _ => [d]
  | .fdiv _ _ d _ _ _ => [d]
  | .fsqrt _ d _ _ _ => [d]
  | .fmin _ _ d _ => [d]
  | .fmax _ _ d _ => [d]
  | .fsgn _ _ d _ _ => [d]
  | .fhsum _ _ d _ _ _ => [d]
  | .pdot _ _ d _ _ _ => [d]
  | .fscl _ _ d _ _ _ => [d]
  | .frcp _ d _ _ _ => [d]
  | .frsq _ d _ _ _ => [d]
  | .fexp2 _ d _ _ _ => [d]
  | .fround _ d _ _ => [d]
  | .fcmp _ _ d _ _ => [d]
  | .fclass _ d _ => [d]
  | .cvt _ _ _ d _ _ _ _ => [d]
  | .cvti _ _ d _ _ => [d]
  | .cvtf _ _ d _ _ => [d]
  | .cvtx _ _ _ d => [d]
  | .pperm _ _ d _ => [d]
  | .ppack _ _ d _ _ _ _ => [d]
  | .punpk _ d _ _ _ => [d]
  | .wsadd _ _ d => [d]
  | .wsscl _ _ d _ => [d]
  | .wsrnd _ _ d _ _ _ _ => [d]
  | .pint _ _ d _ _ _ _ => [d]
  | .pdoti _ _ d _ _ _ => [d]
  | .ld _ d _ _ _ => [d]
  | .st _ _ _ _ _ => []
  | .ldp _ d _ _ => [d]
  | .stp _ _ _ _ => []
  | .tagr _ d _ => [d]
  | .tagw _ _ _ => []
  | .touch _ _ _ => []
  | .ldm _ d _ _ _ => [d]
  | .stm _ _ _ _ _ => []
  | .amo _ _ _ _ _ _ => []
  | .amor _ _ d _ _ _ _ => [d]
  | .amod _ _ _ _ _ _ => []
  | .cas _ _ d _ _ _ _ => [d]
  | .putsig _ _ _ => []
  | .putsig2 _ _ _ => []
  | .arm _ _ => []
  | .waitg _ _ d _ => [d]
  | .waitm _ _ d _ => [d]
  | .waitc _ _ _ _ => []
  | .waitt _ _ d _ => [d]
  | .bar _ _ => []
  | .barg _ _ => []
  | .sig _ _ => []
  | .qres _ d _ => [d]
  | .qpub _ => []
  | .qpop _ d _ => [d]
  | .qrel _ => []
  | .qpush _ _ d _ => [d]
  | .qinfo _ d => [d]
  | .qclose _ => []
  | .tmm _ _ d _ _ => [d]
  | .tzero _ d _ => [d]
  | .tst _ _ d _ => [d]
  | .tred _ _ d _ => [d]
  | .tws _ _ d _ => [d]
  | .twsl _ _ d _ => [d]
  | .tcfg _ _ => []
  | .tcmd _ d => [d]
  | .tld _ _ d _ => [d]
  | .tacc _ _ d _ => [d]
  | .ecmd _ _ d => [d]
  | .chain _ d => [d]
  | .cstat _ _ d => [d]
  | .ccan d => [d]
  | .send _ _ => []
  | .sendb _ _ => []
  | .sendi _ _ => []
  | .cmask _ d => [d]
  | .cunm _ d => [d]
  | .rdin _ d => [d]
  | .redn _ _ => []
  | .sendw _ _ d _ => [d]
  | .spawn _ _ => []
  | .take d => [d]
  | .yield _ => []
  | .launch _ d => [d]
  | .tready _ d => [d]
  | .stagePut _ _ d => [d]
  | .stageTwin _ _ d => [d]
  | .stageMerge _ _ d => [d]
  | .stageInfo _ d => [d]
  | .stageClose _ => []
  | .gid d _ => [d]
  | .qdie _ d _ => [d]
  | .tcbq d => [d]
  | .getc d _ => [d]
  | .setc _ _ => []
  | .swpc _ d _ => [d]
  | .setcb _ d _ _ => [d]
  | .sys _ _ => []
  | .resumeTeam _ => []
  | .tret _ => []
  | .halt _ => []
  | .xinv _ _ => []
  | .xprobe _ d => [d]
  | .stamp _ d _ => [d]
  | .cyc d _ => [d]
  | .ebreak _ => []
  | .gate _ => []
  | .steal _ => []
  | .dieQueuePop _ _ => []
  | .homeAccess _ => []
  | .accessCompletion _ => []
  | .translationWalk _ _ => []
  | .translationInvalidation _ => []
  | .quarantineReturn _ => []
  | .followOnDelivery _ => []
  | .chunkCompletion _ => []
  | .ringArbitrationRound _ => []
  | .storeBudgetRefill _ _ => []
  | .messageAccept _ => []
  | .reductionContribution _ _ => []
  | .flitAgePriority _ => []
  | .launchEnqueue _ => []
  | .memberRetirement _ => []
  | .completionSignal _ => []
  | .retirementReport _ _ => []
  | .groupPlacement _ _ => []
  | .stageOverload _ _ => []
  | .kioskStageOrder _ _ _ => []
  | .writeWindow _ _ => []
  | .rowAlert _ _ => []
  | .refresh _ _ _ => []
  | .migrationPull _ _ _ => []
  | .nmGemv _ _ => []
  | .nmAxpby _ _ => []
  | .nmReduce _ _ => []
  | .nmFill _ _ => []
  | .nmCopy _ _ => []
  | .nmMigrate _ _ => []
  | .nmReply _ _ => []
  | .disturbWrite _ _ => []
  | .einjWrite _ _ => []
  | .astatWrite _ _ _ => []
  | .ecccntWrite _ _ => []
  | .sfaultWrite _ _ => []
  | .cefaultWrite _ _ => []
  | .nmstatWrite _ _ _ => []
  | .ggateWrite _ _ _ => []
  | .phaltWrite _ _ => []
  | .preqWrite _ _ _ => []
  | .registerWrite _ _ _ => []
  | .postedWrite _ _ _ => []
  | .hostRead _ _ => []
  | .extTimeout _ => []
  | .linkTraining _ _ => []
  | .stackJoin _ => []
  | .mbQuery _ => []
  | .mbLoad _ => []
  | .mbLaunch _ => []
  | .mbPartCreate _ => []
  | .mbPartResize _ => []
  | .mbPartDestroy _ => []
  | .mbAttest _ => []
  | .mbEventRead _ => []
  | .mbEventRoute _ => []
  | .illegalOpcode _ => []
  | .reservedField _ => []
  | .msiXUnmask _ _ => []
  | .stackOutOfService _ _ => []
  | .hret => []
  | .done => []
  | .nop => []
  | .rfill => []
  | .blockEnd => []
  | .dispatchSelect => []
  | .stealBackoffExpiry => []
  | .readyPush => []
  | .yieldOverrun => []
  | .preemption => []
  | .trapEntry => []
  | .portTimeout => []
  | .tagTimeout => []
  | .waitTimeout => []
  | .queueTimeout => []
  | .msgTimeout => []
  | .opcMm => []
  | .opcZero => []
  | .opcSt => []
  | .opcRed => []
  | .opcWs => []
  | .opcWsl => []
  | .opcLd => []
  | .opcAcc => []
  | .matrixCommandRetire => []
  | .copyRecord => []
  | .multicastCopy => []
  | .fillRecord => []
  | .recordLanding => []
  | .chainRetire => []
  | .inlineExecution => []
  | .stagePutApply => []
  | .powerGood => []
  | .meshSelfTest => []
  | .powerLimit => []
  | .managementRequest => []
  | .kioskEvent => []
  | .qdieExpiry => []

/-- What remains to be checked of an instruction: number 0xF01 of `sys` is `resume_team` (R414), and a refused word is one
that the decoder refuses so (R62, R63). -/
def Instr.fieldsWf : Instr → Bool
  | .sys _ n => decide (n ≠ 0xF01#12)
  | .illegalOpcode w => decide (decodeWord w = .illegalOpcode w)
  | .reservedField w => decide (decodeWord w = .reservedField w)
  | _ => true

/-- The instruction is one that a word decodes to, or a step of another agent. -/
def Instr.wf (i : Instr) : Bool := i.srcs.all Src.wf && i.dsts.all Dst.wf && i.fieldsWf

end Sys2Proof
end

