-- ==== Sys2Proof/Certificates/Slice0/Obligations.lean ====
section
/-! DEFINITION. The statements about the machine that the provers settle, family by family. -/

open Sys2Proof Sys2Proof.Machine

/-! ## Operands and results (R50–R53, R64–R65, R120–R124) -/

/-- R50, R52, R53, R121–R124: the value of every form of source operand that stands ready. -/
def Obligations.SourceOperandValues : Prop :=
  ∀ (s : State) (d : Dst),
    (∀ n, s.Ready [.one (.q n)] (.one d) →
      ∃ t, s.ctx.trellis[n.val]? = some t ∧ s.first [.one (.q n)] (.one d) = t.val) ∧
    (∀ n, s.Ready [.pair (.q n)] (.pair d) →
      ∃ lo hi, s.ctx.trellis[n.val + 1]? = some lo ∧ s.ctx.trellis[n.val]? = some hi ∧
        s.first [.pair (.q n)] (.pair d) = lo.val ∧ s.second [.pair (.q n)] (.pair d) = hi.val) ∧
    (∀ n, s.Ready [.one (.h n)] (.one d) →
      let off := 8 ≤ n.val ∧ s.bankWasOff [.one (.h n)] (.one d)
      ((s.reg n.val).cond = .present → ¬off → s.first [.one (.h n)] (.one d) = (s.reg n.val).val) ∧
      ((s.reg n.val).cond = .present → off → s.first [.one (.h n)] (.one d) = 0) ∧
      ((s.reg n.val).cond = .absent → s.savedReg s.cur n.val = some (s.first [.one (.h n)] (.one d)))) ∧
    (s.Ready [.one .z] (.one d) → s.first [.one .z] (.one d) = 0) ∧
    (s.Ready [.pair .z] (.pair d) → s.first [.pair .z] (.pair d) = 0 ∧ s.second [.pair .z] (.pair d) = 0) ∧
    (∀ p, s.Ready [.one (.port p)] (.one d) → (s.me.fifo p)[0]? = some (s.first [.one (.port p)] (.one d)) ∧
      (s.took [.one (.port p)] (.one d)).me.fifo p = (s.me.fifo p).drop 1) ∧
    (∀ p, s.Ready [.one (.port p), .one (.port p)] (.one d) →
      (s.me.fifo p)[0]? = some (s.first [.one (.port p), .one (.port p)] (.one d)) ∧
      (s.me.fifo p)[1]? = some (s.second [.one (.port p), .one (.port p)] (.one d)) ∧
      (s.took [.one (.port p), .one (.port p)] (.one d)).me.fifo p = (s.me.fifo p).drop 2)

/-- R51–R53, R123, R130: the delivery of a result to every form of destination, and the retirement of its instruction. -/
def Obligations.ResultsAreDelivered : Prop :=
  ∀ (s : State) (us : List Use) (d : Dst) (v hi : Word), s.mayRetire = true →
    (s.Ready us (.one d) →
      let t := (s.writes us d v).retired
      (∀ n, d = .h n → t.reg n.val = ⟨v, .present, none⟩) ∧
      (d = .push → t.ctx.trellis = ⟨v, none⟩ :: s.ctx.trellis.take 15) ∧
      (d ≠ .push → t.ctx.trellis = s.ctx.trellis) ∧
      (∀ p c, d = .port p → s.portPeer s.cur p = some c →
        (t.core c).fifo (oppositePort p) = (s.core c).fifo (oppositePort p) ++ [v]) ∧
      t.me.retired = s.me.retired + 1 ∧
      (s.me.inl = none → t.ctx.pc = s.ctx.pc + 4 ∧ t.ctx.ycnt = s.ctx.ycnt - 1)) ∧
    (s.Ready us (.pair d) →
      let t := (s.writesPair us d v hi).retired
      (∀ n, d = .h n → t.reg n.val = ⟨v, .present, none⟩ ∧ t.reg (n.val + 1) = ⟨hi, .present, none⟩) ∧
      (d = .push → t.ctx.trellis = ⟨hi, none⟩ :: ⟨v, none⟩ :: s.ctx.trellis.take 14) ∧
      (∀ p c, d = .port p → s.portPeer s.cur p = some c →
        (t.core c).fifo (oppositePort p) = (s.core c).fifo (oppositePort p) ++ [v, hi]))

/-- R64, R65, R120, R121: the operand checks, in their order, before any effect. -/
def Obligations.OperandChecksTrap : Prop :=
  ∀ (s : State) (i : Instr) (us : List Use) (d : Dst),
    let traps := fun (i : Instr) (c : Cause) (n : Nat) => (s.take (causeOf c 0 (wordOf n))).2 = false →
      exec i s = .next (s.take (causeOf c 0 (wordOf n))).1
    (oneResult i = some (us, d) →
      (us.any Use.bad = true ∨ (DestSpec.one d).bad = true → traps i .badOperand 0) ∧
      (us.any Use.bad = false → (DestSpec.one d).bad = false →
        ∀ (pre : List Use) (u : Use) (post : List Use), us = pre ++ u :: post → (∀ v ∈ pre, v.unread s.ctx = none) →
          (∀ n, u = .one (.q n) → s.ctx.trellis.length ≤ n.val → traps i .trellisUnderflow n.val) ∧
          (∀ n, u = .one (.h n) → (s.reg n.val).cond = .dead → traps i .deadRead n.val))) ∧
    (∀ (a : Src) (n : Fin 16), a = .h n → n.val % 2 = 1 → (DestSpec.pair d).bad = false → traps (.keep a d true) .pairAlign n.val) ∧
    (∀ (a : Src) (n : Fin 16), (Use.pair a).bad = false → (Use.pair a).odd = none → d = .h n → n.val % 2 = 1 →
      traps (.keep a d true) .pairAlign n.val)

/-- R133: the frame of the integer instructions that write one word. -/
def Obligations.RegisterInstructionsFrame : Prop :=
  ∀ (s t : State) (i : Instr) (us : List Use) (d : Dst), oneResult i = some (us, d) → s.Ready us (.one d) →
    s.mayRetire = true → exec i s = .next t →
    (∀ a, readByte t.mem a = readByte s.mem a) ∧
    { t with cores := s.cores, clusters := s.clusters } = s ∧
    (∀ c, c ≠ s.cur → (∀ p, d = .port p → s.portPeer s.cur p ≠ some c) → t.core c = s.core c) ∧
    (∃ pc ycnt regs trellis gate lost loss, t.ctx =
      { s.ctx with
        pc := pc, ycnt := ycnt, regs := regs, trellis := trellis, gate := gate, bankLost := lost, gateloss := loss, latch := none }) ∧
    (∀ n, n < 16 → (∀ m : Fin 16, d = .h m → m.val ≠ n) →
      (s.reg n = t.reg n) ∨
      ((s.reg n).cond = .absent ∧ n ∈ filledRegs us (.one d) ∧
        ∃ v, s.savedReg s.cur n = some v ∧ t.reg n = ⟨v, .present, none⟩) ∨
      ((s.reg n).cond = .present ∧ 8 ≤ n ∧ s.bankWasOff us (.one d) ∧ t.reg n = ⟨0, .present, none⟩)) ∧
    (∀ p, (∀ u ∈ us, u.src ≠ .port p) → t.me.fifo p = s.me.fifo p)

/-! ## Integer instructions (R134–R144) -/

/-- R134–R136: the integer operations at both widths, and the zero divisor. -/
def Obligations.IntegerOperationResults : Prop :=
  ∀ (s : State) (a b : Src) (d : Dst) (w : Bool), s.Ready [.one a, .one b] (.one d) →
    let x := s.first [.one a, .one b] (.one d)
    let y := s.second [.one a, .one b] (.one d)
    let next := fun v => Host.Outcome.next (s.writes [.one a, .one b] d v).retired
    let divisor := if w then (y.truncate 32).zeroExtend 64 else y
    let trap := s.take (causeOf .intDivzero 0 0)
    (s.mayRetire = true →
      exec (.add a b d w) s = next (atWidth (fun _ p q => p + q) w x y) ∧
      exec (.sub a b d w) s = next (atWidth (fun _ p q => p - q) w x y) ∧
      exec (.and a b d w) s = next (atWidth (fun _ p q => p &&& q) w x y) ∧
      exec (.or a b d w) s = next (atWidth (fun _ p q => p ||| q) w x y) ∧
      exec (.xor a b d w) s = next (atWidth (fun _ p q => p ^^^ q) w x y) ∧
      exec (.andn a b d w) s = next (atWidth (fun _ p q => p &&& ~~~q) w x y) ∧
      exec (.mul a b d w) s = next (atWidth (fun _ p q => p * q) w x y) ∧
      exec (.mulh a b d w) s = next (atWidth (fun n p q => (p.signExtend (n + n) * q.signExtend (n + n)).extractLsb' n n) w x y) ∧
      exec (.mulhu a b d w) s = next (atWidth (fun n p q => (p.zeroExtend (n + n) * q.zeroExtend (n + n)).extractLsb' n n) w x y) ∧
      exec (.sll a b d w) s = next (atWidth (fun n p q => p <<< (q.toNat % n)) w x y) ∧
      exec (.srl a b d w) s = next (atWidth (fun n p q => p >>> (q.toNat % n)) w x y) ∧
      exec (.sra a b d w) s = next (atWidth (fun n p q => p.sshiftRight (q.toNat % n)) w x y) ∧
      exec (.rol a b d w) s = next (atWidth (fun _ p q => p.rotateLeft q.toNat) w x y) ∧
      exec (.min a b d w) s = next (atWidth (fun _ p q => if p.toInt ≤ q.toInt then p else q) w x y) ∧
      exec (.max a b d w) s = next (atWidth (fun _ p q => if q.toInt ≤ p.toInt then p else q) w x y) ∧
      exec (.minu a b d w) s = next (atWidth (fun _ p q => if p.toNat ≤ q.toNat then p else q) w x y) ∧
      exec (.maxu a b d w) s = next (atWidth (fun _ p q => if q.toNat ≤ p.toNat then p else q) w x y) ∧
      exec (.slt a b d w) s = next (atWidth (fun n p q => if p.toInt < q.toInt then 1#n else 0#n) w x y) ∧
      exec (.sltu a b d w) s = next (atWidth (fun n p q => if p.toNat < q.toNat then 1#n else 0#n) w x y) ∧
      (divisor ≠ 0 →
        exec (.div a b d w) s = next (atWidth (fun _ p q => p.sdiv q) w x y) ∧
        exec (.divu a b d w) s = next (atWidth (fun _ p q => p.udiv q) w x y) ∧
        exec (.rem a b d w) s = next (atWidth (fun _ p q => p.srem q) w x y) ∧
        exec (.remu a b d w) s = next (atWidth (fun _ p q => p.umod q) w x y))) ∧
    (divisor = 0 → trap.2 = false →
      exec (.div a b d w) s = .next trap.1 ∧ exec (.divu a b d w) s = .next trap.1 ∧
      exec (.rem a b d w) s = .next trap.1 ∧ exec (.remu a b d w) s = .next trap.1)

/-- R137–R141: operations with an immediate, constants, fields taken and put bit by bit, and the operations of bitc. -/
def Obligations.ImmediateFieldAndBitResults : Prop :=
  (∀ (s : State) (a : Src) (d : Dst) (i : BitVec 13) (k : BitVec 6) (c : BitVec 19), s.mayRetire = true →
     let x := s.first [.one a] (.one d)
     let m := i.signExtend 64
     let next := fun v => Host.Outcome.next (s.writes [.one a] d v).retired
     (s.Ready [.one a] (.one d) →
       exec (.addi a d i) s = next (x + m) ∧ exec (.andi a d i) s = next (x &&& m) ∧
       exec (.ori a d i) s = next (x ||| m) ∧ exec (.xori a d i) s = next (x ^^^ m) ∧
       exec (.slli a d k) s = next (wordOf (x.toNat * 2 ^ k.toNat)) ∧
       exec (.srli a d k) s = next (wordOf (x.toNat / 2 ^ k.toNat)) ∧
       exec (.srai a d k) s = next (wordOfInt (x.toInt / 2 ^ k.toNat)) ∧
       exec (.slti a d i) s = next (if x.toInt < m.toInt then 1 else 0) ∧
       exec (.ldkx a d i) s = next (wordOf (x.toNat * 2 ^ 13 + i.toNat))) ∧
     (s.Ready [] (.one d) → exec (.ldk d c) s = .next (s.writes [] d (c.signExtend 64)).retired)) ∧
  (∀ (s : State) (a b : Src) (d : Dst) (w : BitVec 6) (z : Bool), s.mayRetire = true →
     (s.Ready [.one a] (.one d) →
       let f := (s.first [.one a] (.one d)).truncate (w.toNat + 1)
       exec (.extf a d w z) s = .next (s.writes [.one a] d (if z then f.zeroExtend 64 else f.signExtend 64)).retired) ∧
     (s.Ready [.one a, .one b] (.one d) →
       let x := s.first [.one a, .one b] (.one d)
       let p := (s.second [.one a, .one b] (.one d)).toNat % 64
       let f := (x >>> p).truncate (w.toNat + 1)
       exec (.bfx a b d w z) s = .next (s.writes [.one a, .one b] d (if z then f.zeroExtend 64 else f.signExtend 64)).retired) ∧
     (s.Ready [.one a, .one b, .one (baseOf d)] (.one d) →
       let us := [Use.one a, .one b, .one (baseOf d)]
       let v := s.first us (.one d)
       let p := (s.second us (.one d)).toNat % 64
       ∃ r : Word, exec (.ins a b d w) s = .next (s.writes us d r).retired ∧
         ∀ i, i < 64 → r.getLsbD i =
           if p ≤ i ∧ i < p + (w.toNat + 1) then v.getLsbD (i - p) else (s.third us (.one d)).getLsbD i)) ∧
  (∀ (s : State) (a : Src) (d : Dst) (o : BitVec 3) (w : Bool),
     (s.Ready [.one a] (.one d) → s.mayRetire = true → o.toNat < 5 →
       let n := if w then 32 else 64
       let x := (s.first [.one a] (.one d)).truncate n
       ∃ r : BitVec n, exec (.bitc a d o w) s = .next (s.writes [.one a] d (r.signExtend 64)).retired ∧
         (o.toNat = 0 → r = x.clz) ∧ (o.toNat = 1 → r = x.ctz) ∧ (o.toNat = 2 → r = x.cpop) ∧ (o.toNat = 3 → r = x.reverse) ∧
         (o.toNat = 4 → ∀ j, j < n / 8 → r.extractLsb' (8 * (n / 8 - 1 - j)) 8 = x.extractLsb' (8 * j) 8)) ∧
     (5 ≤ o.toNat → (s.take (causeOf .reservedField 0 0)).2 = false →
       exec (.bitc a d o w) s = .next (s.take (causeOf .reservedField 0 0)).1))

/-- R142–R144: selection, moves, clamping, and sums and differences with a carry. -/
def Obligations.SelectionAndCarryResults : Prop :=
  ∀ (s : State) (a b c : Src) (d : Dst) (w : Bool), s.mayRetire = true →
    (s.Ready [.one a, .one b, .one c] (.one d) →
      let us := [Use.one a, .one b, .one c]
      let x := s.first us (.one d)
      let y := s.second us (.one d)
      let z := s.third us (.one d)
      exec (.sel a b d c) s = .next (s.writes us d (if z = 0 then y else x)).retired ∧
      exec (.clamp a b d c false) s = .next (s.writes us d (wordOfInt (min (max x.toInt y.toInt) z.toInt))).retired ∧
      exec (.clamp a b d c true) s = .next (s.writes us d (wordOf (min (max x.toNat y.toNat) z.toNat))).retired) ∧
    (s.Ready [.one a, .one b] (.one d) →
      let x := s.first [.one a, .one b] (.one d)
      let y := s.second [.one a, .one b] (.one d)
      let next := fun v => Host.Outcome.next (s.writes [.one a, .one b] d v).retired
      exec (.seq a b d w) s = next (atWidth (fun n p q => if p = q then 1#n else 0#n) w x y) ∧
      exec (.sne a b d w) s = next (atWidth (fun n p q => if p = q then 0#n else 1#n) w x y)) ∧
    (s.Ready [.one a] (.one d) → exec (.keep a d false) s = .next (s.writes [.one a] d (s.first [.one a] (.one d))).retired) ∧
    (s.Ready [.pair a] (.pair d) →
      exec (.keep a d true) s =
        .next (s.writesPair [.pair a] d (s.first [.pair a] (.pair d)) (s.second [.pair a] (.pair d))).retired) ∧
    (s.Ready [.one a, .one b, .one c] (.pair d) →
      let us := [Use.one a, .one b, .one c]
      let n := if w then 32 else 64
      let x := ((s.first us (.pair d)).truncate n).toNat
      let y := ((s.second us (.pair d)).truncate n).toNat
      let z := (s.third us (.pair d)).toNat % 2
      exec (.addc a b d c w) s = .next (s.writesPair us d ((BitVec.ofNat n (x + y + z)).signExtend 64)
        (wordOf ((x + y + z) / 2 ^ n))).retired ∧
      exec (.subc a b d c w) s = .next (s.writesPair us d ((BitVec.ofInt n ((x : Int) - y - z)).signExtend 64)
        (if (x : Int) - y - z < 0 then 1 else 0)).retired)

/-! ## Control flow (R41–R46, R57, R146–R151) -/

/-- R45, R46, R57, R146, R147, R150: transfers of control that are taken. -/
def Obligations.TransfersEnterBlocks : Prop :=
  ∀ (s : State) (a b : Src) (n : BitVec 3) (o : BitVec 9) (j : BitVec 24) (h : Word), s.mayRetire = true →
    let arrives := fun (i : Instr) (s0 : State) (tgt : Word) (loops : List LoopEntry) (link : Option Word) =>
      s0.HeaderAt tgt h → ∃ t, exec i s = .next t ∧ s0.EntersBlock t tgt h ∧ t.ctx.loops = loops ∧
        t.me.retired = s.me.retired + 1 ∧
        (∀ k, k < 15 → t.reg k = s0.regEntered h k) ∧
        t.reg 15 = (match link with
          | some w => ⟨w, .present, none⟩
          | none => s0.regEntered h 15)
    arrives (.jmp j) s (s.target j) s.loopsLeft none ∧
    (s.ctx.loops ≠ [] → arrives (.brk j) s (s.target j) (s.ctx.loops.drop 1) none) ∧
    (s.Ready [.one a] .none →
      arrives (.jr a) (s.took [.one a] .none) (s.first [.one a] .none) s.loopsLeft none) ∧
    (s.Ready [.one a, .one b] .none →
      let x := s.first [.one a, .one b] .none
      let y := s.second [.one a, .one b] .none
      let holds := match n.toNat with
        | 0 => x = y
        | 1 => x ≠ y
        | 2 => x.toInt < y.toInt
        | 3 => y.toInt ≤ x.toInt
        | 4 => x.toNat < y.toNat
        | 5 => y.toNat ≤ x.toNat
        | 6 => x &&& y ≠ 0
        | _ => x &&& y = 0
      (holds → arrives (.br a b n o) (s.took [.one a, .one b] .none) (s.target o) s.loopsLeft none) ∧
      (¬holds → exec (.br a b n o) s = .next (s.took [.one a, .one b] .none).retired)) ∧
    (s.ctx.pc + 4 = s.ctx.blockEnd →
      let next := s.ctx.hdr + 8 + 4 * wordOf (s.ctx.len + s.ctx.len % 2)
      (s.Ready [] (.one (.h 15)) →
        arrives (.call j) (s.readied [] (.one (.h 15))) (s.target j) s.loopsLeft (some next)) ∧
      (s.Ready [.one a] (.one (.h 15)) →
        arrives (.callr a) (s.took [.one a] (.one (.h 15))) (s.first [.one a] (.one (.h 15))) s.loopsLeft (some next)))

/-- R43, R44, R62–R64: headers and targets that a transfer may not enter, and words that name no instruction. -/
def Obligations.BadHeadersAndRefusedWordsTrap : Prop :=
  (∀ (s : State) (j : BitVec 24) (a : Src) (h : Word),
     let traps := fun (i : Instr) (c : CauseRec) => (s.take c).2 = false → exec i s = .next (s.take c).1
     let tgt := s.target j
     let atHeader := fun (c : Cause) => (⟨c, 0, 0, 0, false, false, some tgt⟩ : CauseRec)
     (tgt.toNat % 8 ≠ 0 → traps (.jmp j) (causeOf .badTarget 0 0)) ∧
     (tgt.toNat % 8 = 0 → s.fetch64 s.cur s.ctx.priv tgt = .ok h →
       (fld h 58 6 ≠ 0b111110 → traps (.jmp j) (causeOf .badTarget 0 0)) ∧
       (fld h 58 6 = 0b111110 →
         (fld h 48 10 = 0 ∨ 4 < fld h 29 3 ∨ fld h 24 3 ≠ 0 → traps (.jmp j) (atHeader .badHeader)) ∧
         (fld h 48 10 ≠ 0 → fld h 29 3 ≤ 4 → fld h 24 3 = 0 →
           (fld h 27 2 = 3 → fld h 29 3 ≠ 0 ∨ fld h 36 12 ≠ 0 → traps (.jmp j) (atHeader .badHeader)) ∧
           (fld h 27 2 = 2 → fld h 29 3 ≠ 0 → traps (.jmp j) (atHeader .yieldPlacement))))) ∧
     (s.ctx.pc + 4 ≠ s.ctx.blockEnd → traps (.call j) (causeOf .callNotLast 0 0) ∧ traps (.callr a) (causeOf .callNotLast 0 0)) ∧
     (s.ctx.loops = [] → traps (.brk j) (causeOf .loopDepth 0 0))) ∧
  ((∀ w : BitVec 32, (w.extractLsb' 24 8).toNat ∈ unassignedOps → decodeWord w = .illegalOpcode w) ∧
   ∀ (s : State) (f : Nat) (h : Word) (w : BitVec 32) (k : BitVec 13) (i : Instr) (c : CauseRec),
     (i = .illegalOpcode w ∧ c = causeOf .illegalOpcode 0 0 ∨ i = .reservedField w ∧ c = causeOf .reservedField 0 0 ∨
       i = .ebreak k ∧ c = causeOf .trapSw 0 (wordOf k.toNat)) →
     ((s.take c).2 = false → exec i s = .next (s.take c).1) ∧
     (s.TakesTraps f h → ∃ t, exec i s = .next t ∧ s.TrapTaken t f h c))

/-- R148: hardware loops are entered, skipped, or refused. -/
def Obligations.HardwareLoops : Prop :=
  ∀ (s : State) (a : Src) (n : BitVec 12) (o : BitVec 9) (h : Word), s.mayRetire = true →
    let body := s.target o
    let starts := fun (i : Instr) (s0 : State) (count : Nat) =>
      (count = 0 → exec i s = .next s0.retired) ∧
      (count ≠ 0 → 4 ≤ s.ctx.loops.length → (s.take (causeOf .loopDepth 0 0)).2 = false →
        exec i s = .next (s.take (causeOf .loopDepth 0 0)).1) ∧
      (count ≠ 0 → s.ctx.loops.length < 4 → s0.HeaderAt body h → fld h 27 2 = 1 →
        ∃ t ret, exec i s = .next t ∧ s0.EntersBlock t body h ∧ (∀ k, k < 16 → t.reg k = s0.regEntered h k) ∧
          t.ctx.loops = ⟨body, count, ret, s.ctx.hdr, s.ctx.len, s.ctx.kind⟩ :: s.ctx.loops ∧
          body + wordOfInt ret = s.ctx.pc + 4) ∧
      (count ≠ 0 → s.ctx.loops.length < 4 → s0.HeaderAt body h → fld h 27 2 ≠ 1 →
        (s.take (causeOf .badTarget 0 0)).2 = false → exec i s = .next (s.take (causeOf .badTarget 0 0)).1)
    starts (.loopi n o) s n.toNat ∧
    (s.Ready [.one a] .none →
      starts (.loop a o) (s.took [.one a] .none) ((s.first [.one a] .none).toNat % 2 ^ 32))

/-- R42, R149: the end of a block. -/
def Obligations.BlockEnds : Prop :=
  ∀ (s : State) (h : Word), s.ctx.pc = s.ctx.blockEnd → s.ctx.len ≠ 0 → s.me.inl = none → s.me.wait = none →
    s.me.trapping = none → s.me.act.isSome = true →
    let next := s.ctx.hdr + 8 + 4 * wordOf (s.ctx.len + s.ctx.len % 2)
    (∀ e es, s.ctx.loops = e :: es → e.body = s.ctx.hdr → 1 < e.rem → s.HeaderAt e.body h → fld h 27 2 = 1 →
      ∃ t, exec .blockEnd s = .next t ∧ s.EntersBlock t e.body h ∧ t.ctx.loops = { e with rem := e.rem - 1 } :: es ∧
        t.me.retired = s.me.retired) ∧
    (∀ e es, s.ctx.loops = e :: es → e.body = s.ctx.hdr → e.rem ≤ 1 →
      exec .blockEnd s = .next (s.updCtx fun c =>
        { c with loops := es, pc := e.body + wordOfInt e.ret, hdr := e.hdr, len := e.len, kind := e.kind })) ∧
    ((∀ e es, s.ctx.loops = e :: es → e.body ≠ s.ctx.hdr) → s.HeaderAt next h →
      ∃ t, exec .blockEnd s = .next t ∧ s.EntersBlock t next h ∧ t.ctx.loops = s.ctx.loops ∧ t.me.retired = s.me.retired)

/-! ## Traps (R127, R211–R222) -/

/-- R213, R214: the entry of a cause that a handler takes, at once or after pending loads have come back. -/
def Obligations.TrapEntryIsMade : Prop :=
  ∀ (s : State) (f : Nat) (h : Word) (c : CauseRec), s.TakesTraps f h →
    (c.cause.direct = false → (s.take c).2 = false ∧ s.TrapTaken (s.take c).1 f h c) ∧
    (s.me.trapping = some c → ∃ t, exec .trapEntry s = .next t ∧ s.TrapTaken t f h c)

/-- R217: the return from a trap or a service. -/
def Obligations.TretReloadsTheFrame : Prop :=
  ∀ (s : State) (f : Nat) (h : Word) (e : Bool),
    let at_ := fun o => s.word (frameWord f o)
    let sup := s.ctx.priv && bit (at_ 0x158) 0
    let hdr := at_ 0x1C8
    let resume := at_ 0x100
    let mask := at_ 0x108
    (s.ctx.trap.intrap = true → s.frameKey = some f → s.frameBusy f = false → s.mayRetire = true → s.me.inl = none →
      (∀ i, i < 64 → s.tagAt (frameWord f (8 * i)) ≠ tagPoison) → s.HeaderFor sup hdr h →
      s.translateHit s.cur sup (hdr + 8) .x ≠ .miss →
      resume.toNat % 4 = 0 → hdr.toNat + 8 ≤ resume.toNat → resume.toNat ≤ hdr.toNat + 8 + 4 * fld h 48 10 →
      ∃ t, exec (.tret false) s = .next t ∧
        t.ctx.pc = resume ∧ t.ctx.hdr = hdr ∧ t.ctx.len = fld h 48 10 ∧ t.ctx.priv = sup ∧
        (∀ n, n < 16 → (fld mask n 1 = 1 → t.reg n = ⟨at_ (8 * n), .present, none⟩) ∧
          (fld mask n 1 = 0 → (t.reg n).cond = .dead)) ∧
        t.ctx.trellis = (List.range (min (fld mask 16 5) 16)).map (fun n => ⟨at_ (0x80 + 8 * n), none⟩) ∧
        t.ctx.loops.length = min (fld (at_ 0x150) 0 3) 4 ∧
        (∀ n e, t.ctx.loops[n]? = some e → e.body &&& 0xFFFFFFFFFFFFFF = at_ (0x110 + 16 * n) &&& 0xFFFFFFFFFFFFFF ∧
          e.rem % 2 ^ 32 = fld (at_ (0x118 + 16 * n)) 0 32) ∧
        t.ctx.fmt = at_ 0x160 &&& 7 ∧ t.ctx.fps = at_ 0x168 &&& 0x3FF ∧
        t.ctx.st = at_ 0x170 ∧ (fld (at_ 0x180) 0 2 ≠ 3 → t.ctx.gate = (at_ 0x180).truncate 2) ∧
        t.ctx.lsrc = at_ 0x188 ∧ t.ctx.gateloss = bit (at_ 0x158) 1 ∧
        t.ctx.trap = { s.ctx.trap with intrap := false, insys := false } ∧ t.ctx.ycnt = s.ctx.ycnt - 1 ∧ t.mem = s.mem) ∧
    (s.ctx.trap.intrap = false → (s.take (causeOf .privInstr 0 0)).2 = false →
      exec (.tret e) s = .next (s.take (causeOf .privInstr 0 0)).1)

/-- R218: the system service. -/
def Obligations.SysEntersTheService : Prop :=
  ∀ (s : State) (a : Src) (n : BitVec 12) (f : Nat) (h : Word),
    let us := [Use.one a]
    let s1 := (s.took us .none).counted fun n => n - 1
    let tgt := hdrField s.me.sysvec
    (s.ctx.pc + 4 = s.ctx.blockEnd → n.toNat < 0xF00 → s.Ready us .none → s.mayRetire = true →
      s.ctx.trap.intrap = false → bit s.me.sysvec 0 = true → s1.Enterable f true tgt h →
      ∃ t, exec (.sys a n) s = .next t ∧
        s1.EnteredHandler t f true tgt h s.ctx.blockEnd
          { s.ctx.trap with
            tcause := 0, tpc := s.ctx.pc, taddr := s.first us .none, tinfo := wordOf n.toNat, tdpc := 0, intrap := true,
            insys := true }) ∧
    (0xF00 ≤ n.toNat → s.ctx.priv = true → (s.take (causeOf .reservedField 0 0)).2 = false →
      exec (.sys a n) s = .next (s.take (causeOf .reservedField 0 0)).1) ∧
    (n.toNat < 0xF00 ∨ s.ctx.priv = false → s.ctx.pc + 4 ≠ s.ctx.blockEnd → (s.take (causeOf .callNotLast 0 0)).2 = false →
      exec (.sys a n) s = .next (s.take (causeOf .callNotLast 0 0)).1) ∧
    (s.ctx.pc + 4 = s.ctx.blockEnd → n.toNat < 0xF00 ∨ s.ctx.priv = false → s.Ready us .none →
      0xF00 ≤ n.toNat ∨ s.ctx.trap.intrap = true ∨ bit s.me.sysvec 0 = false → (s.take (causeOf .privInstr 0 0)).2 = false →
      exec (.sys a n) s = .next (s.take (causeOf .privInstr 0 0)).1)

/-! ## Memory instructions (R177–R190) -/

/-- R180, R183, R186–R190: loads, reads of tags and touches that do not wait are issued and retire. -/
def Obligations.LoadsAreIssued : Prop :=
  ∀ (s : State) (a : Src) (d : Dst) (z t : BitVec 2) (o : BitVec 8), s.mayRetire = true → s.uninjected →
    (t = 0 ∨ t = 3) → (∀ p, d ≠ .port p) →
    let us := [Use.one a]
    let n := s.me.nextId
    let k := z.toNat + 1
    (s.Ready us (.one d) → ∀ x,
      let s1 := s.readied us (.one d)
      let va := offsetFrom (s.first us (.one d)) o (2 ^ z.toNat)
      let wa := offsetFrom (s.first us (.one d)) o 8
      (s1.accepts va (2 ^ z.toNat) .r x → s1.takes [x.place] →
        exec (.ld a d z t o) s =
          .next (((s.took us (.one d)).loading (t == 3) [(.load (2 ^ z.toNat), va, x)]).awaiting d n).retired) ∧
      (s1.accepts wa 8 .r x → s1.takes [x.place] →
        exec (.tagr a d o) s = .next (((s.took us (.one d)).loading false [(.tagRead, wa, x)]).awaiting d n).retired)) ∧
    (s.Ready us (.pair d) → ∀ x y,
      let s1 := s.readied us (.pair d)
      let va := offsetFrom (s.first us (.pair d)) o 8
      s1.accepts va 16 .r x → s1.accepts (va + 8) 8 .r y → s1.takes [x.place, y.place] →
      exec (.ldp a d t o) s =
        .next (((s.took us (.pair d)).loading (t == 3) [(.load 8, va, x), (.load 8, va + 8, y)]).awaitingRun d [n, n + 1]).retired) ∧
    (s.Ready us (.run d k) → ∀ xs : List Xlated, xs.length = k →
      let s1 := s.readied us (.run d k)
      let va := offsetFrom (s.first us (.run d k)) o 8
      (∀ i x, xs[i]? = some x → s1.accepts (va + wordOf (8 * i)) 8 .r x) → s1.takes (xs.map fun x => x.place) →
      exec (.ldm a d z t o) s =
        .next (((s.took us (.run d k)).loading (t == 3)
          (xs.zipIdx.map fun p => (.load 8, va + wordOf (8 * p.2), p.1))).awaitingRun d
            ((List.range k).map fun i => n + i)).retired) ∧
    (s.Ready us .none → ∀ x,
      let s1 := s.readied us .none
      let va := offsetFrom (s.first us .none) o (2 ^ z.toNat)
      s1.accepts va (2 ^ z.toNat) .r x → s1.takes [x.place] →
      exec (.touch a z o) s = .next ((s.took us .none).issuing .touch va x true false false false).retired)

/-- R180, R183, R185–R189: stores and writes of tags that do not wait are issued and retire. -/
def Obligations.StoresAreIssued : Prop :=
  ∀ (s s2 : State) (a b : Src) (z t : BitVec 2) (o : BitVec 8), s.mayRetire = true → (t = 0 ∨ t = 2) →
    (s.Ready [.one a, .one b] .none → ∀ x,
      let us := [Use.one a, .one b]
      let s1 := s.readied us .none
      let n := 2 ^ z.toNat
      let va := offsetFrom (s.first us .none) o n
      let wa := offsetFrom (s.first us .none) o 8
      let v := s.second us .none
      (s1.accepts va n .w x → s1.takes [x.place] → s1.spendAll (clusterOf s.cur) [(va, x.place, n)] = .ok s2 →
        exec (.st a b z t o) s = .next ((s2.popped us).storing (t == 2) [(n, va, v, x)]).retired) ∧
      (s1.accepts wa 8 .w x →
        (v.extractLsb' 0 2 ≠ 3#2 ∨ s.ctx.priv = true → s1.takes [x.place] →
          s1.spendAll (clusterOf s.cur) [(wa, x.place, 8)] = .ok s2 →
          exec (.tagw a b o) s =
            .next ((s2.popped us).issuing (.tagWrite (v.extractLsb' 0 2)) wa x false true false false).retired) ∧
        (v.extractLsb' 0 2 = 3#2 → s.ctx.priv = false → (s.take (causeOf .privReg 0 0)).2 = false →
          exec (.tagw a b o) s = .next (s.take (causeOf .privReg 0 0)).1))) ∧
    (s.Ready [.one a, .pair b] .none → ∀ x y,
      let us := [Use.one a, .pair b]
      let s1 := s.readied us .none
      let va := offsetFrom (s.first us .none) o 8
      s1.accepts va 16 .w x → s1.accepts (va + 8) 8 .w y → s1.takes [x.place, y.place] →
      s1.spendAll (clusterOf s.cur) [(va, x.place, 8), (va + 8, y.place, 8)] = .ok s2 →
      exec (.stp a b t o) s = .next ((s2.popped us).storing (t == 2)
        [(8, va, s.second us .none, x), (8, va + 8, s.third us .none, y)]).retired) ∧
    (∀ r : Fin 16, b = .h r → r.val + z.toNat + 1 ≤ 16 →
      let k := z.toNat + 1
      let us := Use.one a :: (List.range k).map fun i => Use.one (.h (Fin.ofNat 16 (r.val + i)))
      s.Ready us .none → ∀ xs : List Xlated, xs.length = k →
      let s1 := s.readied us .none
      let va := offsetFrom (s.first us .none) o 8
      (∀ i x, xs[i]? = some x → s1.accepts (va + wordOf (8 * i)) 8 .w x) → s1.takes (xs.map fun x => x.place) →
      s1.spendAll (clusterOf s.cur) (xs.zipIdx.map fun p => (va + wordOf (8 * p.2), p.1.place, 8)) = .ok s2 →
      exec (.stm a b z t o) s = .next ((s2.popped us).storing (t == 2)
        (xs.zipIdx.map fun p => (8, va + wordOf (8 * p.2), (s1.me.vals [] us).getD (1 + p.2) 0, p.1))).retired)

/-- R180, R187, R188: alignment of every memory instruction. -/
def Obligations.MisalignedAccessesTrap : Prop :=
  ∀ (s : State) (a b : Src) (d : Dst) (z t : BitVec 2) (o : BitVec 8),
    let traps := fun (i : Instr) (va : Word) (size : Nat) => va.toNat % size ≠ 0 →
      (s.take (causeOf .align va (wordOf size))).2 = false → exec i s = .next (s.take (causeOf .align va (wordOf size))).1
    let n := 2 ^ z.toNat
    let k := z.toNat + 1
    let refused := fun (i : Instr) => (s.take (causeOf .reservedField 0 0)).2 = false →
      exec i s = .next (s.take (causeOf .reservedField 0 0)).1
    (s.Ready [.one a] (.one d) → s.me.wait = none → (∀ p, d ≠ .port p) →
      traps (.ld a d z t o) (offsetFrom (s.first [.one a] (.one d)) o n) n ∧
      traps (.tagr a d o) (offsetFrom (s.first [.one a] (.one d)) o 8) 8) ∧
    (s.Ready [.one a] .none → traps (.touch a z o) (offsetFrom (s.first [.one a] .none) o n) n) ∧
    (s.Ready [.one a, .one b] .none →
      (t ≠ 3 → traps (.st a b z t o) (offsetFrom (s.first [.one a, .one b] .none) o n) n) ∧
      traps (.tagw a b o) (offsetFrom (s.first [.one a, .one b] .none) o 8) 8) ∧
    (s.Ready [.one a] (.pair d) → s.me.wait = none → (t = 0 ∨ t = 3) →
      traps (.ldp a d t o) (offsetFrom (s.first [.one a] (.pair d)) o 8) 16) ∧
    (s.Ready [.one a, .pair b] .none → (t = 0 ∨ t = 2) →
      traps (.stp a b t o) (offsetFrom (s.first [.one a, .pair b] .none) o 8) 16) ∧
    (s.Ready [.one a] (.run d k) → (t = 0 ∨ t = 3) →
      traps (.ldm a d z t o) (offsetFrom (s.first [.one a] (.run d k)) o 8) 8) ∧
    (s.Ready (stmUses a b k) .none → (t = 0 ∨ t = 2) →
      traps (.stm a b z t o) (offsetFrom (s.first (stmUses a b k) .none) o 8) 8) ∧
    (t ≠ 0 → t ≠ 3 → refused (.ldp a d t o) ∧ refused (.ldm a d z t o)) ∧
    (t ≠ 0 → t ≠ 2 → refused (.stp a b t o) ∧ refused (.stm a b z t o))

/-- R37, R177, R178, R183, R184: accesses performed at a scratchpad home, and their return to the core. -/
def Obligations.HomesPerformAccesses : Prop :=
  ∀ (s : State) (acc k n : Nat) (v : Word) (untagged : Bool) (x : Access), s.Canonical →
    s.me.flight.find? (fun a => a.id = acc) = some x → x.live = true → x.inl = false →
    (x.state = .issued → s.mayPerform s.cur x = true → s.place (dieOf s.cur) x.pa = .spad k → x.migrating = false →
      s.quietAt k → 0 < n → k % 8 + n ≤ 8 →
      ∃ t, exec (.homeAccess acc) s = .next t ∧
        let stateOf := fun st => t.me.flight = s.me.flight.map fun a => if a.id = acc then { a with state := st } else a
        let same := t.mem = s.mem ∧ t.tags = s.tags
        (x.op = .load n → same ∧
          (s.tagAt k ≠ tagPoison → stateOf (.performed (BitVec.ofNat 64 (readBytes s.mem k n)) 0)) ∧
          (s.tagAt k = tagPoison → stateOf (.failed .memPoison x.va 0))) ∧
        (x.op = .store n v untagged →
          (s.tagAt k = tagArrival → same ∧ stateOf (.failed .tagMismatch x.va 2)) ∧
          (s.tagAt k = tagPoison → n < 8 ∨ untagged = true → same ∧ stateOf (.failed .memPoison x.va 0)) ∧
          (s.tagAt k ≠ tagArrival → (s.tagAt k ≠ tagPoison ∨ n = 8 ∧ untagged = false) →
            stateOf (.performed 0 0) ∧
            (∀ a, readByte t.mem a =
              if k ≤ a ∧ a < k + n then BitVec.ofNat 8 (v.toNat / 256 ^ (a - k)) else readByte s.mem a) ∧
            (∀ a, t.tagAt a = if a / 8 ≠ k / 8 then s.tagAt a
              else if untagged = true ∧ s.tagAt k = tagEmpty then tagEmpty else tagFull)))) ∧
    (∀ w fl, x.state = .performed w fl → s.me.inl = none →
      ∃ t, exec (.accessCompletion acc) s = .next t ∧ t.mem = s.mem ∧
        t.me.flight = s.me.flight.filter (fun b => b.id != acc) ∧
        (∀ r, r < 16 → t.reg r = if (s.reg r).pend = some acc then ⟨w, (s.reg r).cond, none⟩ else s.reg r) ∧
        t.ctx.trellis = (s.ctx.trellis.map fun e => if e.pend = some acc then ⟨w, none⟩ else e) ∧
        t.ctx.fps = s.ctx.fps ||| fl.zeroExtend 64)

/-- R178, R179: tagged loads and stores on a word of each tag. -/
def Obligations.TaggedAccessesWait : Prop :=
  ∀ (s : State) (a b : Src) (d : Dst) (z : BitVec 2) (o : BitVec 8) (x : Xlated) (k : Nat), s.Canonical → s.mayRetire = true →
    s.me.wait = none → x.place = .spad k → s.quietAt k → k % 8 + 2 ^ z.toNat ≤ 8 →
    let n := 2 ^ z.toNat
    let traps := fun (i : Instr) (c : Cause) (va info : Word) => (s.take (causeOf c va info)).2 = false →
      exec i s = .next (s.take (causeOf c va info)).1
    let waits := fun (i : Instr) (va : Word) (op : ParkOp) => ownPrivate s.cur x.place = true →
      ∃ t, exec i s = .next t ∧ t.mem = s.mem ∧ t.tags = s.tags ∧ t.me.retired = s.me.retired ∧
        t.parked = s.parked ++ [⟨s.cur, k, va, op, x.gen⟩] ∧ t.me.wait.isSome = true ∧ (∀ p, t.me.fifo p = s.me.fifo p)
    (s.Ready [.one a] (.one d) → s.me.armed = false →
      let us := [Use.one a]
      let s1 := s.readied us (.one d)
      let va := offsetFrom (s.first us (.one d)) o n
      let v := BitVec.ofNat 64 (readBytes s.mem k n)
      s1.accepts va n .r x → s1.mustWait x.strong x.pa = false →
      (s.tagAt k = tagFull →
        exec (.ld a d z 1 o) s = .next (s.writes us d v).retired ∧
        ∃ t, exec (.ld a d z 2 o) s = .next t ∧ t.mem = s.mem ∧ t.me = (s.writes us d v).retired.me ∧
          (∀ w, t.tagAt w = if w / 8 = k / 8 then tagEmpty else s.tagAt w)) ∧
      (s.tagAt k = tagEmpty → waits (.ld a d z 1 o) va (.wfull n) ∧ waits (.ld a d z 2 o) va (.consume n)) ∧
      (s.tagAt k = tagArrival → traps (.ld a d z 1 o) .tagMismatch va 2 ∧ traps (.ld a d z 2 o) .tagMismatch va 2) ∧
      (s.tagAt k = tagPoison → traps (.ld a d z 1 o) .memPoison va 0 ∧ traps (.ld a d z 2 o) .memPoison va 0)) ∧
    (s.Ready [.one a, .one b] .none →
      let us := [Use.one a, .one b]
      let s1 := s.readied us .none
      let va := offsetFrom (s.first us .none) o n
      let v := s.second us .none
      s1.accepts va n .w x → s1.mustWait x.strong x.pa = false →
      (s.tagAt k = tagEmpty →
        ∃ t, exec (.st a b z 1 o) s = .next t ∧ t.me = (s.took us .none).retired.me ∧
          (∀ w, readByte t.mem w =
            if k ≤ w ∧ w < k + n then BitVec.ofNat 8 (v.toNat / 256 ^ (w - k)) else readByte s.mem w) ∧
          (∀ w, t.tagAt w = if w / 8 = k / 8 then tagFull else s.tagAt w)) ∧
      (s.tagAt k = tagFull → waits (.st a b z 1 o) va (.produce n v)) ∧
      (s.tagAt k = tagArrival → traps (.st a b z 1 o) .tagMismatch va 2) ∧
      (s.tagAt k = tagPoison → traps (.st a b z 1 o) .memPoison va 0))

/-! ## Atomics and signalling writes (R191–R200) -/

/-- R180, R183, R191, R194, R195, R198–R200: atomics and signalling writes are issued and retire. -/
def Obligations.AtomicsAreIssued : Prop :=
  ∀ (s s2 : State) (a b c : Src) (d : Dst) (p : BitVec 4) (z g q xq : Bool), s.mayRetire = true → (∀ p, d ≠ .port p) →
    let n := if z then 4 else 8
    let id := s.me.nextId
    let refused := fun i : Instr => (s.take (causeOf .reservedField 0 0)).2 = false →
      exec i s = .next (s.take (causeOf .reservedField 0 0)).1
    (p = 15 ∨ z = true ∧ 12 ≤ p.toNat →
      refused (.amo a b p z g q) ∧ refused (.amor a b d p z g q) ∧ refused (.amod a b p z g q)) ∧
    (s.Ready [.one a, .one b] .none → ∀ x,
      let us := [Use.one a, .one b]
      let s1 := s.readied us .none
      let va := s.first us .none
      let v := s.second us .none
      (p ≠ 15 → (z = true → p.toNat < 12) → s1.accepts va n .w x → s1.takes [x.place] →
        s1.spendAll (clusterOf s.cur) [(va, x.place, n)] = .ok s2 →
        exec (.amo a b p z g false) s =
          .next ((s2.popped us).issuing (.atomic p n v g false) va x false true false false).retired ∧
        (s.me.wait = none → exec (.amo a b p z g true) s =
          .next ((s2.issuing (.atomic p n v g false) va x false true true true).updMe fun k =>
            { k with wait := some { plainWait .loads with vals := [(id, none)] } }))) ∧
      (p ≠ 15 → (z = true → p.toNat < 12) → ∀ y, s.me.wait = some y → y.what = .loads → (∀ v ∈ y.vals, v.2.isSome = true) →
        exec (.amo a b p z g true) s = .next (s.took us .none).retired) ∧
      (s1.accepts va 8 .w x → s1.takes [x.place] → s1.spendAll (clusterOf s.cur) [(va, x.place, 8)] = .ok s2 →
        exec (.arm a b) s = .next ((s2.popped us).issuing (.arm v) va x false true false false).retired ∧
        exec (.sig a b) s =
          .next ((s2.popped us).issuing (.arrive v.toNat v.toNat) va x false true false false).retired)) ∧
    (s.Ready [.one a, .one b] (.one d) → ∀ x,
      let us := [Use.one a, .one b]
      let s1 := s.readied us (.one d)
      let va := s.first us (.one d)
      p ≠ 15 → (z = true → p.toNat < 12) → s1.accepts va n .w x → s1.takes [x.place] →
      s1.spendAll (clusterOf s.cur) [(va, x.place, n)] = .ok s2 →
      exec (.amor a b d p z g q) s = .next (((s2.popped us).issuing (.atomic p n (s.second us (.one d)) g true) va x
        true true q q).awaiting d id).retired) ∧
    (s.Ready [.one a, .pair b] (.one d) → ∀ x,
      let us := [Use.one a, .pair b]
      let s1 := s.readied us (.one d)
      let va := s.first us (.one d)
      s1.accepts va n .w x → s1.takes [x.place] → s1.spendAll (clusterOf s.cur) [(va, x.place, n)] = .ok s2 →
      exec (.cas a b d z g xq q) s = .next (((s2.popped us).issuing (.cas n (s.second us (.one d)) (s.third us (.one d)) g)
        va x true true q xq).awaiting d id).retired) ∧
    (s.Ready [.pair a, .one b] .none → ∀ x y w,
      let us := [Use.pair a, .one b]
      let s1 := s.readied us .none
      let va := s.first us .none
      let rd := s.second us .none
      p ≠ 15 → (z = true → p.toNat < 12) → s1.accepts va n .w x → s1.accepts rd 8 .w y → s1.accepts (rd + 8) 8 .w w →
      s1.takes [x.place] → s1.spendAll (clusterOf s.cur) [(va, x.place, n), (rd, y.place, 8)] = .ok s2 →
      exec (.amod a b p z g q) s = .next ((s2.popped us).issuing (.atomicTo p n (s.third us .none) g y.part rd w.part) va
        { x with gen := min x.gen (min y.gen w.gen) } false true q q).retired) ∧
    (s.Ready [.one a, .one b, .one c] .none → ∀ x y,
      let us := [Use.one a, .one b, .one c]
      let s1 := s.readied us .none
      let va := s.first us .none
      let arr := s.third us .none
      s1.accepts va 8 .w x → s1.accepts arr 8 .w y → s1.takes [x.place] →
      s1.spendAll (clusterOf s.cur) [(va, x.place, 8)] = .ok s2 →
      exec (.putsig a b c) s = .next ((s2.popped us).issuing (.pay (s.second us .none) none y.part arr) va
        { x with gen := min x.gen y.gen } false true false false).retired) ∧
    (s.Ready [.one a, .pair b, .one c] .none → ∀ x y w,
      let us := [Use.one a, .pair b, .one c]
      let s1 := s.readied us .none
      let va := s.first us .none
      let arr := (s1.me.vals [] us).getD 3 0
      s1.accepts va 16 .w x → s1.accepts (va + 8) 8 .w w → s1.accepts arr 8 .w y → s1.takes [x.place] →
      s1.spendAll (clusterOf s.cur) [(va, x.place, 16)] = .ok s2 →
      exec (.putsig2 a b c) s = .next ((s2.popped us).issuing (.pay (s.second us .none) (some (s.third us .none)) y.part arr)
        va { x with gen := min x.gen y.gen } false true false false).retired)

/-- R191, R192, R195–R198: atomics, compares, arms and arrivals performed at a scratchpad home, but for the ready push of a dependence word. -/
def Obligations.AtomicsAndArrivalsAtTheirHome : Prop :=
  (∀ (s : State) (acc k : Nat) (x : Access), s.Canonical → s.me.flight.find? (fun a => a.id = acc) = some x →
     x.state = .issued → s.mayPerform s.cur x = true → s.place (dieOf s.cur) x.pa = .spad k → x.migrating = false →
     s.quietAt k →
     ∃ t, exec (.homeAccess acc) s = .next t ∧
       let stateOf := fun st => t.me.flight = s.me.flight.map fun a => if a.id = acc then { a with state := st } else a
       let same := t.mem = s.mem ∧ t.tags = s.tags
       let stored := fun (n : Nat) (v : Nat) (tag : BitVec 2) =>
         (∀ a, readByte t.mem a = if k ≤ a ∧ a < k + n then BitVec.ofNat 8 (v / 256 ^ (a - k)) else readByte s.mem a) ∧
         (∀ a, t.tagAt a = if a / 8 = k / 8 then tag else s.tagAt a)
       (∀ (p : BitVec 4) (z : Bool) (b : Word) (g ret : Bool), x.op = .atomic p (if z then 4 else 8) b g ret → k % (if z then 4 else 8) = 0 →
         let n := if z then 4 else 8
         let old := readBytes s.mem k n
         let o := BitVec.ofNat (8 * n) old
         let y := BitVec.ofNat (8 * n) b.toNat
         let nw := match p.toNat with
           | 0 => o + y
           | 1 => o &&& y
           | 2 => o ||| y
           | 3 => o ^^^ y
           | 4 => if o.sle y then o else y
           | 5 => if y.sle o then o else y
           | 6 => if o.ule y then o else y
           | 7 => if y.ule o then o else y
           | _ => y
         (s.tagAt k = tagEmpty ∨ s.tagAt k = tagFull → p.toNat < 9 →
           stateOf (.performed (BitVec.ofNat 64 old) 0) ∧ stored n nw.toNat tagFull) ∧
         (s.tagAt k = tagPoison → same ∧ stateOf (.failed .memPoison x.va 0)) ∧
         (s.tagAt k = tagArrival → ¬(p = 0 ∧ g = true ∧ z = false) → same ∧ stateOf (.failed .tagMismatch x.va 2))) ∧
       (∀ (z : Bool) (cmp nv : Word) (g : Bool), x.op = .cas (if z then 4 else 8) cmp nv g → k % (if z then 4 else 8) = 0 →
         let n := if z then 4 else 8
         let old := readBytes s.mem k n
         (s.tagAt k = tagEmpty ∨ s.tagAt k = tagFull → stateOf (.performed (BitVec.ofNat 64 old) 0) ∧
           (old = cmp.toNat % 256 ^ n → stored n nv.toNat tagFull) ∧ (old ≠ cmp.toNat % 256 ^ n → same)) ∧
         (s.tagAt k = tagPoison → same ∧ stateOf (.failed .memPoison x.va 0)) ∧
         (s.tagAt k = tagArrival → same ∧ stateOf (.failed .tagMismatch x.va 2))) ∧
       (∀ v, x.op = .arm v → k % 8 = 0 →
         let bad := fld v 62 2 = 3 ∨ fld v 27 27 = 0 ∨ fld v 27 27 ≤ fld v 0 27
         (bad → same ∧ stateOf (.failed .arrivalMode x.va v)) ∧
         (¬bad → stateOf (.performed 0 0) ∧ stored 8 v.toNat tagArrival))) ∧
  (∀ (s : State) (acc k bytes other : Nat) (x : Access), s.Canonical → s.me.flight.find? (fun a => a.id = acc) = some x →
     x.op = .arrive bytes other → x.state = .issued → s.mayPerform s.cur x = true → s.place (dieOf s.cur) x.pa = .spad k →
     x.migrating = false → s.quietAt k → k % 8 = 0 →
     ∃ t, exec (.homeAccess acc) s = .next t ∧ t.tags = s.tags ∧ (∀ a, a < k ∨ k + 8 ≤ a → readByte t.mem a = readByte s.mem a) ∧
       let w := s.word k
       let count := fld w 0 27
       let goal := fld w 27 27
       let mode := fld w 62 2
       let n := if mode = 1 then bytes else other
       let stateOf := fun st => t.me.flight = s.me.flight.map fun a => if a.id = acc then { a with state := st } else a
       let fails := fun c v => t.mem = s.mem ∧ stateOf (.failed c x.va v)
       (s.tagAt k ≠ tagArrival → fails .tagMismatch ((s.tagAt k).zeroExtend 64)) ∧
       (s.tagAt k = tagArrival →
         (mode = 3 ∨ 2 ^ 27 ≤ n → fails .arrivalMode w) ∧
         (mode ≠ 3 → n < 2 ^ 27 → count + n < goal → stateOf (.performed 0 0) ∧
           fld (t.word k) 0 27 = count + n ∧ fld (t.word k) 27 37 = fld w 27 37) ∧
         (mode ≠ 3 → n < 2 ^ 27 → goal ≤ count + n → 2 * goal ≤ count + n → fails .arrivalOverrun w) ∧
         (mode ≠ 3 → mode ≠ 2 → n < 2 ^ 27 → goal ≤ count + n → count + n < 2 * goal → stateOf (.performed 0 0) ∧
           fld (t.word k) 0 27 = count + n - goal ∧ fld (t.word k) 27 27 = goal ∧
           fld (t.word k) 54 8 = (fld w 54 8 + 1) % 256 ∧ fld (t.word k) 62 2 = mode)))

/-! ## Waits, barriers and timeouts (R202–R206, R123, R179) -/

/-- R184, R202, R205: the counted wait, and waiting for a timeline of a context. -/
def Obligations.CountedWaitsAndTimelines : Prop :=
  (∀ (s : State) (l st c t : BitVec 6), s.mayRetire = true →
     let fits := fun (n : Nat) (lim : BitVec 6) => lim = 63 ∨ n ≤ lim.toNat ∨ 62 ≤ lim.toNat
     let k := s.me
     let all := fits k.loadsOut l ∧ fits k.storesOut st ∧ fits ((k.act.map fun a => a.chLive).getD 0) c ∧
       fits ((k.act.map fun a => a.mxLive).getD 0) t
     ((∀ a ∈ k.flight, a.failed? = false) → k.causes = [] →
       (all → exec (.waitc l st c t) s =
         .next (if l = 0 ∧ st = 0 ∧ c = 0 ∧ t = 0 then s.updMe fun k => { k with ibuf := [] } else s).retired) ∧
       (¬all → k.wait = none → exec (.waitc l st c t) s = .next (s.updMe fun k => { k with wait := some (plainWait .drain) }))) ∧
     let failed := fun a : Access => a.live && a.failed? && ((l != 63 && a.isLoad) || (st != 63 && a.isStore))
     let held := fun e : EngineCause => c ≠ 63 ∧ e.ctx = .ch ∨ t ≠ 63 ∧ e.ctx = .mx
     (∀ a, k.flight.find? failed = some a → (∀ e ∈ k.causes, held e → a.id < e.after) →
       ((s.drop (.access a.id)).take a.deferred).2 = false →
       exec (.waitc l st c t) s = .next ((s.drop (.access a.id)).take a.deferred).1) ∧
     (∀ i e, k.causes[i]? = some e → held e → (∀ a, k.flight.find? failed = some a → e.after ≤ a.id) →
       (∀ j e', k.causes[j]? = some e' → held e' → e.after < e'.after ∨ e.after = e'.after ∧ i ≤ j) →
       ((s.drop (.engine i)).take e.what).2 = false →
       exec (.waitc l st c t) s = .next ((s.drop (.engine i)).take e.what).1)) ∧
  (∀ (s : State) (a b : Src) (d : Dst) (l : BitVec 7),
     let us := [Use.one a, .one b]
     let h := s.first us (.one d)
     let v := s.second us (.one d)
     s.Ready us (.one d) → s.mayRetire = true → s.me.causes = [] → s.me.wait = none →
     let reach := fun t : Word =>
       (v.toNat ≤ t.toNat → exec (.waitt a b d l) s = .next (s.writes us d t).retired) ∧
       (t.toNat < v.toNat → ∃ t, exec (.waitt a b d l) s = .next t ∧ t.mem = s.mem ∧ t.me.retired = s.me.retired ∧
         (∀ p, t.me.fifo p = s.me.fifo p) ∧ ∃ y, t.me.wait = some y ∧ y.what = .timeline ∧ y.bounded = (l != 0x7F#7))
     (h = 0 → reach (wordOf s.me.mx.retired + (s.me.act.map fun a => a.mxOffset).getD 0)) ∧
     (h = 1 → reach (wordOf s.me.chan.retired + (s.me.act.map fun a => a.chOffset).getD 0)) ∧
     (∀ c n, c < 8 → n < 12 → h = wordOf (2 + 4 * c + 256 * n) →
       (∃ ch, ch < 32 ∧ s.blob.channels.contains (n * 32 + ch) = false) →
       reach (wordOf (vget NmCtx.reset (s.stack n).ctxs c).retired)) ∧
     ((fld h 0 2 = 3 ∨ fld h 5 3 ≠ 0 ∨ fld h 12 52 ≠ 0 ∨ (fld h 0 2 < 2 ∧ 4 ≤ h.toNat) ∨ (fld h 0 2 = 2 ∧ 12 ≤ fld h 8 4)) →
       (s.take (causeOf .badOperand 0 0)).2 = false →
       exec (.waitt a b d l) s = .next (s.take (causeOf .badOperand 0 0)).1))

/-- R203, R204: watching a word. -/
def Obligations.WordsAreWatched : Prop :=
  ∀ (s : State) (a b : Src) (d : Dst) (l : BitVec 7) (x : Xlated) (k : Nat),
    let us := [Use.one a, .one b]
    let s1 := s.readied us (.one d)
    let va := s.first us (.one d)
    let m := s.second us (.one d)
    let w := s.word k
    let traps := fun (i : Instr) (c : Cause) (info : Word) => (s.take (causeOf c va info)).2 = false →
      exec i s = .next (s.take (causeOf c va info)).1
    let waits := fun (i : Instr) (op : ParkOp) => ownPrivate s.cur x.place = true →
      ∃ t, exec i s = .next t ∧ t.mem = s.mem ∧ t.tags = s.tags ∧ t.me.retired = s.me.retired ∧
        t.parked = s.parked ++ [⟨s.cur, k, va, op, x.gen⟩] ∧ (∀ p, t.me.fifo p = s.me.fifo p) ∧
        ∃ y, t.me.wait = some y ∧ y.what = .watch ∧ y.bounded = (l != 0x7F#7)
    s.Ready us (.one d) → s.mayRetire = true → s.me.wait = none → s1.accepts va 8 .r x → x.place = .spad k → s.quietAt k →
    k % 8 = 0 → s1.mustWait x.strong x.pa = false →
    (s.tagAt k = tagArrival →
      ((fld w 54 8 + 256 - fld m 0 8) % 256 < 128 → exec (.waitg a b d l) s = .next (s.writes us d w).retired) ∧
      (128 ≤ (fld w 54 8 + 256 - fld m 0 8) % 256 → waits (.waitg a b d l) (.gen (m.truncate 8)))) ∧
    (s.tagAt k = tagEmpty → traps (.waitg a b d l) .tagMismatch 0) ∧
    (s.tagAt k = tagFull → traps (.waitg a b d l) .tagMismatch 1) ∧
    (s.tagAt k = tagPoison → traps (.waitg a b d l) .memPoison 0 ∧ traps (.waitm a b d l) .memPoison 0) ∧
    (s.tagAt k ≠ tagPoison →
      (w &&& m = m → exec (.waitm a b d l) s = .next (s.writes us d w).retired) ∧
      (w &&& m ≠ m → waits (.waitm a b d l) (.mask m)))

/-- R206: the barriers of a team and of a group. -/
def Obligations.BarriersJoinMembers : Prop :=
  ∀ (s : State) (a : Src) (l : BitVec 7) (grp : Bool) (la g t r : Nat) (x : Launch) (b : Barrier) (cores live : List Nat),
    let i := if grp then Instr.barg a l else .bar a l
    let us := [Use.one a]
    let s1 := s.readied us .none
    let tag := s.first us .none
    let arr := b.arrived ++ [(s.cur, tag)]
    let put := fun b' => s1.setLaunch la (x.setBarrier g t grp b')
    s.Ready us .none → s.mayRetire = true → s.me.wait = none → (∀ a ∈ s.me.flight, a.failed? = false) → s.me.causes = [] →
    s.me.storesOut = 0 →
    ((if grp then s.ctx.lgroup else s.ctx.lteam) = 0 → (s.take (causeOf .barrierMismatch 0 0)).2 = false →
      exec i s = .next (s.take (causeOf .barrierMismatch 0 0)).1) ∧
    ((if grp then s.ctx.lgroup else s.ctx.lteam) ≠ 0 → s.me.member? = some (la, g, t, r) → s.launch? la = some x →
      x.barrier g t grp = some (b, cores, live) → live.length = cores.length → s.cur ∈ cores →
      (∀ p ∈ b.arrived, p.1 ≠ s.cur) → s.cur ∉ b.leaving → (∀ p ∈ b.broken, p.1 ≠ s.cur) →
      (grp = true ∨ bit (s.word (s.descKey s.cur s.ctx.lteam)) 11 = false) →
      (arr.length < cores.length → exec i s =
        .next ((put { b with arrived := arr }).updMe fun k =>
          { k with wait := some ⟨.barrier grp, l != 0x7F#7, 0, 0, .no, true, 0, .none, []⟩ })) ∧
      (cores.length ≤ arr.length → (∀ p ∈ b.arrived, p.2 = tag) → exec i s =
        .next ((put { b with arrived := [], leaving := (b.leaving ++ cores).filter fun c => c != s.cur }).popped us).retired) ∧
      (cores.length ≤ arr.length → (∃ p ∈ b.arrived, p.2 ≠ tag) → exec i s =
        .next ((put { b with arrived := [], broken := without s.cur (b.broken ++ arr.map fun p => (p.1, 1)) }).take
          (causeOf .barrierMismatch 0 1)).1))

/-- R58, R123, R130, R179, R203–R206, R209: the expiry of bounded waits, and the yield overrun. -/
def Obligations.BoundedWaitsExpire : Prop :=
  (∀ (s : State) (w : Wait), s.me.wait = some w →
    let raises := fun (i : Instr) (c : Cause) (addr info : Word) => (s.take (causeOf c addr info)).2 = false →
      exec i s = .next (s.take (causeOf c addr info)).1
    (w.bounded = true → w.served = .no →
      (∀ p wr, w.what = .port p wr → raises .portTimeout .portTimeout 0 w.info) ∧
      (w.what = .tagged ∨ w.what = .produce → raises .tagTimeout .tagTimeout w.addr 0) ∧
      (w.what = .watch → raises .waitTimeout .waitTimeout w.addr (s.word w.slot)) ∧
      (w.what = .timeline → raises .waitTimeout .waitTimeout 0 (s.timeline w.info)) ∧
      (∀ grp la g t r x b cores live, w.what = .barrier grp → s.me.member? = some (la, g, t, r) → s.launch? la = some x →
        x.barrier g t grp = some (b, cores, live) → (∃ p ∈ b.arrived, p.1 = s.cur) → s.mateSuspended s.cur grp = false →
        let s' := s.setLaunch la (x.setBarrier g t grp { b with arrived := b.arrived.filter fun p => p.1 != s.cur })
        (s'.take (causeOf .waitTimeout 0 0)).2 = false →
        exec .waitTimeout s = .next (s'.take (causeOf .waitTimeout 0 0)).1) ∧
      (w.what = .queue ∨ w.what = .stagePut ∧ s.putHeld s.cur s.me.outerCtx.priv = true →
        raises .queueTimeout .queueTimeout w.addr
          (((s.word (w.slot + 16)).truncate 32 ++ (s.word (w.slot + 24)).truncate 32 : BitVec 64))) ∧
      (w.what = .reply → raises .msgTimeout .msgTimeout 0 w.info)) ∧
    (w.bounded = false → ∀ i, i ∈ [Instr.portTimeout, .tagTimeout, .waitTimeout, .queueTimeout, .msgTimeout, .qdieExpiry] →
      exec i s = .next s)) ∧
  (∀ s : State, s.me.inl = none →
    (s.ctx.ycnt = 0 → exec .nop s = .next (s.updCtx fun x => { x with spent := true })) ∧
    (s.me.act.isSome = true → s.ctx.spent = true →
      let u := s.updCtx fun x => { x with spent := false }
      (u.take (causeOf .yieldOverrun 0 0)).2 = false →
      exec .yieldOverrun s = .next (u.take (causeOf .yieldOverrun 0 0)).1))

/-! ## Queues (R208–R210) -/

/-- R208, R209: reservation, pop, inquiry, closing and release; publication of a slot, alone and as the second part of a push. -/
def Obligations.QueueInstructionsComplete : Prop :=
  (∀ (s : State) (a : Src) (d : Dst) (l : BitVec 7) (x : Xlated) (q : Nat),
     let us := [Use.one a]
     let w := fun i => s.word (q + 8 * i)
     let count := fld (w 1) 0 32
     let size := fld (w 1) 32 16
     let slot := fun pos : Word => w 0 + wordOf (pos.toNat % count * size * 8)
     let info : Word := (w 2).truncate 32 ++ (w 3).truncate 32
     let closed := bit (w 4) 2
     s.Canonical → s.mayRetire = true → s.me.wait = none → x.place = .spad q → (∀ i, i < 8 → s.tagAt (q + 8 * i) ≠ tagPoison) →
     q % 64 = 0 → (∀ i, i < 8 → s.quietAt (q + 8 * i)) → bit (w 4) 0 = false →
     fld (w 1) 48 16 = 0 → fld (w 4) 3 61 = 0 → (∃ j, count = 2 ^ j) → 1 ≤ size → size ≤ 8 →
     (s.Ready us (.one d) →
       let s1 := s.readied us (.one d)
       let va := s.first us (.one d)
       let waits := fun i : Instr => ∃ t, exec i s = .next t ∧ t.mem = s.mem ∧ t.me.retired = s.me.retired ∧
         (∀ p, t.me.fifo p = s.me.fifo p) ∧ ∃ y, t.me.wait = some y ∧ y.what = .queue ∧ y.bounded = (l != 0x7F#7)
       let closes := fun i : Instr => (s.take (causeOf .queueClosed va info)).2 = false →
         exec i s = .next (s.take (causeOf .queueClosed va info)).1
       s1.mustWait x.strong x.pa = false →
       (s1.accepts va 64 .w x →
         (closed = false → (w 3 - w 2).toNat < count →
           exec (.qres a d l) s = .next (((s1.write (q + 24) 8 (w 3 + 1)).popped us).deliver d (slot (w 3))).retired) ∧
         (closed = false → count ≤ (w 3 - w 2).toNat → waits (.qres a d l)) ∧
         (closed = true → closes (.qres a d l))) ∧
       (s1.accepts va 64 .r x →
         (∀ y k, s1.accepts (slot (w 2)) 8 .r y → y.place = .spad k → s1.mustWait y.strong y.pa = false →
           ¬(closed = true ∧ w 2 = w 6) →
           (s.tagAt k = tagFull → exec (.qpop a d l) s =
             .next (((if bit (w 4) 1 then (s1.popped us).updCtx fun c => { c with st := s.word k } else s1.popped us).deliver d
               (slot (w 2))).retired)) ∧
           (s.tagAt k = tagEmpty → waits (.qpop a d l))) ∧
         (closed = true → w 2 = w 6 → closes (.qpop a d l)) ∧
         exec (.qinfo a d) s = .next (s.writes us d info).retired)) ∧
     (s.Ready us .none → (∀ a ∈ s.me.flight, a.failed? = false) → s.me.causes = [] →
       let s1 := s.readied us .none
       let va := s.first us .none
       s1.mustWait x.strong x.pa = false → s1.accepts va 64 .w x →
       (closed = false → ∃ t, exec (.qclose a) s = .next t ∧ t.me = (s.took us .none).retired.me ∧ t.tags = s.tags ∧
         t.word (q + 48) = w 3 ∧ t.word (q + 32) = w 4 ||| 4 ∧
         (∀ b, b / 8 ≠ (q + 48) / 8 → b / 8 ≠ (q + 32) / 8 → s.Canonical → readByte t.mem b = readByte s.mem b)) ∧
       (closed = true → exec (.qclose a) s = .next (s.took us .none).retired) ∧
       (∀ y, s.me.loadsOut = 0 → s1.takes [x.place] → s1.takes [y.place] → s1.accepts (slot (w 2)) 8 .w y →
         exec (.qrel a) s =
           .next ((s.took us .none).issuing (.release x.part) (slot (w 2))
             { y with gen := min x.gen y.gen } false true false false).retired))) ∧
  (∀ (s : State) (a b : Src) (d : Dst) (l : BitVec 7), s.Canonical → s.mayRetire = true →
     (∀ a ∈ s.me.flight, a.failed? = false) →
     let published := fun (t : State) (k : Nat) =>
       (∀ c, readByte t.mem c = if k ≤ c ∧ c < k + 8 then BitVec.ofNat 8 (s.ctx.st.toNat / 256 ^ (c - k)) else readByte s.mem c) ∧
       (∀ c, t.tagAt c = if c / 8 = k / 8 then tagFull else s.tagAt c)
     (s.Ready [.one a] .none → s.me.storesOut = 0 → s.me.wait = none → ∀ x k,
       let s1 := s.readied [.one a] .none
       let va := s.first [.one a] .none
       s1.accepts va 8 .w x → x.place = .spad k → k % 8 = 0 → s.quietAt k → s1.mustWait x.strong x.pa = false →
       (s.tagAt k = tagEmpty → ∃ t, exec (.qpub a) s = .next t ∧ published t k ∧ t.me = (s.took [.one a] .none).retired.me) ∧
       (s.tagAt k = tagFull → ownPrivate s.cur x.place = true → ∃ t, exec (.qpub a) s = .next t ∧ t.mem = s.mem ∧
         t.tags = s.tags ∧ t.parked = s.parked ++ [⟨s.cur, k, va, .produce 8 s.ctx.st, x.gen⟩] ∧ t.me.retired = s.me.retired ∧
         t.me.wait.isSome = true)) ∧
     (s.Ready [.one a, .one b] (.one d) →
       let us := [Use.one a, .one b]
       let s1 := s.readied us (.one d)
       let va := s.first us (.one d)
       (∀ s2 x q, s.me.wait = none → s.me.storesOut = 0 → s1.accepts va 64 .w x → x.place = .spad q → s1.mustWait x.strong x.pa = false → q % 64 = 0 →
         (∀ i, i < 8 → s.tagAt (q + 8 * i) ≠ tagPoison) → (∀ i, i < 8 → s.quietAt (q + 8 * i)) →
         let w := fun i => s.word (q + 8 * i)
         let count := fld (w 1) 0 32
         let size := fld (w 1) 32 16
         let slot := w 0 + wordOf ((w 3).toNat % count * size * 8)
         bit (w 4) 0 = false → bit (w 4) 2 = false → fld (w 1) 48 16 = 0 → fld (w 4) 3 61 = 0 → (∃ j, count = 2 ^ j) →
         1 ≤ size → size ≤ 8 → (w 3 - w 2).toNat < count →
         ∃ w', w'.what = .produce ∧ w'.slot = slot.toNat ∧ w'.bounded = false ∧
           (size = 1 → exec (.qpush a b d l) s =
             .next ((s1.write (q + 24) 8 (w 3 + 1)).updMe fun k => { k with wait := some w' })) ∧
           (∀ y, 2 ≤ size → s1.accepts (slot + 8) 8 .w y → s1.takes [y.place] →
             s1.spendAll (clusterOf s.cur) [(slot + 8, y.place, 8)] = .ok s2 → exec (.qpush a b d l) s =
             .next (((s2.write (q + 24) 8 (w 3 + 1)).issuing (.store 8 (s.second us (.one d)) false) (slot + 8) y
               false true false false).updMe fun k => { k with wait := some w' }))) ∧
       (∀ w x k, s.me.wait = some w → w.what = .produce → w.served = .no → w.begun = false → s.me.storesOut = 0 →
         s1.accepts (wordOf w.slot) 8 .w x → x.place = .spad k → k % 8 = 0 → s.quietAt k →
         s1.mustWait x.strong x.pa = false → s.tagAt k = tagEmpty →
         ∃ t, exec (.qpush a b d l) s = .next t ∧ published t k ∧ t.me = (s.writes us d (wordOf w.slot)).retired.me)))

/-! ## Copy channels (R258–R270) -/

/-- R259, R268–R270: the instructions of the copy channel. -/
def Obligations.CopyChannelInstructions : Prop :=
  ∀ (s : State) (a b : Src) (d : Dst), s.mayRetire = true →
    let ch := s.me.chan
    let busy := (ch.inbox.head?.map fun m => !m.runs.isEmpty).getD false
    let queued := ch.inbox.length - (if busy then 1 else 0)
    let seen := fun v : Nat => wordOf v + (s.me.act.map fun a => a.chOffset).getD 0
    let traps := fun (i : Instr) (c : CauseRec) => (s.take c).2 = false → exec i s = .next (s.take c).1
    (s.Ready [.one a] (.one d) →
      let va := s.first [.one a] (.one d)
      let v := ch.issued + 1
      let m : ChCmd := ⟨va, s.ctx.st, s.ctx.priv, s.ctx.pc, v, true, s.me.nextId, [], 0, false⟩
      (va.toNat % 64 ≠ 0 → traps (.chain a d) (causeOf .align va 64)) ∧
      (va.toNat % 64 = 0 → queued < 8 →
        exec (.chain a d) s = .next (((s.took [.one a] (.one d)).updMe fun k => { k with
          chan := { k.chan with inbox := k.chan.inbox ++ [m], issued := v }
          act := k.act.map fun a => { a with chLive := a.chLive + 1, chLast := seen v } }).deliver d (seen v)).retired) ∧
      (va.toNat % 64 = 0 → 8 ≤ queued → s.me.wait = none →
        exec (.chain a d) s =
          .next ((s.readied [.one a] (.one d)).updMe fun k => { k with wait := some (plainWait .drain) }))) ∧
    (s.Ready [.one a, .one b] (.one d) →
      let us := [Use.one a, .one b]
      let h := s.first us (.one d)
      let item := s.second us (.one d)
      let answers := fun v : Word => exec (.cstat a b d) s = .next (s.writes us d v).retired
      (h = 0 → item = 0 → answers (wordOf s.me.mx.retired + (s.me.act.map fun a => a.mxOffset).getD 0)) ∧
      (h = 1 → item = 0 → answers (seen ch.retired)) ∧
      (h = 0 → item = 1 → answers ((s.me.act.map fun a => a.mxLast).getD 0)) ∧
      (h = 1 → item = 1 → answers ((s.me.act.map fun a => a.chLast).getD 0)) ∧
      (h = 1 → item = 2 → ∃ v, answers v ∧ bit v 0 = busy ∧ bit v 1 = !ch.held.isEmpty ∧
        fld v 2 4 = min queued 8 ∧ fld v 6 2 = 0 ∧
        fld v 8 8 = min ((s.me.act.map fun a => a.chPoison).getD 0) 255 ∧ fld v 16 48 = 0) ∧
      (∀ c n, c < 8 → n < 12 → h = wordOf (2 + 4 * c + 256 * n) →
        (∃ i, i < 32 ∧ s.blob.channels.contains (n * 32 + i) = false) →
        (item = 0 → answers (wordOf (vget NmCtx.reset (s.stack n).ctxs c).retired)) ∧
        (∀ x, item = 1 → s.me.act = some x →
          (∀ (pre : List NmIssued) (y : NmIssued) (post : List NmIssued), x.nm = pre ++ y :: post → y.stack = n → y.ctx = c →
            (∀ z ∈ post, z.stack ≠ n ∨ z.ctx ≠ c) → answers (wordOf y.value)) ∧
          ((∀ z ∈ x.nm, z.stack ≠ n ∨ z.ctx ≠ c) → answers 0)) ∧
        (item = 2 → traps (.cstat a b d) (causeOf .badOperand 0 0))) ∧
      (2 < item.toNat ∨ (h = 0 ∧ item = 2) ∨ fld h 0 2 = 3 → traps (.cstat a b d) (causeOf .badOperand 0 0))) ∧
    (s.Ready [] (.one d) →
      let v := ((ch.inbox.filter fun m => m.owned).getLast?.map fun m => seen m.value).getD (seen ch.retired)
      exec (.ccan d) s = .next (((s.took [] (.one d)).updMe fun k => { k with
        flight := k.flight.filter fun a => !a.isChan
        chan := { k.chan with
          inbox := k.chan.inbox.map fun m => if m.owned then { m with cancelled := true, runs := [] } else m
          held := k.chan.held.filter fun f => !ch.inbox.any fun m => m.owned && m.value == f.value }
        act := k.act.map fun a => { a with chLast := v } }).deliver d v).retired)

/-- R260–R264, R271: transfer records without indirection whose words lie in scratchpad. -/
def Obligations.TransferRecordsRun : Prop :=
  ∀ (s : State) (m : ChCmd) (rest : List ChCmd), s.Canonical → s.me.chan.inbox = m :: rest → m.cancelled = false →
    let event := fun op : Nat => if op = 0 then Instr.copyRecord else if op = 1 then .multicastCopy else .fillRecord
    let at_ := fun (c : Nat) (va : Word) (right : Right) (k : Nat) (x : Xlated) =>
      s.translateHit c m.sup va right = .ok x ∧ x.place = .spad k ∧ x.mig = false ∧ s.chBehind s.cur m x.part = false
    let goes := fun (va : Word) (write : Bool) (k : Nat) (e : Option Access) =>
      (bypasses s.cur (.spad k) = true ∧ e = none) ∨
        (bypasses s.cur (.spad k) = false ∧ ∃ a, s.mark? s.cur va write = some a ∧ a.injected = true ∧ e = some a)
    (∀ (key : Nat → Nat) (ms : List Nat) (e : Option Access), m.runs = [] →
      (∀ i, i < 8 → (∃ x, at_ s.cur (m.first + wordOf (8 * i)) .r (key i) x) ∧ s.tagAt (key i) ≠ tagPoison) →
      let r : Rec := (List.range 8).map fun i => BitVec.ofNat 64 (readBytes s.mem (key i) 8)
      let op := recOp (r.w 0)
      r.bad = false → r.misaligned = none → (op = 1 → s.members s.cur 0 (fld (r.w 2) 0 12) = some ms) →
      (goes m.first false (key 0) e → exec (event op) s = .next ((s.unmark s.cur e).updHead s.cur fun m => { m with
        runs := [{ va := m.first, words := r, done := 0, total := 8 * r.xw * (r.yn + 1) * (r.zn + 1), planes := 0
                   plane := r.w 1, members := if op = 1 then ms else [s.cur], pieces := [], chunks := [], final := []
                   landed := false, passed := false, cleared := false, before := [], stained := [] }] })) ∧
      (bypasses s.cur (.spad (key 0)) = false → s.mark? s.cur m.first false = none → s.me.ringCount < 32 →
        ∃ t a, exec (event op) s = .next t ∧ t.me.chan = s.me.chan ∧ t.mem = s.mem ∧ t.me.flight = s.me.flight ++ [a] ∧
          a.op = .chan 64 false ∧ a.va = m.first ∧ a.injected = false)) ∧
    (∀ (u : ChRun) (src : Nat → Nat) (dst : Nat → Nat → Nat) (e : Option Access), m.runs = [u] →
      let r : Rec := u.words
      let op := recOp (r.w 0)
      op ≤ 2 → r.lbs = 0 → 1 ≤ r.xw → Rec.next r = 0 →
      let coords := fun p : Nat => (p % r.xw, p / r.xw % (r.yn + 1), p / (r.xw * (r.yn + 1)))
      let toVa := fun (p i : Nat) => r.dst + wordOfInt (8 * ((coords p).2.2 : Int) * r.dsz +
        8 * (((coords p).2.1 : Int) * r.dsy + (coords p).1) + 8 * (i : Int))
      (u.pieces = [] → u.done < u.total → u.done % 8 = 0 →
        let p := u.done / 8
        let n := min (r.xw - (coords p).1) (64 - p % 64)
        let srcs := fun i : Nat => u.plane + wordOfInt (8 * (((coords p).2.1 : Int) * r.ssy + (coords p).1 + (i : Int)))
        (op ≠ 2 → u.planes ≤ (coords p).2.2 → exec (event op) s = .next (s.updRun s.cur 0 fun u => { u with
          planes := (coords p).2.2 + 1, plane := r.w 1 + wordOfInt (8 * ((coords p).2.2 : Int) * r.ssz) })) ∧
        (op = 2 ∨ (coords p).2.2 < u.planes →
          (op ≠ 2 → goes (srcs 0) false (src 0) e ∧ ∀ i, i < n → s.tagAt (src i) ≠ tagPoison ∧ SMap.find u.before (src i) = none ∧
            ∃ x, at_ s.cur (srcs i) .r (src i) x) →
          (op ≠ 2 → ∀ c i, c ∈ u.members → i < n → (∃ x, at_ c (toVa p i) .w (dst c i) x) ∧ ∀ j, j < n → src j ≠ dst c i) →
          ∃ t, exec (event op) s = .next t ∧ t.mem = s.mem ∧ t.tags = s.tags ∧
            t.me.chan.inbox = { m with runs := [{ u with
              done := u.done + 8 * n
              pieces := if u.members = [] then [] else [⟨u.done, (List.range n).map fun i =>
                some (if op = 2 then r.w 1 else BitVec.ofNat 64 (readBytes s.mem (src i) 8)), u.members, false⟩] }] } :: rest)) ∧
      (∀ (q : ChPiece) (c : Nat), u.total ≤ u.done → u.pieces = [q] → q.left = [c] → c ∈ u.members → u.members.Nodup →
        let n := q.vals.length
        (∀ i, i < n → (∃ x, at_ c (toVa (q.start / 8) i) .w (dst c i) x) ∧ dst c i % 8 = 0 ∧ s.tagAt (dst c i) ≠ tagArrival ∧
          s.quietAt (dst c i) ∧
          (bypasses s.cur (.spad (dst c i)) = true ∨
            ∃ a, s.mark? s.cur (toVa (q.start / 8) 0) true = some a ∧ a.injected = true)) →
        (∀ i j, i < n → j < n → dst c i = dst c j → i = j) → (coords (q.start / 8)).1 + n ≤ r.xw →
        ∃ t u', exec (event op) s = .next t ∧ t.me.chan.inbox = { m with runs := [u'] } :: rest ∧ u'.pieces = [] ∧
          u'.words = u.words ∧ u'.done = u.done ∧
          (∀ i v, i < n → q.vals[i]? = some (some v) → t.word (dst c i) = v ∧ t.tagAt (dst c i) = tagFull) ∧
          (∀ i, i < n → q.vals[i]? = some none → t.word (dst c i) = s.word (dst c i) ∧ t.tagAt (dst c i) = tagPoison) ∧
          (∀ a, (∀ i, i < n → a < dst c i ∨ dst c i + 8 ≤ a) → readByte t.mem a = readByte s.mem a)))

/-- R253, R265–R267, R270: completion, landing, follow-on delivery and retirement. -/
def Obligations.TransferRecordsComplete : Prop :=
  ∀ (s : State) (m : ChCmd) (rest : List ChCmd), s.Canonical → s.me.chan.inbox = m :: rest →
    let at_ := fun (va : Word) (right : Right) (k : Nat) => ∃ x, s.translateHit s.cur m.sup va right = .ok x ∧
      x.place = .spad k ∧ x.mig = false ∧ s.chBehind s.cur m x.part = false
    let goes := fun (va : Word) (write : Bool) (k : Nat) (e : Option Access) =>
      (bypasses s.cur (.spad k) = true ∧ e = none) ∨
        (bypasses s.cur (.spad k) = false ∧ ∃ a, s.mark? s.cur va write = some a ∧ a.injected = true ∧ e = some a)
    (∀ (u : ChRun) (e : Option Access) (k : Nat), m.runs = [u] → u.members = [s.cur] → u.cleared = false →
      let r : Rec := u.words
      let done := recDone (r.w 0)
      (∀ n, u.landed = false → (s.cur, n) ∉ u.chunks → 512 * n < u.total → min u.total (512 * n + 512) ≤ u.wrote s.cur →
        let note := fun u : ChRun => { u with chunks := (s.cur, n) :: u.chunks }
        (∀ t, done = 1 → at_ r.tgt .w k → goes r.tgt true k e →
          s.arrive (.spad k) (min 512 (u.total - 512 * n)) 0 m.stamp = .ok t →
          exec (.chunkCompletion n) s = .next ((t.unmark s.cur e).updRun s.cur 0 note)) ∧
        (done = 2 → at_ (r.tgt + wordOf (8 * (n / 64))) .w k → goes (r.tgt + wordOf (8 * (n / 64))) true k e → k % 8 = 0 →
          s.tagAt k = tagEmpty ∨ s.tagAt k = tagFull → s.quietAt k →
          ∃ t, exec (.chunkCompletion n) s = .next t ∧ t.me = ((s.unmark s.cur e).updRun s.cur 0 note).me ∧
            t.word k = s.word k ||| wordOf (2 ^ (n % 64)) ∧ t.tagAt k = tagFull ∧
            ∀ a, a / 8 ≠ k / 8 → readByte t.mem a = readByte s.mem a)) ∧
      (u.landed = false → u.passed = false → u.total ≤ u.done → u.pieces = [] →
        done = 0 ∨ (∀ n, 512 * n < u.total → (s.cur, n) ∈ u.chunks) →
        (done ≠ 1 ∨ s.cur ∈ u.final → exec .recordLanding s = .next (s.updRun s.cur 0 fun u => { u with landed := true })) ∧
        (∀ t, done = 1 → s.cur ∉ u.final → at_ r.tgt .w k → goes r.tgt true k e → s.arrive (.spad k) 0 1 m.stamp = .ok t →
          exec .recordLanding s =
            .next ((t.unmark s.cur e).updRun s.cur 0 fun u => { u with final := s.cur :: u.final }))) ∧
      (u.landed = true → u.passed = false →
        (r.foff = 0 → exec .recordLanding s = .next (s.updRun s.cur 0 fun u => { u with passed := true })) ∧
        (∀ key : Nat → Nat, r.foff ≠ 0 → recFmc (r.w 0) = false → s.inPart s.me.pid.toNat (recFcore (r.w 0)) = true →
          s.me.chan.undelivered m < 4 → goes (u.va + wordOf (32 * r.foff)) false (key 0) e →
          (∀ i, i < 4 → at_ (u.va + wordOf (32 * r.foff) + wordOf (8 * i)) .r (key i) ∧ s.tagAt (key i) ≠ tagPoison) →
          let g := fun i => BitVec.ofNat 64 (readBytes s.mem (key i) 8)
          let f : Follow := ⟨recFcore (r.w 0), g 0, g 1, g 2, g 3, m.stamp, m.pc, m.sup, m.value, u.va⟩
          exec .recordLanding s = .next (((s.unmark s.cur e).updRun s.cur 0 fun u => { u with passed := true }).updMe fun k =>
            { k with chan := { k.chan with held := k.chan.held ++ [f] } }))) ∧
      (u.passed = true → (∀ f ∈ s.me.chan.held, f.record = u.va → f.value ≠ m.value) → at_ u.va .w k → goes u.va true k e →
        k % 8 = 0 → s.tagAt k ≠ tagArrival → s.quietAt k →
        ∃ t, exec .recordLanding s = .next t ∧
          t.me = ((s.unmark s.cur e).updRun s.cur 0 fun u => { u with cleared := true }).me ∧
          t.word k = r.w 0 &&& 0x7FFFFFFFFFFFFFFF ∧ ∀ a, a / 8 ≠ k / 8 → readByte t.mem a = readByte s.mem a)) ∧
    (∀ (pre post : List Follow) (f : Follow), s.me.chan.held = pre ++ f :: post → (∀ g ∈ pre, g.core ≠ f.core) →
      s.follows f.core = true →
      let c : MxCmd := ⟨f.w0, f.w1, f.w2, f.w3, f.stamp, some s.cur, f.pc, f.sup, f.value, false, 0, 0, false⟩
      ∃ t, exec (.followOnDelivery pre.length) s = .next t ∧
        (t.core f.core).mx.inbox = (s.core f.core).mx.inbox ++ [c] ∧ t.me.chan.held = pre ++ post ∧
        t.me.chan.inbox = (s.me.chan.inbox.map fun m => if m.value = f.value then { m with out := m.out + 1 } else m) ∧
        t.mem = s.mem ∧ t.tags = s.tags) ∧
    ((∀ u ∈ m.runs, u.cleared = true) → (∀ f ∈ s.me.chan.held, f.value ≠ m.value) → m.out = 0 →
      (m.cancelled = true ∨ ∃ u, m.runs.getLast? = some u ∧ Rec.next u.words = 0) →
      (∀ x, s.me.susp = some x → x.ending = none) →
      ∃ t, exec .chainRetire s = .next t ∧ t.me.chan.inbox = rest ∧ t.me.chan.retired = s.me.chan.retired + 1 ∧
        t.mem = s.mem ∧ t.me.act = if m.owned then s.me.act.map fun a => { a with chLive := a.chLive - 1 } else s.me.act)

/-! ## Messages (R281–R302) -/

/-- R287, R288, R295–R297: the sends. -/
def Obligations.MessagesAreSent : Prop :=
  ∀ (s : State) (a b : Src) (d : Dst) (l : BitVec 7) (dests : List Nat), s.mayRetire = true →
    let traps := fun (i : Instr) (c : Cause) (info : Word) => (s.take (causeOf c 0 info)).2 = false →
      exec i s = .next (s.take (causeOf c 0 info)).1
    let len := fun e : Word => if fld e 48 3 = 0 then 8 else fld e 48 3
    let tidy := fun e : Word => bit e 47 = false ∧ bit e 51 = false ∧ fld e 57 7 = 0 ∧ (bit e 46 = true → fld e 44 2 = 0)
    let classOk := fun e : Word => fld e 52 5 < 24 ∨ (fld e 52 5 = 31 ∧ s.ctx.priv = true ∧ s.me.inl = none)
    let inlineOk := fun e : Word => ∀ i, s.me.inl = some i → i.sent = false ∧ bit e 46 = false ∧ fld e 32 14 = i.msg.src
    let goesTo := fun e : Word => if bit e 46 then s.members s.cur 2 (fld e 32 12) = some dests
      else dests = [fld e 32 14] ∧ (s.inPart s.me.pid.toNat (fld e 32 14) = true ∨ (fld e 52 5 = 31 ∧ fld e 32 14 = 0x3FFF))
    let msg := fun (e : Word) (inl : Bool) (ws : List Word) => (⟨fld e 52 5, e.truncate 32, s.cur, inl, s.ctx.st, ws⟩ : Message)
    let open_ := fun m : Message => ∀ c ∈ dests, c = 0x3FFF ∨ (s.core c).hasRoom m = true ∨
      (c ≠ s.cur ∧ ∀ f ∈ s.msgs, f.dest = c → f.msg.cls ≠ m.cls)
    let sent := fun (t : State) (m : Message) =>
      State.updMe { t with msgs := s.msgs ++ dests.map fun c => Flight.mk c m false } fun k =>
        { k with inl := k.inl.map fun i => { i with sent := true } }
    let ready := fun (e : Word) (inl : Bool) (ws : List Word) =>
      tidy e ∧ classOk e ∧ inlineOk e ∧ goesTo e ∧ open_ (msg e inl ws)
    let words := fun (us : List Use) (e : Word) => match b with
      | .z => List.replicate (len e) (0 : Word)
      | _ => ((s.readied us .none).me.vals [] us).drop 1
    (∀ e us, (b = .z ∧ us = [Use.one a] ∨ ∃ n, b = .h n ∧ n.val + len e ≤ 16 ∧
          us = .one a :: (List.range (len e)).map fun i => .one (.h (Fin.ofNat 16 (n.val + i)))) →
      (s.Ready us .none → s.first us .none = e → ready e false (words us e) →
        exec (.send a b) s = .next (sent (s.took us .none) (msg e false (words us e))).retired) ∧
      (s.Ready us (.one d) → s.first us (.one d) = e → s.me.wait = none → bit e 46 = false →
        let ws := match b with
          | .z => List.replicate (len e) (0 : Word)
          | _ => ((s.readied us (.one d)).me.vals [] us).drop 1
        ready e false ws →
        exec (.sendw a b d l) s = .next ((sent (s.readied us (.one d)) (msg e false ws)).updMe fun k =>
          { k with wait := some ⟨.reply, l != 0x7F#7, e, wordOf (fld e 0 32), .no, true, 0, .one d, []⟩ }))) ∧
    (∀ (w : Wait) (pre : List Message) (m : Message) (post : List Message),
      s.Ready [] (.one d) → s.me.wait = some w → w.what = .reply → s.me.disp.inbox = pre ++ m :: post →
      let answers := fun m : Message => m.cls = fld w.addr 52 5 ∧ m.src = fld w.addr 32 14 ∧ m.tag.toNat = fld w.addr 0 32
      answers m → (∀ x ∈ pre, ¬answers x) →
      exec (.sendw a b d l) s = .next ((((s.updMe fun k => { k with disp := { k.disp with inbox := pre ++ post } }).popped
        [.one a]).deliver d (m.payload.getD 0 0)).retired)) ∧
    (s.Ready [.one a, .one b] .none → (b = .z ∨ ∃ n, b = .h n) →
      let us := [Use.one a, .one b]
      let e := s.first us .none
      ∀ w ws, s.me.wait = some w → w.what = .loads → w.vals.map Prod.snd = ws.map some → w.vals.length = len e →
        (∀ x ∈ s.me.flight, x.failed? = false) →
        (ready e false ws → exec (.sendb a b) s = .next (sent (s.took us .none) (msg e false ws)).retired) ∧
        (3 ≤ len e → ready e true ws → exec (.sendi a b) s = .next (sent (s.took us .none) (msg e true ws)).retired) ∧
        (len e < 3 → traps (.sendi a b) .badOperand 0)) ∧
    (s.Ready [.one a] .none → b = .z → s.me.inl = none →
      let e := s.first [.one a] .none
      (¬tidy e → traps (.send a b) .reservedField 0) ∧
      (tidy e → ¬classOk e → traps (.send a b) .msgClass (wordOf (fld e 52 5))) ∧
      (tidy e → classOk e → bit e 46 = true → s.members s.cur 2 (fld e 32 12) = none →
        traps (.send a b) .mcGroupInvalid (wordOf (fld e 32 12))) ∧
      (tidy e → classOk e → bit e 46 = false → s.inPart s.me.pid.toNat (fld e 32 14) = false →
        (fld e 52 5 ≠ 31 ∨ fld e 32 14 ≠ 0x3FFF) → traps (.send a b) .msgDest (wordOf (fld e 32 14)))) ∧
    (s.Ready [.one a] (.one d) → b = .z → s.me.wait = none → bit (s.first [.one a] (.one d)) 46 = true →
      traps (.sendw a b d l) .badOperand 0)

/-- R283, R284, R288–R294, R298, R302: the rest of the message instructions, and the events of messages. -/
def Obligations.MessagesArriveAndReduce : Prop :=
  ∀ (s : State) (a b : Src) (d : Dst),
    let traps := fun (i : Instr) (c : Cause) (info : Word) => (s.take (causeOf c 0 info)).2 = false →
      exec i s = .next (s.take (causeOf c 0 info)).1
    (s.Ready [.one a] (.one d) → s.mayRetire = true →
      let us := [Use.one a]
      let v := s.first us (.one d)
      let sets := fun (i : Instr) (f : BitVec 32 → BitVec 32) => v &&& 0x80FFFFFF = v → bit v 31 = false ∨ s.ctx.priv = true →
        exec i s = .next (((s.took us (.one d)).updMe fun k => { k with cmask := f k.cmask }).deliver d
          (s.me.cmask.zeroExtend 64)).retired
      sets (.cmask a d) (fun o => o ||| v.truncate 32) ∧ sets (.cunm a d) (fun o => o &&& ~~~(v.truncate 32)) ∧
      (v &&& 0x80FFFFFF ≠ v → traps (.cmask a d) .reservedField 0 ∧ traps (.cunm a d) .reservedField 0) ∧
      (v &&& 0x80FFFFFF = v → bit v 31 = true → s.ctx.priv = false →
        traps (.cmask a d) .privReg 0x200 ∧ traps (.cunm a d) .privReg 0x200) ∧
      (s.me.disp.current = none → traps (.rdin a d) .privInstr 0) ∧
      (∀ m, s.me.disp.current = some m →
        let answers := fun w : Word => exec (.rdin a d) s = .next (s.writes us d w).retired
        (v = 0 → ∃ h, answers h ∧ fld h 0 32 = m.tag.toNat ∧ fld h 32 14 = m.src % 2 ^ 14 ∧ fld h 46 9 = 0 ∧
          bit h 55 = m.inl ∧ fld h 56 3 = m.payload.length % 8 ∧ fld h 59 5 = m.cls % 32) ∧
        (v = 1 → answers m.stamp) ∧ (2 ≤ v.toNat → answers (m.payload.getD (v.toNat - 2) 0)))) ∧
    (s.Ready [.one a, .pair b] .none → s.mayRetire = true →
      let us := [Use.one a, .pair b]
      let t := fld (s.first us .none) 0 8
      let cl := clusterOf s.cur
      let w := (s.rtree cl t).1
      let mine := bit w 20 = true ∧ bit w (4 + s.cur % 16) = true
      let stands := ∃ c ∈ (s.router cl).waiting, c.tree = t ∧ c.isCore = true ∧ c.which = s.cur % 16
      (s.me.wait = none → mine → ¬stands →
        exec (.redn a b) s = .next (((s.readied us .none).updRouter cl fun r =>
          { r with waiting := r.waiting ++
            [⟨t, true, s.cur % 16, (WsPair.val ⟨s.second us .none, s.third us .none⟩).make.1, s.ctx.st⟩] }).updMe fun k =>
              { k with wait := some { plainWait .reduction with begun := true } })) ∧
      (∀ y, s.me.wait = some y → y.what = .reduction → ¬stands → exec (.redn a b) s = .next (s.took us .none).retired) ∧
      (s.me.wait = none → ¬mine → traps (.redn a b) .rtTreeInvalid (wordOf t))) ∧
    (∀ (pre : List Flight) (f : Flight) (post : List Flight), s.msgs = pre ++ f :: post →
      let prio := fun x : Flight => s.classPrio (clusterOf x.dest) x.msg.cls
      exec (.flitAgePriority pre.length) s = .next { s with msgs := pre ++ { f with aged := true } :: post } ∧
      ((∀ g ∈ pre, g.dest = f.dest → g.msg.cls = f.msg.cls → g.msg.src ≠ f.msg.src) →
        (∀ g ∈ s.msgs, g.aged = true → g.dest = f.dest → prio g ≤ prio f) →
        (f.dest = 0x3FFF → exec (.messageAccept pre.length) s = .next { s with
          msgs := pre ++ post
          kiosk := { s.kiosk with requests := s.kiosk.requests ++ [(f.msg.src, f.msg)] } }) ∧
        (f.dest ≠ 0x3FFF → (s.core f.dest).hasRoom f.msg = true → exec (.messageAccept pre.length) s =
          .next (State.updCore { s with msgs := pre ++ post } f.dest fun k =>
            { k with disp := { k.disp with inbox := k.disp.inbox ++ [f.msg] } })))) ∧
    (∀ (cl tree : Nat) (pre : List Contrib) (c : Contrib) (post : List Contrib), (s.router cl).waiting = pre ++ c :: post →
      let r := s.router cl
      let w := (s.rtree cl tree).1
      let same := fun (x y : Contrib) => x.tree = y.tree ∧ x.isCore = y.isCore ∧ x.which = y.which
      c.tree = tree → (∀ x ∈ r.round, ¬same c x) → (∀ x ∈ pre, x.tree = tree → ∃ y ∈ r.round, same x y) →
      let mine := (r.round ++ [c]).filter fun x => x.tree == tree
      let complete := (∀ i, i < 16 → bit w (4 + i) = true → ∃ x ∈ mine, x.isCore = true ∧ x.which = i) ∧
        (∀ i, i < 4 → bit w i = true → ∃ x ∈ mine, x.isCore = false ∧ x.which = i)
      let sum := mine.foldl (fun v x => wsAdd v x.value) WsPair.zero
      let stamp := wordOf (mine.foldl (fun n x => max n x.stamp.toNat) 0)
      let s' := s.updRouter cl fun r =>
        { r with waiting := pre ++ post, round := (r.round ++ [c]).filter fun x => x.tree != tree }
      (¬complete → exec (.reductionContribution cl tree) s =
        .next (s.updRouter cl fun r => { r with waiting := pre ++ post, round := r.round ++ [c] })) ∧
      (∀ up, complete → bit w 21 = false → linkTo cl (fld w 22 2) = some up →
        exec (.reductionContribution cl tree) s = .next (s'.updRouter up fun r =>
          { r with waiting := r.waiting ++ [⟨tree, false, (fld w 22 2 + 2) % 4, sum, stamp⟩] })) ∧
      (∀ k0 k1 k2 t, complete → bit w 21 = true →
        let target := fld (s.rtree cl tree).2 0 52
        let at_ := fun (o k : Nat) => s.place (dieOf (cl * 16)) (target + o) = .spad k
        at_ 0 k0 → at_ 8 k1 → at_ 16 k2 → s.tagAt k0 ≠ tagArrival → s.tagAt k1 ≠ tagArrival → s.quietAt k0 → s.quietAt k1 →
        k0 / 8 ≠ k1 / 8 →
        ((((s'.write k0 8 sum.lo).setTag k0 tagFull).write k1 8 sum.hi).setTag k1 tagFull).arrive (.spad k2) 16 1 stamp = .ok t →
        exec (.reductionContribution cl tree) s = .next t)) ∧
    (∀ (pre : List Message) (m : Message) (post : List Message), s.me.disp.inbox = pre ++ m :: post → m.inl = true → s.me.inl = none →
      s.me.trapping = none →
      s.me.inlHold = false ∨ s.me.act = none ∨ s.me.wait.isSome = true →
      let candidate := fun x : Message => x.inl = true ∧ s.me.cmask.getLsbD x.cls = false
      let prio := fun x : Message => fld (vget 0 s.me.clsh x.cls) 61 3
      let first := fun x y : Message => prio y < prio x ∨ (prio x = prio y ∧ x.cls < y.cls)
      candidate m → (∀ x ∈ pre, candidate x → first m x) → (∀ x ∈ post, candidate x → ¬first x m) →
      let slot := fun n => decodeWord (m.slot n)
      let isSend := fun n => ∃ a b, slot n = .send a b
      let accepted := ∃ n, n < 6 ∧ slot n = .hret ∧ (∀ j, j < n → inlineAllows (slot j) = true) ∧
        ∀ i j, i < j → j < n → ¬(isSend i ∧ isSend j)
      (accepted → ∃ c, exec .inlineExecution s =
          .next (s.updMe fun k => { k with inl := some ⟨k.ctx, k.wait, m, 0, false⟩, ctx := c, wait := none }) ∧
        c.trellis = [] ∧ c.st = m.stamp ∧ c.priv = false ∧ vget Reg.reset c.regs 0 = ⟨m.header, .present, none⟩ ∧
        ∀ i, 1 ≤ i → i < 16 → (i ≤ m.payload.length - 3 → vget Reg.reset c.regs i = ⟨m.payload.getD (i - 1) 0, .present, none⟩) ∧
          (m.payload.length - 3 < i → (vget Reg.reset c.regs i).cond = .dead)) ∧
      (¬accepted → ∃ t, exec .inlineExecution s = .next t ∧ t.me.inl = none ∧ t.me.ctx = s.me.ctx ∧ t.me.wait = s.me.wait ∧
        t.me.disp.inbox = pre ++ post ∧ t.me.drops = min 255 (s.me.drops + 1) ∧
        ∃ e : Event, t.kiosk.events = s.kiosk.events ++ [e] ∧ fld e.w0 0 8 = Cause.inlineIllegal.code.toNat))

/-! ## Tasks and launches (R306–R340) -/

/-- R130, R314, R317, R318, R331–R339: the task instructions and launch. -/
def Obligations.TaskInstructionsRun : Prop :=
  ∀ (s : State) (a b : Src) (d : Dst) (n : Fin 16) (i : BitVec 13) (l : BitVec 7) (x : Act), s.Canonical →
    s.mayRetire = true → s.me.act = some x → s.me.inl = none →
    let k := s.me
    let traps := fun (i : Instr) (c : Cause) (info : Word) => (s.take (causeOf c 0 info)).2 = false →
      exec i s = .next (s.take (causeOf c 0 info)).1
    let bottom := fld k.dqpos 32 32
    let depth := (bottom + 2 ^ 32 - fld k.dqpos 0 32) % 2 ^ 32
    let slotAt := fun pos : Nat =>
      privBase s.cur + (fld k.dqcfg 6 11 * 64 + 64 * (pos % 2 ^ fld k.dqcfg 20 4)) % 0x20000
    let run := DestSpec.run (.h n) 5
    let five := fun (t : State) (v : Nat → Word) => ∀ j, j < 5 → t.reg (n.val + j) = ⟨v j, .present, none⟩
    let settled := (∀ y ∈ k.flight, y.failed? = false) ∧ k.causes = []
    (∀ us e, (b = .z ∧ us = [Use.one a] ∧ (e = fun j => if j = 0 then s.first us .none else 0)) ∨
        (∃ m : Fin 16, b = .h m ∧ m.val + 3 ≤ 16 ∧ us = .one a :: [0, 1, 2].map (fun j => Use.one (.h (Fin.ofNat 16 (m.val + j)))) ∧
          e = fun j => ((s.readied us .none).me.vals [] us).getD j 0) →
      s.Ready us .none →
      (bit k.dqcfg 24 = true → depth < 2 ^ fld k.dqcfg 20 4 → settled → k.storesOut = 0 →
        (∀ j, j < 8 → s.tagAt (slotAt bottom + 8 * j) ≠ tagArrival ∧ s.quietAt (slotAt bottom + 8 * j)) →
        ∃ t, exec (.spawn a b) s = .next t ∧
          (∀ j, j < 4 → t.word (slotAt bottom + 8 * j) = e j) ∧ t.word (slotAt bottom + 32) = 0 ∧
          t.word (slotAt bottom + 40) = s.ctx.st ∧
          t.word (slotAt bottom + 56) = wordOf (x.cp.toNat + x.retry % 8 * 4 + x.prio % 64 * 32) ∧
          (∀ c, c < slotAt bottom ∨ slotAt bottom + 64 ≤ c → readByte t.mem c = readByte s.mem c) ∧
          fld t.me.dqpos 0 32 = fld k.dqpos 0 32 ∧ fld t.me.dqpos 32 32 = (bottom + 1) % 2 ^ 32 ∧
          t.me.retired = k.retired + 1 ∧
          ∀ q y, x.launchKey = some q → s.launch? q = some y → t.word (slotAt bottom + 48) = y.idWord ∧
            t.launch? q = some { y with live := y.live + 1 }) ∧
      (bit k.dqcfg 24 = false ∨ 2 ^ fld k.dqcfg 20 4 ≤ depth → traps (.spawn a b) .dequeFull 0)) ∧
    (n.val = 0 ∨ n.val = 4 ∨ n.val = 8 → s.Ready [] run →
      (bit k.dqcfg 24 = true → depth ≠ 0 → ∃ t, exec (.take (.h n)) s = .next t ∧
        five t (fun j => s.word (slotAt (bottom + 2 ^ 32 - 1) + 8 * j)) ∧
        fld t.me.dqpos 0 32 = fld k.dqpos 0 32 ∧ fld t.me.dqpos 32 32 = (bottom + 2 ^ 32 - 1) % 2 ^ 32 ∧
        t.mem = s.mem ∧ t.me.retired = k.retired + 1) ∧
      (bit k.dqcfg 24 = false ∨ depth = 0 → ∃ t, exec (.take (.h n)) s = .next t ∧ five t (fun _ => 0) ∧
        t.me.dqpos = k.dqpos ∧ t.mem = s.mem ∧ t.me.retired = k.retired + 1)) ∧
    (1 ≤ i.toNat → i.toNat ≤ 4096 →
      (s.ctx.kind = .yield → s.ctx.pc = s.ctx.hdr + 8 → s.requested s.cur = false ∨ k.susp.isSome = true →
        exec (.yield i) s = .next ((s.counted fun _ => min (16 * i.toNat) k.ybud.toNat).updMe Core.onward)) ∧
      (s.ctx.kind ≠ .yield ∨ s.ctx.pc ≠ s.ctx.hdr + 8 → traps (.yield i) .yieldPlacement 0)) ∧
    (i.toNat = 0 ∨ 4096 < i.toNat → traps (.yield i) .reservedField 0) ∧
    ((∀ p, d ≠ .port p) → s.Ready [.one a] (.one d) → settled → k.storesOut = 0 → ∀ y s2,
      let us := [Use.one a]
      let va := s.first us (.one d)
      (s.readied us (.one d)).accepts va 64 .w y → (s.readied us (.one d)).takes [y.place] →
      (s.readied us (.one d)).spendAll (clusterOf s.cur) [(va, y.place, 64)] = .ok s2 →
      exec (.tready a d) s =
        .next (((s2.popped us).issuing (.taskRelease x.launchKey) va y true true false false).awaiting d k.nextId).retired) ∧
    (s.Ready [] (.one d) → ∃ v, exec (.tcbq d) s = .next (s.writes [] d v).retired ∧
      (∀ j, j < 4 → fld v (8 * j) 8 =
        min 255 ((fld (vget 0 k.rrpos j) 32 32 + 2 ^ 32 - fld (vget 0 k.rrpos j) 0 32) % 2 ^ 32)) ∧
      fld v 32 16 = depth % 65536 ∧ fld v 48 5 = k.disp.inbox.length % 32 ∧ bit v 53 = k.susp.isSome ∧ fld v 54 10 = 0) ∧
    (n.val = 0 ∨ n.val = 4 ∨ n.val = 8 → s.Ready [.one a] run →
      let v := s.first [.one a] run
      (k.wait = none → v.toNat < 8 →
        exec (.qdie a (.h n) l) s = .next (((s.readied [.one a] run).updDie
          (if bit v 2 then fld v 0 2 else dieOf s.cur) fun q => { q with pops := q.pops ++ [⟨s.cur, k.pid.toNat, true⟩] }).updMe
            fun k => { k with wait := some ⟨.dieQueue, l != 0x7F#7, 0, 0, .no, true, 0, run, []⟩ })) ∧
      (k.wait = none → 8 ≤ v.toNat → traps (.qdie a (.h n) l) .badOperand 0) ∧
      (∀ (w : Wait) (pa : Word) (ws : List Word), k.wait = some w → w.what = .dieQueue → w.served = .value pa → w.vals.map Prod.snd = ws.map some →
        ∃ t, exec (.qdie a (.h n) l) s = .next t ∧ five t (fun j => ws.getD j 0) ∧ t.mem = s.mem ∧
          t.me.retired = k.retired + 1)) ∧
    (∀ w, k.wait = some w → w.what = .dieQueue → w.bounded = true → w.served = .no → w.dests = run → n.val + 5 ≤ 16 →
      ∃ t, exec .qdieExpiry s = .next t ∧ five t (fun _ => 0) ∧ t.mem = s.mem ∧ t.me.retired = k.retired + 1 ∧
        t.dies = s.dies.map fun q => (q.1, { q.2 with pops := q.2.pops.filter fun p => p.core != s.cur || !p.qdie })) ∧
    (s.Ready [.one a] (.one d) → settled → k.storesOut = 0 → (s.first [.one a] (.one d)).toNat % 64 = 0 →
      ∀ w ws, k.wait = some w → w.what = .loads → w.vals.map Prod.snd = ws.map some → ws.length = 8 →
        let g := fun j => ws.getD j 0
        let kind := fld (g 0) 0 3
        let prio := fld (g 0) 3 6
        (∀ j, ldBad ws = some j → traps (.launch a d) .launchDesc (wordOf j)) ∧
        (ldBad ws = none → (s.part k.pid.toNat).pceil < prio → traps (.launch a d) .launchPrio (wordOf prio)) ∧
        (ldBad ws = none → prio ≤ (s.part k.pid.toNat).pceil →
          (kind = 0 → bit (g 0) 30 = false → s.inPart k.pid.toNat (fld (g 0) 16 14) = true) →
          let h := (s.readied [.one a] (.one d)).homeOf ws
          s.engineFull h = false → (s.die h).backlog = [] →
          ∃ t q, q.home = h ∧ exec (.launch a d) s = .next t ∧ t.launch? s.nextKey = some q ∧
            q.kind = kind ∧ q.prio = prio ∧ q.cp.toNat = fld (g 0) 9 2 ∧ q.retry = fld (g 0) 11 3 ∧ q.target = g 1 ∧
            q.args = [g 2, g 3, g 4, g 5] ∧ q.stamp = s.ctx.st ∧ q.part = k.pid.toNat ∧ q.phase = .queued ∧ q.sup = s.ctx.priv ∧
            q.idWord = wordOf (((s.die q.home).seq + 1) % 2 ^ 30 + q.home % 4 * 2 ^ 30 + kind % 8 * 2 ^ 32) ∧
            (t.die q.home).engine = (s.die q.home).engine ++ [s.nextKey] ∧ (t.die q.home).seq = (s.die q.home).seq + 1 ∧
            t.mem = s.mem ∧ t.me.retired = k.retired + 1 ∧ ∀ m : Fin 16, d = .h m → t.reg m.val = ⟨q.idWord, .present, none⟩))

/-- R128, R131, R132, R311–R313, R315, R318–R320: the dispatcher's events. -/
def Obligations.DispatchersChooseWork : Prop :=
  ∀ (s : State), s.Canonical → s.coreLive s.cur = true →
    let k := s.me
    let idle := k.act = none ∧ k.inl = none ∧ k.trapping = none ∧ k.disp.asking = none ∧ s.halted s.cur = false
    let starts := fun (t : State) (c : Nat) (entry stamp : Word) (args : List Word) => ∃ x, (t.core c).act = some x ∧
      x.entry = entry ∧ x.args = args ∧ (t.core c).ctx.pc = entry + 8 ∧ (t.core c).ctx.hdr = entry ∧ (t.core c).ctx.st = stamp ∧
      (t.core c).ctx.trellis = [] ∧ (t.core c).ctx.loops = [] ∧ (t.core c).ctx.ycnt = (s.core c).ybud.toNat ∧
      (∀ n, n < 4 → vget Reg.reset (t.core c).ctx.regs n = ⟨args.getD n 0, .present, none⟩) ∧
      (∀ n, 4 ≤ n → n < 16 → (vget Reg.reset (t.core c).ctx.regs n).cond = .dead) ∧ (t.core c).ibuf = []
    let slotOf := fun (c pos : Nat) => privBase c + (fld (s.core c).dqcfg 6 11 * 64 + 64 * (pos % 2 ^ fld (s.core c).dqcfg 20 4)) % 0x20000
    let w := fun (key i : Nat) => s.word (key + 8 * i)
    let depth := fun c : Nat => (fld (s.core c).dqpos 32 32 + 2 ^ 32 - fld (s.core c).dqpos 0 32) % 2 ^ 32
    (idle → ∀ x, k.susp = some x → x.ending = none → k.suspCtx.fresh = none → s.requested s.cur = false → k.chan.inbox = [] →
      ∃ t y, exec .dispatchSelect s = .next t ∧ t.me.susp = none ∧ t.me.act = some y ∧ y.entry = x.entry ∧ y.source = x.source ∧
        t.mem = s.mem ∧ (s.tagAt (saveArea s.cur + 0x100) ≠ tagPoison → t.ctx.pc = s.word (saveArea s.cur + 0x100)) ∧
        (s.tagAt (saveArea s.cur + 0x108) ≠ tagPoison → ∀ n, n < 16 →
          (t.reg n).cond = if fld (s.word (saveArea s.cur + 0x108)) n 1 = 1 then .absent else .dead)) ∧
    (idle → k.susp = none → k.disp.stage = none →
      (∀ m ∈ k.disp.inbox, m.inl = true ∨ k.cmask.getLsbD m.cls = true ∨ bit (vget 0 k.clsh m.cls) 0 = false) →
      (∀ (pre : List Nat) (key : Nat) (post : List Nat) (l : Launch),
        k.disp.targeted = pre ++ key :: post → key ∉ pre → key ∉ post → s.launch? key = some l → l.prio < 64 →
        (∀ q ∈ k.disp.targeted, ∃ y, s.launch? q = some y ∧ y.prio / 16 ≤ l.prio / 16) →
        (∀ q ∈ pre, ∀ y, s.launch? q = some y → y.prio / 16 < l.prio / 16) →
        (∀ b, b < 4 → l.prio / 16 < b → bit (vget 0 k.rring b) 24 = false) → fld k.dord 0 2 ≠ 3 →
        ∃ t, exec .dispatchSelect s = .next t ∧ starts t s.cur l.target l.stamp l.args ∧ t.me.disp.targeted = pre ++ post ∧
          t.mem = s.mem) ∧
      (k.disp.targeted = [] → (∀ b, b < 4 → bit (vget 0 k.rring b) 24 = false) → fld k.dord 0 2 ≠ 1 →
        bit k.dqcfg 24 = true → depth s.cur ≠ 0 →
        let key := slotOf s.cur (fld k.dqpos 32 32 + 2 ^ 32 - 1)
        ∃ t, exec .dispatchSelect s = .next t ∧ starts t s.cur (w key 0) (w key 5) [w key 1, w key 2, w key 3, w key 4] ∧
          fld t.me.dqpos 32 32 = (fld k.dqpos 32 32 + 2 ^ 32 - 1) % 2 ^ 32 ∧ fld t.me.dqpos 0 32 = fld k.dqpos 0 32 ∧
          t.mem = s.mem)) ∧
    (∀ thief, thief ≠ s.cur → (s.core thief).disp.asking = some s.cur → (s.core thief).inl = none →
      (bit k.dqcfg 24 = true → depth s.cur ≠ 0 →
        let key := slotOf s.cur (fld k.dqpos 0 32)
        ∃ t, exec (.steal thief) s = .next t ∧ starts t thief (w key 0) (w key 5) [w key 1, w key 2, w key 3, w key 4] ∧
          fld t.me.dqpos 0 32 = (fld k.dqpos 0 32 + 1) % 2 ^ 32 ∧ t.mem = s.mem) ∧
      (bit k.dqcfg 24 = false ∨ depth s.cur = 0 →
        let tries := (s.core thief).disp.tries + 1
        let spent := decide (fld (s.core thief).steal 0 8 ≤ tries)
        exec (.steal thief) s = .next (s.updCore thief fun c => { c with disp := { c.disp with
          asking := none, stealLast := some s.cur, tries := if spent then 0 else tries, backoff := spent } }))) ∧
    exec .stealBackoffExpiry s = .next (s.updMe fun k => { k with disp := { k.disp with backoff := false } }) ∧
    (∀ p ps, k.disp.pushes = p :: ps →
      let b := fld (s.word (p.pa + 56)) 58 6 / 16
      let r := vget 0 k.rring b
      let tail := fld (vget 0 k.rrpos b) 32 32
      let at_ := privBase s.cur + (fld r 3 14 * 8 + 8 * (tail % 2 ^ fld r 20 4)) % 0x20000
      bit r 24 = true → (tail + 2 ^ 32 - fld (vget 0 k.rrpos b) 0 32) % 2 ^ 32 < 2 ^ fld r 20 4 → s.quietAt at_ →
      ∃ t, exec .readyPush s = .next t ∧ t.word at_ = aliasOf p.pa ∧ t.tagAt at_ = tagFull ∧ t.me.disp.pushes = ps ∧
        fld (vget 0 t.me.rrpos b) 32 32 = (tail + 1) % 2 ^ 32 ∧
        ∀ c, c / 8 ≠ at_ / 8 → readByte t.mem c = readByte s.mem c) ∧
    (∀ (die part : Nat) (pre : List Pop) (p : Pop) (post : List Pop),
      (s.die die).pops = pre ++ p :: post → p.part = part → (∀ q ∈ pre, q.part ≠ part) → part < 16 →
      let base := SMap.get 0 (s.die die).regs (0x1000 + 32 * part)
      let pos := vget 0 (s.die die).pgpos part
      let log2 := fld base 0 5
      let pa := fld base 6 46 * 64 + 64 * (fld pos 0 32 % 2 ^ log2)
      4 ≤ log2 → log2 ≤ 20 → (fld pos 32 32 + 2 ^ 32 - fld pos 0 32) % 2 ^ 32 ≠ 0 →
      ∃ t, exec (.dieQueuePop die part) s = .next t ∧ (t.die die).pops = pre ++ post ∧
        fld (vget 0 (t.die die).pgpos part) 0 32 = (fld pos 0 32 + 1) % 2 ^ 32 ∧ t.mem = s.mem ∧
        (p.qdie = true → (s.core p.core).inl = none → ∀ y, (s.core p.core).wait = some y →
          ∀ key, s.place die pa = .hbm key → (t.core p.core).wait = some { y with
            served := .value (wordOf pa), vals := (List.range 5).map fun j => (j, some (w key j)) }) ∧
        (p.qdie = false → ∀ key, s.place die pa = .hbm key → ∃ x, (t.core p.core).disp.popped = some x ∧ x.key = key ∧
          x.words = (List.range 8).map (w key) ∧ (t.core p.core).disp.popping = false)) ∧
    (∀ x i, k.act = some x → x.ending = none → k.susp = none → k.inl = none → k.trapping = none → s.requested s.cur = true →
      k.ctx.latch = some (.yield i) → (∀ a ∈ k.flight, a.live = false) → k.mx.inbox = [] → k.chan.inbox = [] →
      (∀ y, k.wait = some y → y.what = .drain) → (∀ a, a < 4 → (vget Accum.reset k.mx.accs a).cond = .clean) →
      s.halted s.cur = false → (∀ p ∈ s.parked, p.pa / 4096 ≠ saveArea s.cur / 4096) → k.ctx.trellis.length ≤ 16 →
      k.ctx.loops.length ≤ 4 →
      ∃ t y, exec .preemption s = .next t ∧ t.me.act = none ∧ t.me.susp = some y ∧ y.source = x.source ∧ t.me.wait = none ∧
        (∀ n, n < 16 → (s.reg n).cond = .present → (n < 8 ∨ k.ctx.gate ≠ 2 ∧ k.ctx.bankLost = false) →
          t.word (saveArea s.cur + 8 * n) = (s.reg n).val) ∧
        (∀ n q, k.ctx.trellis[n]? = some q → t.word (saveArea s.cur + 0x80 + 8 * n) = q.val) ∧
        t.word (saveArea s.cur + 0x100) = k.ctx.pc ∧ t.word (saveArea s.cur + 0x170) = k.ctx.st ∧
        t.word (saveArea s.cur + 0x178) = wordOf k.ctx.ycnt ∧
        (∀ a, a < saveArea s.cur ∨ saveArea s.cur + 0x1000 ≤ a → readByte t.mem a = readByte s.mem a))

/-- R321, R323, R325: activation and task-set launches through their lives. -/
def Obligations.LaunchesProceed : Prop :=
  ∀ (s : State) (key : Nat) (l : Launch), s.Canonical → s.launch? key = some l →
    (∀ die rest, (s.die die).engine = key :: rest → key ∉ (s.die die).backlog → die = l.home →
      (l.phase = .queued → l.badCause = none → l.kind = 0 ∨ l.kind = 2 ∨ l.kind = 4 →
        (l.kind = 0 → l.any = true → 4 ≤ fld (SMap.get 0 (s.die die).regs (0x1000 + 32 * l.part)) 0 5 ∧
          fld (SMap.get 0 (s.die die).regs (0x1000 + 32 * l.part)) 0 5 ≤ 20) →
        (l.kind ≠ 0 → l.target.toNat % 64 = 0) → l.refused = false →
        exec (.launchEnqueue die) s = .next (s.setLaunch key { l with phase := .serial })) ∧
      (∀ c, l.phase = .queued → (l.badCause = some c ∨ (l.badCause = none ∧ l.kind ≠ 0 ∧ l.target.toNat % 64 ≠ 0 ∧
          c = (if l.kind = 4 then .stageDesc else .launchDesc, 1))) →
        ∃ t q, exec (.launchEnqueue die) s = .next t ∧ t.launch? key = some q ∧ q.refused = true ∧ q.faults = 1 ∧
          q.first = some (c.1, l.target) ∧ q.closed = true ∧ q.phase = .running ∧ key ∉ (t.die die).engine) ∧
      (l.phase = .serial → l.kind = 0 → l.any = false → (s.core l.core).disp.targeted.length < 4 →
        ∃ t, exec (.launchEnqueue die) s = .next t ∧
          t.launch? key = some { l with phase := .running, live := l.live + 1, closed := true } ∧
          (t.core l.core).disp.targeted = (s.core l.core).disp.targeted ++ [key] ∧ key ∉ (t.die die).engine)) ∧
    (l.phase = .running → l.kind = 0 ∨ l.kind = 2 → l.live = 0 → l.closed = true → l.groups = [] → l.dirty = [] →
      l.dirtyNm = [] → l.parent = none → l.stage = none →
      (l.compl = none → ∃ t, exec (.memberRetirement key) s = .next t ∧ t.launch? key = some { l with phase := .recorded } ∧
        t.mem = s.mem) ∧
      (∀ (pa : Nat) (at_ : Nat → Nat), l.compl = some pa →
        (∀ i, i < 8 → s.place 0 (pa + 8 * i) = .spad (at_ i) ∧ at_ i % 8 = 0 ∧ s.tagAt (at_ i) ≠ tagArrival ∧ s.quietAt (at_ i)) →
        (∀ i j, i < 8 → j < 8 → at_ i = at_ j → i = j) →
        ∃ t, exec (.memberRetirement key) s = .next t ∧ t.launch? key = some { l with phase := .recorded } ∧
          fld (t.word (at_ 0)) 0 32 = (if l.refused then 2 else if l.failed then 1 else 0) ∧
          fld (t.word (at_ 0)) 32 32 = l.faults % 2 ^ 32 ∧ t.word (at_ 1) = l.stamp ∧ t.word (at_ 2) = wordOf s.ns ∧
          t.word (at_ 3) = l.idWord ∧ t.word (at_ 4) = ((l.first.map fun f => f.1.code.zeroExtend 64).getD 0) ∧
          t.word (at_ 5) = (l.first.map fun f => f.2).getD 0 ∧ t.word (at_ 6) = l.user ∧
          t.word (at_ 7) = wordOf ((s.die l.home).compl + 1) ∧ (t.die l.home).compl = (s.die l.home).compl + 1 ∧
          (∀ a, (∀ i, i < 8 → a / 8 ≠ at_ i / 8) → readByte t.mem a = readByte s.mem a))) ∧
    (l.phase = .recorded →
      let s1 := s.setLaunch key { l with phase := .retired }
      let rings := fun t : State => match l.msix with
        | none => t
        | some v => if (l.part + 1, v) ∈ t.host.unmasked then
            { t with host := { t.host with sent := t.host.sent ++ [(l.part + 1, v)] } }
          else { t with host := { t.host with pending := (l.part + 1, v) :: t.host.pending.filter fun p => p != (l.part + 1, v) } }
      (l.signal = none → exec (.completionSignal key) s = .next (rings s1)) ∧
      (∀ pa t, l.signal = some pa → pa % 8 = 0 → s1.arrive (s1.place 0 pa) 1 1 l.stamp = .ok t →
        exec (.completionSignal key) s = .next (rings t))) ∧
    (∀ fn vec, ∃ t, exec (.msiXUnmask fn vec) s = .next t ∧ (fn, vec) ∈ t.host.unmasked ∧ t.mem = s.mem ∧
      ((fn, vec) ∈ s.host.pending → t.host.sent = s.host.sent ++ [(fn, vec)] ∧ (fn, vec) ∉ t.host.pending) ∧
      ((fn, vec) ∉ s.host.pending → t.host.sent = s.host.sent))

/-- R344, R345, R348–R351, R354, R355: the advance of a grid. -/
def Obligations.GridsAdvance : Prop :=
  ∀ (s : State) (key n : Nat) (l : Launch) (g : Group), s.Canonical → s.launch? key = some l → l.group? n = some g →
    (∀ x ∈ l.groups, x.index = n → x = g) → l.home < 4 → l.slot < 8 →
    let ws := l.gridWords
    let board := fun t : State => vget Board.reset (t.die l.home).boards l.slot
    let held := fun (x : Launch) (m : Nat) => ∃ y ∈ x.groups, y.index = m
    let free := fun (bits : List Nat) (x : Launch) (m : Nat) => m ∉ bits ∧ ¬held x m ∧
      ∀ v q, v < gridNvec ws → gridMove ws m v (-1) = some q → q ∈ bits
    (∀ die teams base, l.kind = 1 → g.phase = .released → l.closed = false → (board s).closed = false →
      s.groupPlace l = some (die, teams) → s.ends (isMemberOf key n) = false → (s.part l.part).clusters.Nodup → 0 < gridCores ws →
      (g.desc ≠ 0 ∧ base = g.desc ∨ g.desc = 0 ∧ s.arenaFind l.part (groupBytes ws) = some base) →
      teams.length = gridTeams ws ∧
      (∀ t ∈ teams, t.length = gridCores ws ∧ ∃ cl, ∀ c ∈ t, clusterOf c = cl ∧ cl / 256 = die ∧ (s.idlePool c = true ∨ s.givenUp c = true) ∧
        s.inPart l.part c = true) ∧
      ∃ t l' g', exec (.groupPlacement key n) s = .next t ∧ t.launch? key = some l' ∧ l'.group? n = some g' ∧
        g'.phase = .running ∧ g'.teams.map (fun x => x.cores) = teams ∧ g'.teams.map (fun x => x.live) = teams ∧
        ∀ i j cs c, teams[i]? = some cs → cs[j]? = some c →
          ∃ x, (t.core c).act = some x ∧ x.source = .member key n i j ∧ x.entry = ws.getD 2 0 ∧ x.args = l.args ∧
            (t.core c).ctx.st = l.stamp ∧ (t.core c).ctx.lteam = wordOf (base + 64 + 64 * i) ∧
            (t.core c).ctx.lgroup = wordOf base ∧ (t.core c).ctx.lgrid = wordOf l.gridDesc ∧
            (t.core c).ctx.pc = ws.getD 2 0 + 8) ∧
    (g.phase = .running → (∀ t ∈ g.teams, t.live = []) → g.dirty = [] → g.dirtyNm = [] →
      ∃ t l', exec (.retirementReport key n) s = .next t ∧ t.launch? key = some l' ∧
        (∀ m, m ∈ (board t).bits ↔ m = n ∨ m ∈ (board s).bits) ∧ ¬held l' n ∧
        (∀ y ∈ l.groups, y.index ≠ n → y ∈ l'.groups) ∧
        (l.closed = false → (board s).closed = false →
          ∀ m, held l' m ↔ (held l m ∧ m ≠ n) ∨
            ((∃ v, v < gridNvec ws ∧ gridMove ws n v 1 = some m) ∧ m ≠ n ∧ free (n :: (board s).bits) l m))) ∧
    (∀ v, (board s).launch = some key →
      (bit v 0 = true → ∃ t, exec (.ggateWrite l.home l.slot v) s = .next t ∧ (board t).closed = true ∧
        (board t).bits = (board s).bits ∧ t.launch? key = some l) ∧
      (bit v 0 = false → l.closed = false → ∃ t l', exec (.ggateWrite l.home l.slot v) s = .next t ∧ (board t).closed = false ∧
        (board t).bits = (board s).bits ∧ t.launch? key = some l' ∧
        ∀ m, held l' m ↔ held l m ∨
          ((∃ q v, q ∈ (board s).bits ∧ v < gridNvec ws ∧ gridMove ws q v 1 = some m) ∧ free (board s).bits l m))) ∧
    (∀ (d : Dst) (sel : BitVec 3), s.mayRetire = true →
      let traps := fun c : Cause => (s.take (causeOf c 0 0)).2 = false → exec (.gid d sel) s = .next (s.take (causeOf c 0 0)).1
      (sel = 7 → traps .reservedField) ∧
      (s.Ready [] (.one d) → sel ≠ 7 → s.ctx.lgrid = 0 → traps .privInstr) ∧
      (∀ x i r, s.Ready [] (.one d) → sel ≠ 7 → s.ctx.lgrid ≠ 0 → s.me.act = some x → x.gang = some (key, n, i, r) →
        let e := fun j => fld (ws.getD 1 0) (20 * j) 20 + 1
        exec (.gid d sel) s = .next (s.writes [] d (match sel.toNat with
          | 0 => wordOf (n % e 0)
          | 1 => wordOf (n / e 0 % e 1)
          | 2 => wordOf (n / (e 0 * e 1))
          | 3 => wordOf n
          | 4 => wordOf i
          | 5 => wordOf r
          | _ => ws.getD 1 0)).retired))

/-! ## Stages (R358–R374) -/

/-- R358, R359, R363–R365, R371, R372: records put, and the stage's own word. -/
def Obligations.StagesTakeRecords : Prop :=
  ∀ (s : State) (d : Nat) (g : Stage), s.Canonical → s.stage? d = some g → unitOf d = 16 → unitOf (d + 127) = 16 → d % 64 = 0 →
    (∀ i, i < 16 → s.tagAt (d + 8 * i) ≠ tagPoison) →
    let w := s.word d
    let kw := s.stWord d 0
    let closed := fld w 0 2 = 3 ∨ bit w 26 = true
    let here := fun (t : State) (va : Word) (right : Right) => ∃ x, t.accepts va 64 right x ∧ x.place = .spad d ∧
      t.mustWait x.strong x.pa = false
    (∀ (a : Src) (n : Fin 16) (dst : Dst), s.mayRetire = true →
      let size := fld (s.word (g.inq + 8)) 32 16
      let count := fld (s.word (g.inq + 8)) 0 32
      let us := Use.one a :: (List.range (size - 1)).map fun i => Use.one (.h (Fin.ofNat 16 (n.val + i)))
      let s1 := s.readied us (.one dst)
      let va := s.first us (.one dst)
      let info : Word := (s.word (g.inq + 16)).truncate 32 ++ (s.word (g.inq + 24)).truncate 32
      s.Ready us (.one dst) → s.me.wait = none → here s1 va .w → fld kw 3 3 ≠ 0 → 1 ≤ fld kw 12 6 → fld kw 12 6 ≤ 44 →
      fld kw 6 6 + fld kw 12 6 ≤ 64 → 2 ≤ size → size ≤ 8 → n.val + (size - 1) ≤ 16 →
      g.resolved (s.stQueueFor d (s.stKey d ((s1.me.vals [] us).drop 1))).1 = true →
      (closed → (s.take (causeOf .queueClosed va info)).2 = false →
        exec (.stagePut a (.h n) dst) s = .next (s.take (causeOf .queueClosed va info)).1) ∧
      (¬closed → (∃ j, count = 2 ^ j) → fld (s.word (g.inq + 8)) 48 16 = 0 → fld (s.word (g.inq + 32)) 3 61 = 0 →
        bit (s.word (g.inq + 32)) 0 = false → (∀ y ∈ s.me.flight, y.failed? = false) → s.me.storesOut = 0 →
        ∃ t y, exec (.stagePut a (.h n) dst) s = .next t ∧
          t.puts = s.puts ++ [⟨s.cur, d, s.me.pid.toNat, s.ctx.st, (s1.me.vals [] us).drop 1⟩] ∧
          t.me.wait = some y ∧ y.what = .stagePut ∧ y.served = .no ∧ t.me.retired = s.me.retired ∧ t.mem = s.mem)) ∧
    (∀ (a b : Src) (dst : Dst) y v, s.mayRetire = true → s.Ready [] (.one dst) → s.me.wait = some y → y.what = .stagePut →
      y.served = .value v → exec (.stagePut a b dst) s = .next ((s.popped [.one a]).deliver dst v).retired) ∧
    (∀ (pre post : List Put) (p : Put) (q : Nat) (k : Nat → Nat) (redirected : Bool), s.puts = pre ++ p :: post → p.core = s.cur →
      (∀ o ∈ pre, o.core ≠ s.cur) → p.desc = d → s.stQueueFor d (s.stKey d p.words) = (q, redirected) →
      (∀ o ∈ pre, o.desc = d → (s.stQueueFor d (s.stKey d o.words)).1 ≠ q) → bit (s.word (g.inq + 32)) 0 = false →
      let desc := g.queue q
      let tail := s.word (desc + 24)
      (tail - s.word (desc + 16)).toNat < fld (s.word (desc + 8)) 0 32 → g.resolved q = true →
      desc % 64 = 0 → s.quietAt (desc + 24) → s.quietAt d →
      (∀ i, i ≤ p.words.length → s.stSlotWord g q tail.toNat i = k i ∧ k i % 8 = 0 ∧ s.quietAt (k i) ∧
        (k i + 8 ≤ desc ∨ desc + 64 ≤ k i) ∧ (k i + 8 ≤ d ∨ d + 128 ≤ k i)) →
      (∀ i j, i ≤ p.words.length → j ≤ p.words.length → k i = k j → i = j) →
      (desc + 64 ≤ d ∨ d + 128 ≤ desc) → s.me.inl = none →
      ∃ t, exec .stagePutApply s = .next t ∧ t.puts = pre ++ post ∧ t.word (k 0) = p.stamp ∧ t.tagAt (k 0) = tagFull ∧
        (∀ i v, p.words[i]? = some v → t.word (k (i + 1)) = v) ∧ t.word (desc + 24) = tail + 1 ∧
        (redirected = true → fld (t.word d) 32 32 = (fld w 32 32 + 1) % 2 ^ 32) ∧ (redirected = false → t.word d = w) ∧
        ∀ y, s.me.wait = some y → t.me.wait = some { y with served := .value (wordOf (q + tail.toNat * 16)) }) ∧
    (∀ (a : Src) (dst : Dst), s.mayRetire = true → s.Ready [.one a] (.one dst) →
      here (s.readied [.one a] (.one dst)) (s.first [.one a] (.one dst)) .r →
      exec (.stageInfo a dst) s = .next (s.writes [.one a] dst w).retired) ∧
    (∀ (a : Src), s.mayRetire = true → s.Ready [.one a] .none → here (s.readied [.one a] .none) (s.first [.one a] .none) .w →
      let va := s.first [.one a] .none
      (closed → (s.take (causeOf .stageState va (wordOf (fld w 0 2)))).2 = false →
        exec (.stageClose a) s = .next (s.take (causeOf .stageState va (wordOf (fld w 0 2)))).1) ∧
      (¬closed → s.quietAt d → ∃ t, exec (.stageClose a) s = .next t ∧ t.me = (s.took [.one a] .none).retired.me ∧
        (fld w 0 2 = 2 → t.word d = w ||| 0x4000000) ∧ (fld w 0 2 ≠ 2 → t.word d = w ||| 3) ∧
        ∀ c, c / 8 ≠ d / 8 → readByte t.mem c = readByte s.mem c)) ∧
    (∀ q, fld (s.stWord d 4) 32 16 ≠ 0 → bit w 2 = false → q ∈ s.stInstances d →
      fld (s.stWord d 4) 32 16 ≤ (s.word (g.queue q + 24) - s.word (g.queue q + 16)).toNat → s.quietAt d →
      ∃ (t : State) (e : Event), exec (.stageOverload d q) s = .next t ∧ t.word d = w ||| 4 ∧ t.kiosk.events = s.kiosk.events ++ [e] ∧
        fld e.w0 8 8 = 3 ∧ e.w1 = wordOf d ∧ e.w2 = wordOf q)

/-- R366, R368, R371: the orders that begin a twin or a merge. -/
def Obligations.TwinsAndMergesAreOrdered : Prop :=
  ∀ (s : State) (d : Nat), s.Canonical → unitOf d = 16 → unitOf (d + 127) = 16 → d % 64 = 0 → s.quietAt d →
    (∀ i, i < 16 → s.tagAt (d + 8 * i) ≠ tagPoison) →
    let w := s.word d
    let kw := s.stWord d 0
    let n := fld w 22 4
    let entry := fun i => s.word (d + 64 + 8 * i)
    let valid := fun i => i < 8 ∧ bit (entry i) 19 = true
    let opened := fld w 0 2 = 1 ∧ bit w 26 = false
    let instr := fun (m : Bool) (a b : Src) (dst : Dst) => if m then Instr.stageMerge a b dst else .stageTwin a b dst
    let issued := fun (a b : Src) (dst : Dst) => s.mayRetire = true ∧ s.Ready [.one a, .one b] (.one dst) ∧
      ∃ x, (s.readied [.one a, .one b] (.one dst)).accepts (s.first [.one a, .one b] (.one dst)) 64 .w x ∧ x.place = .spad d ∧
        (s.readied [.one a, .one b] (.one dst)).mustWait x.strong x.pa = false
    let raises := fun (m : Bool) (a b : Src) (dst : Dst) (c : Cause) (info : Nat) =>
      let r := causeOf c (s.first [.one a, .one b] (.one dst)) (wordOf info)
      (s.take r).2 = false → exec (instr m a b dst) s = .next (s.take r).1
    let reports := fun (m : Bool) (arg : Nat) (c : Cause) (info : Nat) => ∃ e, fld e.w0 0 8 = c.code.toNat ∧ fld e.w0 8 8 = 1 ∧
      e.w1 = wordOf d ∧ e.w2 = wordOf info ∧
      exec (.kioskStageOrder d m arg) s = .next { s with kiosk := { s.kiosk with events := s.kiosk.events ++ [e] } }
    (s.stage? d = none → ∀ m, (∀ a b dst, issued a b dst → raises m a b dst .stageState (fld w 0 2)) ∧
      ∀ arg, reports m arg .stageState (fld w 0 2)) ∧
    (∀ g, s.stage? d = some g →
      let changing := fun (t : State) (c : Change) => fld (t.word d) 0 2 = 2 ∧
        (∃ l q, t.stage? d = some { g with change := some c, last := l, slots := q }) ∧ t.me.retired = s.me.retired
      let src := fun e => fld (entry e) 0 14
      let twinned := fun (t : State) (e key c q : Nat) => changing t ⟨false, e, key, c, q, true, false⟩ ∧
        (t.core c).disp.stage = some d ∧
        ∀ i, i < min 16384 (fld (s.stWord d 4) 16 16) → s.tagAt (privBase (src e) + 8 * i) ≠ tagPoison →
          t.word (privBase c + 8 * i) = s.word (privBase (src e) + 8 * i)
      let merged := fun (t : State) (i : Nat) =>
        changing t ⟨true, i, fld (entry i) 20 44, src i, fld (entry i) 14 3, true, false⟩ ∧ fld (t.word (d + 64 + 8 * i)) 17 2 = 2
      let fresh := fun key : Nat => key < 2 ^ fld kw 12 6 ∧ ∀ i, valid i → fld (entry i) 20 44 ≠ key
      let free := fun key : Nat => s.freeCore g.part (dieOf (src (s.stRoute d key)))
      let twinOk := fun (e key c q : Nat) => opened ∧ fresh key ∧ e = s.stRoute d key ∧ n < min 8 (fld kw 18 4) ∧
        free key = some c ∧ c ≠ src e ∧ src e < 16384 ∧ c < 16384 ∧ (∀ p ∈ s.parked, p.pa / 2 ^ 21 ≠ privBase c / 2 ^ 21) ∧
        1 ≤ q ∧ q < 8 ∧ (∀ i, valid i → fld (entry i) 14 3 ≠ q) ∧ (∀ j, 1 ≤ j → j < q → ∃ i, valid i ∧ fld (entry i) 14 3 = j)
      let mergeOk := fun i : Nat => opened ∧ 1 ≤ i ∧ i < n ∧ n ≤ 8 ∧ s.quietAt (d + 64 + 8 * i)
      let refused := fun (m : Bool) (arg : Nat) (c : Cause) (info : Nat) =>
        (¬opened ∧ c = .stageState ∧ info = fld w 0 2) ∨
        (opened ∧ c = .badOperand ∧ info = 0 ∧ if m then arg = 0 ∨ n ≤ arg else ¬fresh arg) ∨
        (opened ∧ c = .stageTwin ∧ info = n ∧ m = false ∧ fresh arg ∧ (min 8 (fld kw 18 4) ≤ n ∨ free arg = none))
      (∀ a b dst, issued a b dst →
        let us := [Use.one a, .one b]
        let arg := (s.second us (.one dst)).toNat
        (∀ e c q, twinOk e arg c q → ∃ t, twinned t e arg c q ∧
          exec (.stageTwin a b dst) s = .next ((t.took us (.one dst)).deliver dst (wordOf q)).retired) ∧
        (mergeOk arg → ∃ t, merged t arg ∧
          exec (.stageMerge a b dst) s = .next ((t.took us (.one dst)).deliver dst (wordOf (src arg))).retired) ∧
        (∀ m c info, refused m arg c info → raises m a b dst c info)) ∧
      (∀ e key c q, twinOk e key c q → ∃ t, exec (.kioskStageOrder d false key) s = .next t ∧ twinned t e key c q) ∧
      (∀ i, mergeOk i → ∃ t, exec (.kioskStageOrder d true i) s = .next t ∧ merged t i) ∧
      (∀ m arg c info, refused m arg c info → reports m arg c info))

/-! ## Floating-point and packed instructions (R105–R109, R153–R174) -/

/-- R106–R108: one rounding of an exact finite value. Values are compared in units of 2^−k, in which all are whole. -/
def Obligations.RoundingIsCorrect : Prop :=
  ∀ (f : Fmt) (mode : BitVec 2) (sat neg : Bool) (m : Nat) (e : Int),
    f ∈ [Fmt.f64, .f32, .f16, .bf16, .e5m2, .e4m3, .e2m1] → m ≠ 0 →
    let k : Int := (e.natAbs : Int) + f.bias + f.man
    let units := fun (m : Nat) (e : Int) => m * 2 ^ (e + k).toNat
    let value := fun c : Nat => match f.decode c with
      | .fin _ m e => units m e
      | _ => 0
    let x := units m e
    let r := f.round mode sat neg m e
    let toZero := mode = 1#2 ∨ (mode = 2#2 ∧ neg = false) ∨ (mode = 3#2 ∧ neg = true)
    let away := (mode = 2#2 ∧ neg = true) ∨ (mode = 3#2 ∧ neg = false)
    (r.flags.getLsbD 2 = false → ∃ c, c ≤ f.maxCode ∧ r.code = f.signed neg c ∧
      (r.flags.getLsbD 4 = false ↔ value c = x) ∧
      (toZero → value c ≤ x ∧ (c < f.maxCode → x < value (c + 1))) ∧
      (away → x ≤ value c ∧ (0 < c → value (c - 1) < x)) ∧
      (mode = 0#2 → ∀ c', c' ≤ f.maxCode →
        ((value c : Int) - x).natAbs ≤ ((value c' : Int) - x).natAbs ∧
        (c % 2 = 1 → c' ≠ c → ((value c : Int) - x).natAbs < ((value c' : Int) - x).natAbs))) ∧
    (r.flags.getLsbD 2 = true → value f.maxCode < x ∧ r.flags = flOF ||| flNX ∧
      (sat = true ∨ toZero → r.code = f.signed neg f.maxCode))

/-- R99, R108, R155, R156: sums, products and fused sums of values. -/
def Obligations.SumsAndProductsAreExact : Prop :=
  ∀ (f : Fmt) (mode : BitVec 2) (sat n1 n2 : Bool) (m1 m2 : Nat) (e1 e2 : Int) (y : Fp),
    let k : Int := (e1.natAbs : Int) + e2.natAbs
    let units := fun (neg : Bool) (m : Nat) (e : Int) => (if neg then -1 else 1 : Int) * (m * 2 ^ (e + k).toNat : Nat)
    let a := Fp.fin n1 m1 e1
    let b := Fp.fin n2 m2 e2
    let zero := fun neg => Rounded.mk (f.signed neg 0) 0
    let nan := fun invalid => Rounded.mk f.canonNan (if invalid then flNV else 0)
    (∀ n m e, 0 ≤ e + k → m ≠ 0 → units n m e = units n1 m1 e1 + units n2 m2 e2 →
      f.add mode sat a b = f.round mode sat n m e ∧ f.sub mode sat a (.fin (!n2) m2 e2) = f.round mode sat n m e) ∧
    (units n1 m1 e1 + units n2 m2 e2 = 0 →
      f.add mode sat a b = zero (if n1 = n2 then n1 else decide (mode = 2#2))) ∧
    (m1 * m2 ≠ 0 → f.mul mode sat a b = f.round mode sat (xor n1 n2) (m1 * m2) (e1 + e2)) ∧
    (m1 * m2 = 0 → f.mul mode sat a b = zero (xor n1 n2)) ∧
    (y.isNan = false → f.fma mode sat a b y = f.add mode sat (.fin (xor n1 n2) (m1 * m2) (e1 + e2)) y) ∧
    (n1 ≠ n2 → f.add mode sat (.inf n1) (.inf n2) = nan true) ∧
    f.mul mode sat (.inf n1) (.fin n2 0 e2) = nan true ∧ f.mul mode sat (.fin n1 0 e1) (.inf n2) = nan true ∧
    f.fma mode sat (.inf n1) (.fin n2 0 e2) y = nan true ∧
    (∀ q, f.add mode sat (.nan q) y = nan (q || y.isSnan) ∧ f.mul mode sat (.nan q) y = nan (q || y.isSnan) ∧
      f.add mode sat a (.nan q) = nan q ∧ f.mul mode sat a (.nan q) = nan q)

/-- R153–R158, R161, R162, R165: the lane-wise instructions. The precision of fexp2 is the model's (log 8). -/
def Obligations.LanewiseInstructions : Prop :=
  ∀ (s : State) (a b : Src) (d : Dst) (f p : BitVec 3) (r : BitVec 2) (t u : Bool), s.mayRetire = true →
    let k := s.format f
    let fm := fmtAt k
    let w := fm.width
    let illegal := fun i : Instr => (s.take (causeOf .fmtIllegal 0 (wordOf k))).2 = false →
      exec i s = .next (s.take (causeOf .fmtIllegal 0 (wordOf k))).1
    let across := fun (g : Nat → Rounded) => (List.range (64 / w)).map g
    (s.Ready [.one a] (.one d) →
      let us := [Use.one a]
      let x := fun i => lane (s.first us (.one d)) w i
      let v := fun i => fm.decode (x i)
      let one := fun (i : Instr) (g : Nat → Rounded) =>
        (1 ≤ k → k ≤ 6 → s.AnswersLanes i us d w (across g)) ∧ (k = 0 ∨ 7 ≤ k → illegal i)
      one (.fsqrt a d f r t) (fun i => fm.sqrt r t (v i)) ∧
      one (.frcp a d f r t) (fun i => fm.div r t (.fin false 1 0) (v i)) ∧
      one (.frsq a d f r t) (fun i => fm.rsqrt r t (v i)) ∧
      one (.fexp2 a d f r t) (fun i => fm.exp2 r t (v i)) ∧
      one (.fround a d f r) (fun i => fm.fround r (x i)) ∧
      one (.fclass a d f) (fun i => ⟨fm.classOf (x i), 0⟩) ∧
      one (.cvti a u d f r) (fun i => ⟨(toInteger w u r (v i)).1, (toInteger w u r (v i)).2⟩) ∧
      one (.cvtf a u d f r) (fun i => ⟨(fm.ofInteger w u r (x i)).code, (fm.ofInteger w u r (x i)).flags &&& flNX⟩)) ∧
    (s.Ready [.one a, .one b] (.one d) →
      let us := [Use.one a, .one b]
      let x := fun i => lane (s.first us (.one d)) w i
      let y := fun i => lane (s.second us (.one d)) w i
      let v := fun i => fm.decode (x i)
      let z := fun i => fm.decode (y i)
      let two := fun (i : Instr) (g : Nat → Rounded) =>
        (1 ≤ k → k ≤ 6 → s.AnswersLanes i us d w (across g)) ∧ (k = 0 ∨ 7 ≤ k → illegal i)
      let invalid := fun (b : Bool) => if b then flNV else 0
      let test := fun (holds nv : Bool) => Rounded.mk (if holds then 2 ^ w - 1 else 0) (invalid nv)
      let un := fun i => (v i).isNan || (z i).isNan
      let sig := fun i => (v i).isSnan || (z i).isSnan
      two (.fadd a b d f r t) (fun i => fm.add r t (v i) (z i)) ∧
      two (.fsub a b d f r t) (fun i => fm.add r t (v i) (z i).negate) ∧
      two (.fmul a b d f r t) (fun i => fm.mul r t (v i) (z i)) ∧
      two (.fdiv a b d f r t) (fun i => fm.div r t (v i) (z i)) ∧
      two (.fmin a b d f) (fun i => fm.minMax false (x i) (y i)) ∧
      two (.fmax a b d f) (fun i => fm.minMax true (x i) (y i)) ∧
      two (.fscl a b d f r t) (fun i => fm.scale r t (s.second us (.one d)).toInt (v i)) ∧
      two (.fcmp a b d f 0) (fun i => test (!un i && (v i).eq (z i)) (sig i)) ∧
      two (.fcmp a b d f 1) (fun i => test (un i || !(v i).eq (z i)) (sig i)) ∧
      two (.fcmp a b d f 2) (fun i => test (!un i && (v i).lt (z i)) (un i)) ∧
      two (.fcmp a b d f 3) (fun i => test (!un i && !(z i).lt (v i)) (un i)) ∧
      two (.fcmp a b d f 4) (fun i => test (un i) (sig i)) ∧
      two (.fcmp a b d f 5) (fun i => test (!un i) (sig i))) ∧
    (6 ≤ p.toNat → (s.take (causeOf .reservedField 0 0)).2 = false →
      exec (.fcmp a b d f p) s = .next (s.take (causeOf .reservedField 0 0)).1) ∧
    (s.Ready [.one a, .one b, .one (baseOf d)] (.one d) →
      let us := [Use.one a, .one b, .one (baseOf d)]
      let v := fun (x : Word) i => fm.decode (lane x w i)
      (1 ≤ k → k ≤ 6 → s.AnswersLanes (.fma a b d f r t) us d w
        (across fun i => fm.fma r t (v (s.first us (.one d)) i) (v (s.second us (.one d)) i) (v (s.third us (.one d)) i))) ∧
      (k = 0 ∨ 7 ≤ k → illegal (.fma a b d f r t)))

/-- R159, R160, R164, R166–R169: instructions that move, convert and pack lanes. -/
def Obligations.ConversionsAndPacking : Prop :=
  ∀ (s : State) (a b c : Src) (d : Dst) (f p q : BitVec 3) (r : BitVec 2) (t x : Bool), s.mayRetire = true →
    let k := s.format f
    let fm := fmtAt k
    let w := fm.width
    let across := fun (n : Nat) (g : Nat → Rounded) => (List.range n).map g
    let illegal := fun i : Instr => (s.take (causeOf .fmtIllegal 0 (wordOf k))).2 = false →
      exec i s = .next (s.take (causeOf .fmtIllegal 0 (wordOf k))).1
    (s.Ready [.one a] (.one d) →
      let us := [Use.one a]
      let v := s.first us (.one d)
      (1 ≤ k → k ≤ 7 →
        exec (.fsgn (a) (.q 0) d f 3) s =
          .next (s.writes us d (ofLanes w ((List.range (64 / w)).map fun i => lane v w i % 2 ^ (w - 1)))).retired) ∧
      (let j := s.format q
       let sm := fmtAt j
       let ns := 64 / sm.width
       let nd := 64 / w
       let part := p.toNat + if x then 8 else 0
       1 ≤ k → k ≤ 7 → 1 ≤ j → j ≤ 7 →
       (ns ≤ nd → part < nd / ns → s.AnswersLanes (.cvt a p q d f r t x) us d w (across nd fun i =>
         if part * ns ≤ i ∧ i < part * ns + ns then fm.convert r t (sm.decode (lane v sm.width (i - part * ns))) else ⟨0, 0⟩)) ∧
       (nd < ns → part < ns / nd → s.AnswersLanes (.cvt a p q d f r t x) us d w (across nd fun i =>
         fm.convert r t (sm.decode (lane v sm.width (part * nd + i))))) ∧
       ((ns ≤ nd ∧ nd / ns ≤ part) ∨ (nd < ns ∧ ns / nd ≤ part) → illegal (.cvt a p q d f r t x))) ∧
      (∀ sm hi, (k, x, sm) ∈ [(1, false, Fmt.f32), (2, false, .bf16), (2, true, .f16), (3, false, .e4m3), (4, false, .e4m3),
          (3, true, .e5m2), (4, true, .e5m2)] →
        s.AnswersLanes (.punpk a d f x hi) us d w (across (64 / w) fun i =>
          fm.convert 0 false (sm.decode (lane v sm.width ((if hi then 64 / w else 0) + i))))) ∧
      (k ∉ [1, 2, 3, 4] ∨ k = 1 ∧ x = true → ∀ hi, illegal (.punpk a d f x hi)) ∧
      exec (.cvtx a false 0 d) s = .next (s.writes us d (ofLanes 8 ((List.range 8).map fun i =>
        (Fmt.e4m3.convert 0 false ((Fmt.mk 6 3 1 .none).decode (fld v (6 * i) 6))).code))).retired ∧
      exec (.cvtx a false 1 d) s = .next (s.writes us d (ofLanes 8 ((List.range 8).map fun i =>
        (Fmt.e5m2.convert 0 false ((Fmt.mk 6 2 3 .none).decode (fld v (6 * i) 6))).code))).retired ∧
      exec (.cvtx a x 2 d) s = .next (s.writes us d (ofLanes 8 ((List.range 8).map fun i =>
        (Fmt.e4m3.ofInteger 4 false 0 (fld v (4 * (if x then 8 + i else i)) 4)).code))).retired) ∧
    (s.Ready [.one a, .one b] (.one d) →
      let us := [Use.one a, .one b]
      let v := s.first us (.one d)
      let y := s.second us (.one d)
      let signs := fun (o : BitVec 2) (g : Bool → Bool → Bool) => 1 ≤ k → k ≤ 7 →
        exec (.fsgn a b d f o) s = .next (s.writes us d (ofLanes w ((List.range (64 / w)).map fun i =>
          (if g (bit v (w * i + w - 1)) (bit y (w * i + w - 1)) then 2 ^ (w - 1) else 0) + lane v w i % 2 ^ (w - 1)))).retired
      signs 0 (fun _ n => n) ∧ signs 1 (fun _ n => !n) ∧ signs 2 xor ∧
      (1 ≤ k → k ≤ 6 → s.AnswersLanes (.fhsum a b d f r t) us d w
        [sumValues fm r t (((if b = .z then [v] else [v, y]).map fun z =>
          (List.range (64 / w)).map fun i => fm.decode (lane z w i)).flatten)]) ∧
      (∀ sm, (k, x, sm) ∈ [(2, false, Fmt.f64), (3, false, .f32), (4, false, .f32), (5, false, .bf16), (6, false, .bf16),
          (5, true, .f16), (6, true, .f16)] →
        s.AnswersLanes (.ppack a b d f r t x) us d w (([v, y].map fun z =>
          across (64 / sm.width) fun i => fm.convert r t (sm.decode (lane z sm.width i))).flatten)) ∧
      (k ∉ [2, 3, 4, 5, 6] ∨ x = true ∧ k ∉ [5, 6] → illegal (.ppack a b d f r t x))) ∧
    (s.Ready [.one a, .one b, .one c] (.one d) →
      let us := [Use.one a, .one b, .one c]
      let bytes := (s.second us (.one d)) ++ (s.first us (.one d))
      let sel := s.third us (.one d)
      ∃ v : Word, exec (.pperm a b d c) s = .next (s.writes us d v).retired ∧
        ∀ j, j < 8 → v.extractLsb' (8 * j) 8 =
          if bit sel (8 * j + 7) then 0 else bytes.extractLsb' (8 * fld sel (8 * j) 4) 8)

/-- R110–R114, R117–R119, R170–R174: packed integer operations, wide sums and their anchors. -/
def Obligations.PackedIntegersAndWideSums : Prop :=
  (∀ (s : State) (a b : Src) (d : Dst) (f o : BitVec 3) (r sf : BitVec 2) (c4 : BitVec 4) (w u t : Bool), s.mayRetire = true →
     let traps := fun (i : Instr) (c : CauseRec) => (s.take c).2 = false → exec i s = .next (s.take c).1
     let reserved := fun i : Instr => traps i (causeOf .reservedField 0 0)
     let illegal := fun (i : Instr) (k : Nat) => traps i (causeOf .fmtIllegal 0 (wordOf k))
     let answersWs := fun (i : Instr) (us : List Use) (d : Dst) (p : WsPair × Bool) =>
       (p.2 = false ∨ bit s.ctx.fps 7 = false →
         exec i s = .next (((s.took us (.pair d)).flagged [if p.2 then flOF else 0]).deliverPair d p.1.lo p.1.hi).retired) ∧
       (p.2 = true → bit s.ctx.fps 7 = true → traps i (causeOf .fpOverflow 0 1))
     (6 ≤ o.toNat → reserved (.pint a b d w u t o)) ∧
     reserved (.pdot a b d c4 u 3) ∧ (c4 ≠ 0 → reserved (.pdot a b d c4 false sf)) ∧
     (s.Ready [.one a, .one b] (.one d) → o.toNat < 6 →
       let us := [Use.one a, .one b]
       let n := if w then 16 else 8
       ∃ v : Word, exec (.pint a b d w u t o) s = .next (s.writes us d v).retired ∧
         ∀ i, i < 64 / n →
           let num := fun x : BitVec n => if u then (x.toNat : Int) else x.toInt
           let x := num ((s.first us (.one d)).extractLsb' (n * i) n)
           let y := num ((s.second us (.one d)).extractLsb' (n * i) n)
           let z := [x + y, x - y, x * y, min x y, max x y, (x - y).natAbs].getD o.toNat 0
           let lo := if u then 0 else -2 ^ (n - 1)
           let hi := if u then 2 ^ n - 1 else 2 ^ (n - 1) - 1
           v.extractLsb' (n * i) n = BitVec.ofInt n (if t then max lo (min hi z) else z)) ∧
     (s.Ready [.one a, .one b, .one (baseOf d)] (.one d) →
       let us := [Use.one a, .one b, .one (baseOf d)]
       let n := if w then 16 else 8
       let num := fun (un : Bool) (x : BitVec n) => if un then (x.toNat : Int) else x.toInt
       let x := fun i => num u ((s.first us (.one d)).extractLsb' (n * i) n)
       let y := fun i => num t ((s.second us (.one d)).extractLsb' (n * i) n)
       exec (.pdoti a b d t u w) s = .next (s.writes us d
         (s.third us (.one d) + BitVec.ofInt 64 (((List.range (64 / n)).map fun i => x i * y i).foldl (· + ·) 0))).retired) ∧
     (s.Ready [.pair a, .pair b] (.pair d) →
       let us := [Use.pair a, .pair b]
       let y := (s.readied us (.pair d)).me.vals [] us
       let p := wsAddOv ⟨y.getD 0 0, y.getD 1 0⟩ ⟨y.getD 2 0, y.getD 3 0⟩
       answersWs (.wsadd a b d) us d p) ∧
     (s.Ready [.pair a, .one b] (.pair d) →
       let us := [Use.pair a, .one b]
       let p := wsMulOv ⟨s.first us (.pair d), s.second us (.pair d)⟩ (scaleOf sf (fld (s.third us (.pair d)) 0 8))
       answersWs (.wsscl a b d sf) us d p) ∧
     (s.Ready [.pair a, .one b] (.one d) →
       let us := [Use.pair a, .one b]
       let k := s.format f
       let x := s.third us (.one d)
       let scales := if t then (Fmt.bf16.decode (fld x 0 16)).times (Fmt.bf16.decode (fld x 32 16))
         else (Fmt.f32.decode (fld x 0 32)).times (Fmt.f32.decode (fld x 32 32))
       (1 ≤ k → k ≤ 6 → s.AnswersLanes (.wsrnd a b d f r u t) us d (fmtAt k).width
         [(fmtAt k).ofWsScaled r u ⟨s.first us (.one d), s.second us (.one d)⟩ scales]) ∧
       (k = 0 ∨ k = 7 → illegal (.wsrnd a b d f r u t) k)) ∧
     (∀ c, s.Ready [.one a, .one b, .one (.h c)] (.pair d) →
       let us := [Use.one a, .one b, .one (.h c)]
       let k := fld s.ctx.fmt 0 3
       let fm := fmtAt k
       let x := s.third us (.pair d)
       let scale := fun i n => scaleOf ((s.ctx.mx.scf).extractLsb' (2 * i) 2) (fld x (16 * n + 8 * i) 8)
       let block := fun lo n j => wsMul (wsMul (blockSum fm ((List.range n).map fun i =>
         (lane (s.first us (.pair d)) fm.width (lo + i), lane (s.second us (.pair d)) fm.width (lo + i)))) (scale 0 j)) (scale 1 j)
       let answers := fun sel p => exec (.pdot a b d (BitVec.ofNat 4 c.val) true sel) s = .next (s.writesPair us d p.lo p.hi).retired
       (k = 5 ∨ k = 6 → answers 0 (wsAdd .zero (block 0 8 0)) ∧ answers 1 (wsAdd .zero (block 0 8 0))) ∧
       (k = 7 → answers 0 (wsAdd (wsAdd .zero (block 0 8 0)) (block 8 8 1)) ∧ answers 1 (wsAdd .zero (block 0 8 0)) ∧
         answers 2 (wsAdd .zero (block 8 8 1))) ∧
       (k < 5 ∨ sf = 2 → k ≠ 7 → sf ≠ 3 → illegal (.pdot a b d (BitVec.ofNat 4 c.val) true sf) k)) ∧
     (s.Ready [.one a, .one b] (.pair d) →
       let us := [Use.one a, .one b]
       let k := fld s.ctx.fmt 0 3
       let fm := fmtAt k
       let block := fun lo n => blockSum fm ((List.range n).map fun i =>
         (lane (s.first us (.pair d)) fm.width (lo + i), lane (s.second us (.pair d)) fm.width (lo + i)))
       let p := if k = 7 then wsAdd (wsAdd .zero (block 0 8)) (block 8 8) else wsAdd .zero (block 0 (64 / fm.width))
       let answers := fun sel (p : WsPair) => exec (.pdot a b d 0 false sel) s = .next (s.writesPair us d p.lo p.hi).retired
       (2 ≤ k → k ≤ 7 → answers 0 p) ∧
       (5 ≤ k → k ≤ 7 → answers 1 (wsAdd .zero (block 0 8))) ∧
       (k = 7 → answers 2 (wsAdd .zero (block 8 8))) ∧
       (k < 2 ∨ sf = 1 ∧ k < 5 ∨ sf = 2 ∧ k ≠ 7 → sf ≠ 3 → illegal (.pdot a b d 0 false sf) k))) ∧
  (∀ (x y : WsPair) (s : Factor) (n m : Bool) (v w : Dyad) (l l' : Bool),
     (x.val = .nan ∨ y.val = .nan → wsAddOv x y = (.nan, false)) ∧
     (x.val = .nan ∨ s.isNan = true → wsMulOv x s = (.nan, false)) ∧
     (x.val = .inf n → y.val = .inf m → wsAddOv x y = (if n = m then .inf n else .nan, false)) ∧
     (x.val = .fin v l → y.val = .fin w l' → ∃ z e, (e ≤ v.e ∨ v.z = 0) ∧ (e ≤ w.e ∨ w.z = 0) ∧
       z = v.z * (2 ^ (v.e - e).toNat : Nat) + w.z * (2 ^ (w.e - e).toNat : Nat) ∧ wsAddOv x y = wsMake ⟨z, e⟩ (l || l')) ∧
     (∀ k e, x.val = .fin v l → wsMulOv x (.fin n k e) = wsMake ⟨v.z * (if n then -(k : Int) else k), v.e + e⟩ l) ∧
     (∀ e, x.val = .inf n → wsMulOv x (.fin m 0 e) = (.nan, false))) ∧
  (∀ (z e : Int) (lostin : Bool),
     let p := (wsMake ⟨z, e⟩ lostin).1
     let ov := (wsMake ⟨z, e⟩ lostin).2
     let anchor := fld p.hi 2 14
     let fits := fun (a : Nat) => -2 ^ 111 ≤ shiftFloor z (e + 8191 - a) ∧ shiftFloor z (e + 8191 - a) < 2 ^ 111
     (z = 0 → ov = false ∧ p = ⟨0, if lostin then 1 else 0⟩) ∧
     (z ≠ 0 → ov = true → p = WsPair.inf (decide (z < 0)) ∧ ∀ a, a ≤ 16383 → ¬fits a) ∧
     (z ≠ 0 → ov = false →
       fits anchor ∧ (∀ a, a < anchor → ¬fits a) ∧ p.int = shiftFloor z (e + 8191 - anchor) ∧
       ∃ l, p.val = .fin ⟨shiftFloor z (e + 8191 - anchor), (anchor : Int) - 8191⟩ l ∧
         (l = false ↔ lostin = false ∧ (0 ≤ e + 8191 - anchor ∨ z % 2 ^ (anchor - 8191 - e).toNat = 0))))

/-! ## Control registers and system instructions (R122, R125, R126, R223, R224) -/

/-- R121, R122, R224: the instructions on the core's own state. -/
def Obligations.SystemInstructionsRun : Prop :=
  ∀ (s : State) (a : Src) (d : Dst), s.mayRetire = true →
    exec .nop s = .next s.retired ∧
    exec (.gate 1) s = .next (s.updCtx fun c => { c with gate := 1 }).retired ∧
    exec (.gate 2) s = .next (s.updCtx fun c => { c with gate := 2, bankLost := true }).retired ∧
    ((s.take (causeOf .reservedField 0 0)).2 = false → exec (.gate 3) s = .next (s.take (causeOf .reservedField 0 0)).1) ∧
    (∃ regs, exec (.gate 0) s = .next (s.updCtx fun c => { c with
        gate := 0, regs := regs, bankLost := if c.gate = 0 then c.bankLost else false
        gateloss := if c.gate ≠ 0 ∧ (c.bankLost = true ∨ c.gate = 2) then true else c.gateloss }).retired ∧
      ∀ n, n < 16 → vget Reg.reset regs n =
        if 8 ≤ n ∧ s.ctx.gate ≠ 0 ∧ (s.ctx.bankLost = true ∨ s.ctx.gate = 2) ∧ (s.reg n).cond = .present then
          ⟨0, .present, none⟩
        else s.reg n) ∧
    ((∀ n, n < 16 → (s.reg n).cond = .absent → (s.savedReg s.cur n).isSome = true) →
      ∃ regs, exec .rfill s = .next (s.updCtx fun c => { c with regs := regs }).retired ∧
        ∀ n, n < 16 → vget Reg.reset regs n =
          if (s.reg n).cond = .absent then ⟨(s.savedReg s.cur n).getD 0, .present, none⟩ else s.reg n) ∧
    (∀ n, n < 16 → (s.reg n).cond = .absent → s.savedReg s.cur n = none →
      (∀ m, m < n → (s.reg m).cond = .absent → (s.savedReg s.cur m).isSome = true) →
      (s.take (causeOf .restorePoison 0 (wordOf n))).2 = false →
      exec .rfill s = .next (s.take (causeOf .restorePoison 0 (wordOf n))).1) ∧
    (s.Ready [.one a] .none → exec (.stamp a (.h 0) 0) s =
      .next ((s.took [.one a] .none).updCtx fun c => { c with st := s.first [.one a] .none }).retired) ∧
    (s.Ready [] (.one d) →
      exec (.stamp (.q 0) d 1) s = .next (s.writes [] d (wordOf s.ns)).retired ∧
      exec (.cyc d false) s = .next (s.writes [] d (wordOf s.cycles)).retired ∧
      exec (.cyc d true) s = .next (s.writes [] d (wordOf s.me.retired)).retired)

/-- R125, R126, R223: access to control registers. -/
def Obligations.ControlRegisterAccess : Prop :=
  ∀ (s : State) (a : Src) (d : Dst) (n : BitVec 12) (clr : Bool) (r w : RegRight), s.mayRetire = true →
    let k := n.toNat
    let sup := s.ctx.priv
    let fails := fun (i : Instr) (c : Cause) (info : Word) => (s.take (causeOf c 0 info)).2 = false →
      exec i s = .next (s.take (causeOf c 0 info)).1
    let whole := k ∉ [2, 0x201, 0x409] ∧ (k = 0x200 → sup = true)
    let open31 := fun v : Word => k = 0x200 → bit v 31 = true → sup = true ∨ s.me.cmask.getLsbD 31 = true
    (cregRights k = none → fails (.getc d n) .reservedField 0 ∧ fails (.setc a n) .reservedField 0 ∧
      fails (.swpc a d n) .reservedField 0 ∧ fails (.setcb a d clr n) .reservedField 0) ∧
    (cregRights k = some (r, w) →
      (s.Ready [] (.one d) →
        (r.admits sup = true → exec (.getc d n) s = .next (s.writes [] d ((s.took [] (.one d)).creg k)).retired) ∧
        (r.admits sup = false → fails (.getc d n) .privReg (wordOf k))) ∧
      (s.Ready [.one a] .none →
        let v := s.first [.one a] .none
        (w.admits sup = false → fails (.setc a n) .privReg (wordOf k)) ∧
        (w.admits sup = true → open31 v →
          (cregBad k v = true → fails (.setc a n) .reservedField 0) ∧
          (cregBad k v = false → ∃ t, exec (.setc a n) s = .next t ∧ t.mem = s.mem ∧ (whole → t.creg k = v) ∧
            (∀ m, m ≠ k → (cregRights m).isSome = true → t.creg m = (s.took [.one a] .none).retired.creg m) ∧
            (k = 2 → sup = false → t.ctx.priv = false ∧ t.ctx.resumed = s.ctx.resumed ∧ t.ctx.retries = s.ctx.retries)))) ∧
      (s.Ready [.one a] (.one d) → r.admits sup = true → w.admits sup = true →
        let us := [Use.one a]
        let v := s.first us (.one d)
        let old := (s.took us (.one d)).creg k
        let changes := fun (i : Instr) (nw : Word) => open31 nw →
          (cregBad k nw = true → fails i .reservedField 0) ∧
          (cregBad k nw = false → ∃ t, exec i s = .next t ∧ t.mem = s.mem ∧ (whole → t.creg k = nw) ∧
            (∀ m, m ≠ k → (cregRights m).isSome = true → t.creg m = (s.writes us d old).retired.creg m) ∧
            (∀ n, n < 16 → t.reg n = (s.writes us d old).retired.reg n) ∧
            t.ctx.trellis = (s.writes us d old).retired.ctx.trellis)
        changes (.swpc a d n) v ∧ changes (.setcb a d false n) (old ||| v) ∧ changes (.setcb a d true n) (old &&& ~~~v)))

/-- R30, R34–R36, R224: translation, its buffers and its generations. -/
def Obligations.TranslationIsManaged : Prop :=
  ∀ (s : State),
    (∀ a b x, let us := [Use.pair a, Use.one b]
      let lo := s.first us .none
      let hi := s.second us .none
      s.Ready us .none → s.mayRetire = true →
      (s.ctx.priv = false → (s.take (causeOf .privInstr 0 0)).2 = false →
        exec (.xinv a b) s = .next (s.take (causeOf .privInstr 0 0)).1) ∧
      (s.ctx.priv = true → fld hi 18 46 = 0 → fld lo 6 6 = 0 → fld lo 56 8 = 0 → fld lo 0 6 ≤ 44 →
        (s.readied us .none).accepts (s.third us .none) 8 .w x →
        ∃ t, exec (.xinv a b) s = .next t ∧ t.tgen = s.tgen + 1 ∧ t.mem = s.mem ∧ t.me = (s.took us .none).retired.me ∧
          ∀ cl, (t.cluster cl).invals = (s.cluster cl).invals ++
            if s.clusterLive cl then [⟨wordOf (fld lo 12 44 * 4096), fld lo 0 6, hi.truncate 16, bit hi 16, bit hi 17, x.pa,
              s.tgen + 1, s.ctx.st⟩] else [])) ∧
    (∀ a d, let us := [Use.one a]
      s.Ready us (.one d) → s.mayRetire = true →
      (∀ x, (s.readied us (.one d)).translate s.cur s.ctx.priv (s.first us (.one d)) .r = .ok x → x.rights < 8 → x.attr < 4 →
        x.source < 4 → x.pa < 2 ^ 52 →
        ∃ v, exec (.xprobe a d) s = .next (s.writes us d v).retired ∧ bit v 0 = true ∧ fld v 1 3 = x.rights ∧
          bit v 5 = x.mig ∧ fld v 8 2 = x.attr ∧ fld v 10 2 = x.source ∧ fld v 12 40 = x.pa / 4096 ∧ fld v 52 12 = 0) ∧
      (∀ c i, (s.readied us (.one d)).translate s.cur s.ctx.priv (s.first us (.one d)) .r = .fault c i →
        exec (.xprobe a d) s = .next (s.writes us d 0).retired)) ∧
    (∀ cl n m, (s.cluster cl).misses[n]? = some m → m.result = none →
      ∃ t, exec (.translationWalk cl n) s = .next t ∧ t.mem = s.mem ∧ t.cores = s.cores ∧
        (∀ pte size, (s.walk (cl / 256) m.root m.va).1 = .leaf pte size →
          let same := fun e : Tlb => e.asid = m.asid ∧ e.page = m.va.toNat / 2 ^ size ∧ e.size = size
          (∃ kept, (t.cluster cl).tlb = ⟨m.asid, m.va.toNat / 2 ^ size, size, pte, (s.cluster cl).gen⟩ :: kept ∧
            (∀ e ∈ kept, e ∈ (s.cluster cl).tlb ∧ ¬same e) ∧ ((s.cluster cl).tlb.length ≤ 1024 → kept.length < 1024) ∧
            ((s.cluster cl).tlb.length < 1024 → ∀ e ∈ (s.cluster cl).tlb, ¬same e → e ∈ kept)) ∧
          (t.cluster cl).misses = (s.cluster cl).misses.eraseIdx n) ∧
        (∀ lvl bad, (s.walk (cl / 256) m.root m.va).1 = .miss lvl bad → (t.cluster cl).tlb = (s.cluster cl).tlb ∧
          (t.cluster cl).misses = (s.cluster cl).misses.set n { m with result := some (.miss lvl bad) })) ∧
    (∀ cl i rest k, (s.cluster cl).invals = i :: rest → s.place (cl / 256) i.arr = .spad k → s.tagAt k = tagArrival →
      s.quietAt k → arrMode (s.word k) = 0 → arrCount (s.word k) + 1 < arrTarget (s.word k) →
      let span := 2 ^ i.log2 * 4096
      let hit := fun t : Tlb => (if bit t.pte 7 then i.glob = true else t.asid = i.asid) ∧
        (i.all = true ∨ (i.va.toNat / span * span < (t.page + 1) * 2 ^ t.size ∧
          t.page * 2 ^ t.size < (i.va.toNat / span + 1) * span))
      ∃ t, exec (.translationInvalidation cl) s = .next t ∧ (t.cluster cl).invals = rest ∧
        (∀ e, e ∈ (t.cluster cl).tlb ↔ e ∈ (s.cluster cl).tlb ∧ ¬hit e) ∧
        (t.cluster cl).gen = max (s.cluster cl).gen i.gen ∧
        (t.cluster cl).misses =
          ((s.cluster cl).misses.map fun m => if m.gen < i.gen then { m with gen := i.gen, result := none } else m) ∧
        t.mem = (s.write k 8 (setFld (s.word k) 0 27 (arrCount (s.word k) + 1))).mem ∧ t.tags = s.tags) ∧
    (∀ p, ∃ t, exec (.quarantineReturn p) s = .next t ∧
      (∀ q, q ∈ t.kiosk.quarantine ↔ q ∈ s.kiosk.quarantine ∧ (q.part ≠ p ∨ s.qgen ≤ q.gen)) ∧
      (∀ q ∈ s.kiosk.quarantine, q.part = p → q.gen < s.qgen → (q.first, q.count) ∈ t.kiosk.freed) ∧
      t.mem = s.mem ∧ t.cores = s.cores)

/-- R129, R222, R224, R293, R298, R334, R414: the ends of activations, the return from inline code, and the resumption of a stopped team. -/
def Obligations.ActivationsAndInlineCodeEnd : Prop :=
  (∀ (s : State) (x : Act), s.me.inl = none → s.me.act = some x → s.mayRetire = true → s.me.flight = [] → s.me.causes = [] →
     x.chLive = 0 → x.mxLive = 0 → x.nm = [] → x.held = [] →
     let ended := fun (t : State) => t.me.act = none ∧ t.ctx = Ctx.reset ∧ t.me.wait = none ∧ t.me.retired = s.me.retired + 1 ∧
       (∀ p ∈ t.parked, p.core ≠ s.cur) ∧ (∀ c, c ≠ s.cur → t.core c = s.core c) ∧
       ∀ l k, x.launch = some l → s.launch? l = some k → ∃ m, t.launch? l = some m ∧ m.live = k.live - 1
     ((∃ pa, x.source = .slot pa) ∨ (∃ m, x.source = .message m) →
       (∃ t, exec .done s = .next t ∧ ended t ∧ t.mem = s.mem ∧ t.tags = s.tags) ∧
       (∀ a l k, s.Ready [.one a] .none → portsOf [.one a] = [] → x.launch = some l → s.launch? l = some k → k.parent = none →
         ∃ t, exec (.halt a) s = .next t ∧ ended t ∧ t.mem = s.mem ∧
           ∃ m, t.launch? l = some m ∧ m.user = s.first [.one a] .none)) ∧
     (∀ pa, x.source = .tcb pa → pa % 64 = 0 → s.word (pa + 48) = 0 → s.quietAt (pa + 56) → s.Canonical →
       ∃ t, exec .done s = .next t ∧ ended t ∧ fld (t.word (pa + 56)) 48 2 = 3 ∧
         fld (t.word (pa + 56)) 0 48 = fld (s.word (pa + 56)) 0 48 ∧ (∀ a, a / 8 ≠ (pa + 56) / 8 → readByte t.mem a = readByte s.mem a))) ∧
  (∀ (s : State),
     (∀ i n m, s.me.inl = some i → (∀ a ∈ s.me.flight, a.inl = true → a.live = true → a.parts = [] ∧ a.failed? = false) →
       s.me.disp.inbox[n]? = some m → m = i.msg →
       (∀ j, j < n → s.me.disp.inbox[j]? ≠ some m) →
       ∃ t, exec .hret s = .next t ∧ t.me.inl = none ∧ t.ctx = i.outer ∧ t.me.wait = i.outerWait ∧
         t.me.disp.inbox = s.me.disp.inbox.eraseIdx n ∧ t.me.retired = s.me.retired + 1 ∧ t.mem = s.mem) ∧
     (∀ a, s.ctx.pc + 4 ≠ s.ctx.blockEnd → (s.take (causeOf .callNotLast 0 0)).2 = false →
       exec (.resumeTeam a) s = .next (s.take (causeOf .callNotLast 0 0)).1) ∧
     (∀ a, s.ctx.pc + 4 = s.ctx.blockEnd → s.Ready [.one a] .none →
       let us := [Use.one a]
       let key := s.descKey s.cur (s.first us .none)
       (s.ctx.priv = false → (s.take (causeOf .privInstr 0 0)).2 = false →
         exec (.resumeTeam a) s = .next (s.take (causeOf .privInstr 0 0)).1) ∧
       (s.ctx.priv = true → s.mayRetire = true →
         (s.stoppedTeam key = none → exec (.resumeTeam a) s = .next (s.took us .none).retired) ∧
         (∀ l g n tm x, s.stoppedTeam key = some (l, g, n, tm) → s.launch? l = some x → key % 8 = 0 → s.quietAt key →
           s.Canonical → tm.cores.Nodup → s.cur ∉ tm.cores →
           let runs := fun x : Launch => x.updTeam g n fun tm => { tm with stopped := false, bar := ⟨[], [], []⟩ }
           let s0 := ((s.took us .none).updLaunch l runs).writeWord key
             (setFld (s.word key) 5 3 (fld (s.word key) 5 3 + 1))
           let frame := fun c r : Nat => s0.ckptAt c ((s.word (key + 24)).toNat + 512 * r)
           let saved := fun c r o : Nat => (frame c r o).getD 0
           let again := fun c r : Nat => c ∈ tm.live ∧ tm.cores[r]? = some c ∧ (s.core c).ctx.len ≠ 0
           (∀ c ∈ tm.live, (s.core c).inl = none) →
           (∀ c r, again c r → (∀ o ∈ frameReads (frame c r), (frame c r o).isSome = true) ∧
             (s0.resumeBlock c ((s.core c).ctx.priv && bit (saved c r 0x158) 0) (frame c r)).isSome = true) →
           ∃ t, exec (.resumeTeam a) s = .next t ∧ t.launch? l = some (runs x) ∧ t.me = (s.took us .none).retired.me ∧
             fld (t.word key) 5 3 = (fld (s.word key) 5 3 + 1) % 8 ∧
             (∀ c r, again c r → (t.core c).act = (s.core c).act ∧ (t.core c).wait = none ∧ (t.core c).ibuf = [] ∧
               (t.core c).ctx.pc = saved c r 0x100 ∧ (t.core c).ctx.hdr = saved c r 0x1C8 ∧
               (t.core c).ctx.st = saved c r 0x170 ∧ (t.core c).ctx.ycnt = (s.core c).ctx.ycnt ∧
               ∀ n, n < 16 → if fld (saved c r 0x108) n 1 = 1 then
                 vget Reg.reset (t.core c).ctx.regs n = ⟨saved c r (8 * n), .present, none⟩
               else (vget Reg.reset (t.core c).ctx.regs n).cond = .dead) ∧
             (∀ c, c ≠ s.cur → (∀ r, ¬again c r) → t.core c = s.core c)))))

/-! ## The matrix unit (R228–R246) -/

/-- R229, R231, R234, R244–R246: the issue of matrix commands. -/
def Obligations.MatrixCommandsAreIssued : Prop :=
  ∀ (s : State) (a b : Src) (d : Dst) (c : BitVec 2) (init : Bool), s.mayRetire = true → s.me.mx.queued < 8 →
    let r := s.ctx.mx
    let entering := fun (u : State) (w0 w1 w2 w3 : Word) =>
      let v := s.me.mx.issued + 1
      let seen := wordOf v + (s.me.act.map fun a => a.mxOffset).getD 0
      let m : MxCmd := ⟨w0, w1, w2, w3, s.ctx.st, none, s.ctx.pc, s.ctx.priv, v, true, s.me.nextId, 0, false⟩
      ((u.updMe fun k => { k with
        mx := { k.mx with inbox := k.mx.inbox ++ [m], issued := v }
        act := k.act.map fun a => { a with mxLive := a.mxLive + 1, mxLast := seen } }).deliver d seen).retired
    let issues := fun (i : Instr) (us : List Use) (opc : Nat) (ini : Bool) (w1 w2 w3 : Word) =>
      ∃ w0, (fld w0 0 4 = opc ∧ fld w0 4 2 = c.toNat ∧ bit w0 6 = ini ∧ bit w0 7 = bit r.tdim 17 ∧
          fld w0 8 3 = fld r.fmta 0 3 ∧ fld w0 11 3 = fld r.fmtb 0 3 ∧ fld w0 14 6 = fld r.scf 0 6 ∧
          fld w0 20 6 = fld r.tof 0 6 ∧ fld w0 27 17 = fld r.tdim 0 17 ∧ fld w0 44 16 = fld r.tdim 18 16) ∧
        let s1 := s.readied us (.one d)
        (s1.mxCheck s.cur w0 w1 w2 = none → exec i s = .next (entering (s.took us (.one d)) w0 w1 w2 w3)) ∧
        (∀ e, s1.mxCheck s.cur w0 w1 w2 = some e → (s.take (causeOf e.cause e.addr e.info)).2 = false →
          exec i s = .next (s.take (causeOf e.cause e.addr e.info)).1)
    (s.Ready [.one b] (.one d) →
      issues (.tzero b d c) [.one b] 1 false 0 0 (s.first [.one b] (.one d))) ∧
    (s.Ready [.one a, .one b] (.one d) →
      let us := [Use.one a, .one b]
      let x := s.first us (.one d)
      let y := s.second us (.one d)
      let scales := wordOf (fld r.tsa 0 32 + fld r.tsb 0 32 * 2 ^ 32)
      issues (.tst a b d c) us 2 false x scales y ∧ issues (.tred a b d c) us 3 false x scales y ∧
      issues (.tws a b d c) us 4 false x 0 y ∧ issues (.twsl a b d c) us 5 false x 0 y ∧
      issues (.tld a b d c) us 6 false x 0 y ∧ issues (.tacc a b d c) us 7 false x 0 y ∧
      (0xFF000000000000 ≤ x.toNat → x.toNat < 0xFF000000000000 + 2 ^ 23 → 0xFF000000000000 ≤ y.toNat →
        y.toNat < 0xFF000000000000 + 2 ^ 23 →
        issues (.tmm a b d init c) us 0 init (wordOf (fld x 0 23 + fld y 0 23 * 2 ^ 23))
          (wordOf (fld r.scpa 0 23 + fld r.scpb 0 23 * 2 ^ 23)) 0)) ∧
    (s.Ready [.one a, .one b] .none →
      let us := [Use.one a, .one b]
      let x := s.first us .none
      let y := s.second us .none
      let dims := 1 ≤ fld x 27 5 ∧ fld x 27 5 ≤ 16 ∧ 1 ≤ fld x 32 5 ∧ fld x 32 5 ≤ 16 ∧ 1 ≤ fld x 37 7 ∧ fld x 37 7 ≤ 64
      let ok := bit x 26 = false ∧ fld x 60 4 = 0 ∧ dims ∧ fld x 18 2 ≠ 3 ∧ fld y 46 18 = 0
      (ok → ∃ tdim, exec (.tcfg a b) s = .next ((s.took us .none).updCtx fun k => { k with mx := { k.mx with
          fmta := wordOf (fld x 8 3), fmtb := wordOf (fld x 11 3), scf := wordOf (fld x 14 6), tof := wordOf (fld x 20 6)
          tdim := tdim, scpa := wordOf (fld y 0 23), scpb := wordOf (fld y 23 23) } }).retired ∧
        fld tdim 0 17 = fld x 27 17 ∧ bit tdim 17 = bit x 7 ∧ fld tdim 18 16 = fld x 44 16 ∧ fld tdim 34 30 = 0) ∧
      (¬ok → (s.take (causeOf .reservedField 0 0)).2 = false →
        exec (.tcfg a b) s = .next (s.take (causeOf .reservedField 0 0)).1)) ∧
    (s.Ready [.one a] (.one d) →
      let us := [Use.one a]
      let va := s.first us (.one d)
      (((s.readied us (.one d)).localKey s.cur va 32).isSome = true →
        ((s.readied us (.one d)).localKey s.cur (va + 24) 8).isSome = true →
        ∀ w i0 i1 i2 i3 v0 v1 v2 v3, s.me.wait = some w → w.what = .loads →
          w.vals = [(i0, some v0), (i1, some v1), (i2, some v2), (i3, some v3)] → (∀ x ∈ s.me.flight, x.failed? = false) →
          exec (.tcmd a d) s = .next (entering (s.took us (.one d)) v0 v1 v2 v3)) ∧
      (va.toNat % 32 ≠ 0 → (s.take (causeOf .mxAddr va 5)).2 = false →
        exec (.tcmd a d) s = .next (s.take (causeOf .mxAddr va 5)).1))

/-- R239–R246: what matrix commands do to accumulators and to memory. -/
def Obligations.MatrixCommandsWork : Prop :=
  (∀ (s : State) (pre post : List MxCmd) (m : MxCmd), s.me.mx.inbox = pre ++ m :: post →
     let w := m.w0
     let k := imAcc w
     let old := vget Accum.reset s.me.mx.accs k
     let rows := imM w
     let cols := imN w
     (∀ p ∈ pre, p.done = true) → m.done = false →
     (m.pos = 0 → m.w3 = 0 → imBad w m.w1 m.w2 = false → s.mxCheck s.cur w m.w1 m.w2 = none → s.mxBehind s.cur m = false →
       old.cond = .held ∨ old.cond = .clean → SMap.wf WsPair.zero old.elems = true → s.mxPoisoned s.cur w m.w1 m.w2 = none →
       let runs := fun (i : Instr) (opc : Nat) (elem : Nat → Nat → WsPair) => imOpc w = opc →
         ∃ t, exec i s = .next t ∧ t.mem = s.mem ∧ t.tags = s.tags ∧
           t.me.mx.inbox = pre ++ { m with done := true } :: post ∧ t.me.mx.retired = s.me.mx.retired ∧
           (∀ j, j < 4 → j ≠ k → vget Accum.reset t.me.mx.accs j = vget Accum.reset s.me.mx.accs j) ∧
           ∀ i j, i < 16 → j < 16 → (vget Accum.reset t.me.mx.accs k).elem i j = elem i j
       let raw := fun i j =>
         let a := m.w1 + wordOf (256 * i + 16 * j)
         (WsPair.val ⟨wordOf (s.localBytes s.cur a 8), wordOf (s.localBytes s.cur (a + 8) 8)⟩).make.1
       let fa := fmtAt (imFa w)
       let fb := fmtAt (imFb w)
       let line := fun off stride i words => s.localLine s.cur (off + i * strideOf stride) words
       let a := fun i k => lineLane (line (fld m.w1 0 23) (imStra w) i (aWords w)) fa.width k
       let b := fun k j => if imTrb w then lineLane (line (fld m.w1 23 23) (imStrb w) k (bWords w)) fb.width j
         else lineLane (line (fld m.w1 23 23) (imStrb w) j (bWords w)) fb.width k
       let scale := fun sf off i n => scaleOf sf (s.localBytes s.cur (offsetVa (off + 8 * i + n / imRep w)) 1)
       let block := fun i j n => wsMul (wsMul (blockSum2 fa fb (((List.range 8).filter fun q => decide (8 * n + q < imK w)).map
         fun q => (a i (8 * n + q), b (8 * n + q) j))) (scale (imSfa w) (fld m.w2 0 23) i n)) (scale (imSfb w) (fld m.w2 23 23) j n)
       let product := fun i j => (List.range ((imK w + 7) / 8)).foldl (fun acc n => wsAdd acc (block i j n)) WsPair.zero
       runs .opcZero 1 (fun _ _ => WsPair.zero) ∧
       runs .opcMm 0 (fun i j =>
         let start := if imInit w then WsPair.zero else old.elem i j
         if i < rows ∧ j < cols then wsAdd start (product i j) else start) ∧
       runs .opcWsl 5 raw ∧
       runs .opcLd 6 (fun i j => if i < rows ∧ j < cols then
         ((fmtAt (imOfmt w)).decode (s.localBytes s.cur (m.w1 + wordOf (i * rowStride w + j * elemBytes w)) (elemBytes w))).toWs
         else WsPair.zero) ∧
       runs .opcAcc 7 (fun i j => wsAdd (old.elem i j) (raw i j))) ∧
     (∀ r rest, s.me.mx.inbox = r :: rest → r.done = true → r.from? = none → ∃ t, exec .matrixCommandRetire s = .next t ∧
       t.me.mx.inbox = rest ∧ t.me.mx.retired = s.me.mx.retired + 1 ∧ t.mem = s.mem ∧
       t.me.act = if r.owned then s.me.act.map fun a => { a with mxLive := a.mxLive - 1 } else s.me.act)) ∧
  (∀ (s : State) (pre post : List MxCmd) (m : MxCmd) (x : Xlated) (key : Nat), s.Canonical →
     s.me.mx.inbox = pre ++ m :: post → (∀ p ∈ pre, p.done = true) → m.done = false → m.w3 = 0 →
     let w := m.w0
     let p := m.pos
     let acc := vget Accum.reset s.me.mx.accs (imAcc w)
     acc.cond = .held ∨ acc.cond = .clean → imBad w m.w1 m.w2 = false → s.mxCheck s.cur w m.w1 m.w2 = none →
     let cols := imN w
     let writes := fun (i : Instr) (opc total n : Nat) (va : Word) (now : Nat) => imOpc w = opc →
       (p < total → s.translateHit s.cur m.sup va .w = .ok x → x.place = .spad key → x.mig = false → key % 8 + n ≤ 8 →
         s.quietAt key → s.tagAt key ≠ tagArrival → s.tagAt key ≠ tagPoison →
         ∃ t, exec i s = .next t ∧ t.me.mx.inbox = pre ++ { m with pos := p + 1 } :: post ∧
           t.me.mx.accs = s.me.mx.accs ∧ readBytes t.mem key n = now ∧
           ∀ a, a < key ∨ key + n ≤ a → readByte t.mem a = readByte s.mem a) ∧
       (p = total → ∃ t, exec i s = .next t ∧ t.me.mx.inbox = pre ++ { m with done := true } :: post ∧
         t.me.mx.accs = s.me.mx.accs ∧ t.mem = s.mem ∧ t.tags = s.tags)
     let fm := if imOpc w = 3 then Fmt.f32 else fmtAt (imOfmt w)
     let scales := (Fmt.f32.decode (fld m.w2 0 32)).times (Fmt.f32.decode (fld m.w2 32 32))
     let rounded := (fm.ofWsScaled (imOrnd w) (imOsat w) (acc.elem (p / cols) (p % cols)) scales).code
     let at_ := m.w1 + wordOf (p / cols * rowStride w + p % cols * elemBytes w)
     writes .opcSt 2 (imM w * cols) (elemBytes w) at_ rounded ∧
     writes .opcRed 3 (imM w * cols) 4 at_ 
       (Fmt.f32.add 0 false (Fmt.f32.decode (readBytes s.mem key 4)) (Fmt.f32.decode rounded)).code ∧
     writes .opcWs 4 512 8 (m.w1 + wordOf (8 * p))
       (let e := acc.elem (p / 2 / 16) (p / 2 % 16)
        (if p % 2 = 0 then e.lo else e.hi).toNat))

/-! ## Rings, stacks and migration (R271, R273, R379–R394, R402) -/

/-- R271, R273, R380, R387, R388, R393, R394, R402: what advances beside the cores. -/
def Obligations.RingsAndStacksAdvance : Prop :=
  ∀ (s : State),
    (∀ cl, s.clusterLive cl = true → ∃ t, exec (.ringArbitrationRound cl) s = .next t ∧ t.mem = s.mem ∧
      (∀ c, c / 16 ≠ cl → t.core c = s.core c) ∧
      ∀ c, c < 16 →
        let k := s.core (cl * 16 + c)
        let ring := k.flight.filter fun a => !a.injected
        let d := vget 0 (s.cluster cl).deficit c + 64 * (vget 1 (s.cluster cl).wgt c).toNat
        let cost := fun n => ((ring.take n).map fun a => a.op.cost).sum
        let left := vget 0 (t.cluster cl).deficit c
        (ring = [] → t.core (cl * 16 + c) = k ∧ left = 0) ∧
        (ring ≠ [] → ring.length ≤ 32 → (k.flight.map Access.id).Nodup → ∃ n q, n ≤ ring.length ∧ (s.cluster cl).seq ≤ q ∧ cost n ≤ d ∧
          (n < ring.length → d < cost (n + 1)) ∧ left = d - cost n ∧
          t.core (cl * 16 + c) = { k with flight := k.flight.map fun a =>
            if ((ring.take n).map Access.id).contains a.id then { a with injected := true, order := q + (ring.map Access.id).idxOf a.id + 1 } else a })) ∧
    (∀ cl n, s.clusterLive cl = true → (s.cluster cl).sbrate ≠ 0 → ∃ t, exec (.storeBudgetRefill cl n) s = .next t ∧
      let e := s.cluster cl
      let level := (t.cluster cl).sblevel
      t.mem = s.mem ∧ (e.sblevel + n ≤ e.capacity → level = e.sblevel + n) ∧
      (e.sblevel ≤ e.capacity → e.capacity < e.sblevel + n → level = e.capacity) ∧ (e.capacity < e.sblevel → level = e.sblevel)) ∧
    (∀ stack chan, stack < 12 → chan < 32 → (∀ q ∈ SMap.get [] (s.stack stack).wq chan, stackOf q.line = stack ∧ channelOf q.line = chan ∧
        SMap.find (s.stack stack).errs (q.line / 64 * 64) = none) →
      SMap.wf [] (s.stack stack).wq = true → ∃ t, exec (.writeWindow stack chan) s = .next t ∧
        t.mem = s.mem ∧ t.poison = s.poison ∧ t.tags = s.tags ∧
        (∀ c, SMap.get [] (t.stack stack).wq c = if c = chan then [] else SMap.get [] (s.stack stack).wq c) ∧
        ∀ q, (SMap.get [] (s.stack stack).wq chan).getLast? = some q →
          SMap.find (t.stack stack).openRow (bankKey chan (bankOf (chanOffset q.line))) = some (rowOf (chanOffset q.line))) ∧
    (∀ stack chan bank, stack < 12 → chan < 32 → bank < 64 →
      let k := s.stack stack
      let r := SMap.get 0 k.refRow (bankKey chan bank)
      SMap.risingFrom none k.openRow = true → SMap.wf 0 k.counts = true → SMap.wf 0 k.refRow = true →
      ∃ t, exec (.refresh stack chan bank) s = .next t ∧ t.mem = s.mem ∧
        SMap.find (t.stack stack).openRow (bankKey chan bank) = none ∧
        SMap.get 0 (t.stack stack).refRow (bankKey chan bank) = (r + 1) % 24576 ∧
        ∀ x, SMap.get 0 (t.stack stack).counts x = if x = rowKey chan bank r then 0
          else if (SMap.find k.openRow (bankKey chan bank)).map (rowKey chan bank) = some x then min 65535 (SMap.get 0 k.counts x + 1)
          else SMap.get 0 k.counts x) ∧
    (∀ stack chan bank row, stack < 12 → chan < 32 → bank < 64 → row < 24576 →
      let k := s.stack stack
      SMap.risingFrom none k.openRow = true → SMap.wf 0 k.counts = true →
      fld k.actth 0 16 ≤ SMap.get 0 k.counts (rowKey chan bank row) →
      ∃ t, exec (.rowAlert stack (rowKey chan bank row)) s = .next t ∧ t.mem = s.mem ∧
        SMap.find (t.stack stack).openRow (bankKey chan bank) = none ∧
        (∀ x, SMap.get 0 (t.stack stack).counts (rowKey chan bank x) =
          if x < 24576 ∧ (x = row ∨ x + 1 = row ∨ x = row + 1) then 0
          else if SMap.find k.openRow (bankKey chan bank) = some x then min 65535 (SMap.get 0 k.counts (rowKey chan bank x) + 1)
          else SMap.get 0 k.counts (rowKey chan bank x)) ∧
        fld (t.stack stack).sfault 0 8 = Cause.rowAlert.code.toNat ∧
        ∃ e : Event, t.kiosk.events = s.kiosk.events ++ [e] ∧ fld e.w0 0 8 = Cause.rowAlert.code.toNat ∧ fld e.w0 8 8 = 6 ∧
          e.w2 = wordOf bank ∧ e.part = none) ∧
    (∀ stack entry g line k', s.Canonical → stack < 12 → (s.stack stack).migs[entry]? = some g → g.valid = true →
      line < 64 → bit g.present line = false → (∀ i, i < line → bit g.present i = true) →
      let k := g.new * 4096 + 64 * line
      stackOf k = stack → s.wqFull (.hbm k) = false → (∀ die, s.place die (g.old * 4096 + 64 * line) = .hbm k') → k' % 64 = 0 →
      k' ≠ k → s.offline k' = false → s.poisoned k' = false → s.errorAt k' = none →
      ∃ t, exec (.migrationPull stack entry line) s = .next t ∧
        (∀ a, readByte t.mem a = if k ≤ a ∧ a < k + 64 then readByte s.mem (k' + (a - k)) else readByte s.mem a) ∧
        t.poisoned k = false ∧ (∃ q ∈ t.writeQueue k, q.line = k) ∧
        ∃ g', (t.stack stack).migs[entry]? = some g' ∧ g' = { g with present := g'.present } ∧
          ∀ i, bit g'.present i = (bit g.present i || decide (i = line))) ∧
    (∀ stack chan, stack < 12 → chan ≤ 32 → ∃ t, exec (.stackOutOfService stack chan) s = .next t ∧ t.mem = s.mem ∧
      ∀ c, c < 32 → (c ∈ (t.stack stack).offline ↔ c = chan ∨ chan = 32 ∨ c ∈ (s.stack stack).offline))

/-! ## Near-memory commands (R268, R382, R395–R402) -/

/-- R268, R382, R395–R397, R399, R400, R402: how commands enter and how they end. -/
def Obligations.NearMemoryCommandsEnterAndEnd : Prop :=
  ∀ (s : State),
    (∀ (a b : Src) (d : Dst), s.Ready [.one a, .one b] (.one d) → s.mayRetire = true →
      let us := [Use.one a, .one b]
      let va := s.first us (.one d)
      let h := s.second us (.one d)
      let stack := fld h 8 4
      let c := fld h 2 3
      let good := fld h 0 2 = 2 ∧ s.handleOk h = true
      (¬good → (s.take (causeOf .badOperand 0 0)).2 = false →
        exec (.ecmd a b d) s = .next (s.take (causeOf .badOperand 0 0)).1) ∧
      (good → va.toNat % 64 ≠ 0 → (s.take (causeOf .align va 64)).2 = false →
        exec (.ecmd a b d) s = .next (s.take (causeOf .align va 64)).1) ∧
      ∀ w ws, good → va.toNat % 64 = 0 → s.me.wait = some w → w.what = .loads → w.vals.map (fun p => p.2) = ws.map some →
        ws.length = 8 → (∀ x ∈ s.me.flight, x.failed? = false) →
        let free := (s.nmCtx stack c).inbox.length < 16 ∧ (s.readied us (.one d)).nmBehind s.cur stack = false
        let v := (s.nmCtx stack c).issued + 1
        let w0 := ws.getD 0 0
        let y := ws.getD 1 0
        let n := fld w0 32 32
        let now := (s.cluster (clusterOf s.cur)).gen
        let m := fun (pa : Nat) (mv : List Nat) (gen : Nat) (bad : Option CauseRec) =>
          (⟨ws, s.ctx.st, s.cur, s.me.pid.toNat, s.ctx.pc, v, pa, 0, 0, 0, mv, [], bad, gen, s.me.nextId⟩ : NmCmd)
        let enters := fun (u : State) (m : NmCmd) => Host.Outcome.next
          ((((u.updNm stack c fun x => { x with inbox := x.inbox ++ [m], issued := v }).updMe fun k => { k with
            act := k.act.map fun a => { a with nm := a.nm ++ [⟨stack, c, v, s.ctx.pc⟩] } }).deliver d (wordOf v)).retired)
        let fill := fld w0 0 4 = 3 ∧ fld w0 8 24 = 0 ∧ y ≠ 0 ∧ y.toNat % 64 = 0 ∧ 8 ≤ n ∧ n ≤ 2 ^ 23 ∧ n % 8 = 0 ∧
          ws.getD 4 0 = 0 ∧ ws.getD 6 0 = 0 ∧ ws.getD 7 0 = 0
        let s1 := s.took us (.one d)
        (¬free → ∃ t, exec (.ecmd a b d) s = .next t ∧ t.me.retired = s.me.retired ∧ t.stackEngines = s.stackEngines ∧ t.mem = s.mem) ∧
        (free → 5 < fld w0 0 4 ∨ fld w0 11 21 ≠ 0 ∨ y.toNat % 64 ≠ 0 ∨
            (fld w0 0 4 = 3 ∧ (n < 8 ∨ 2 ^ 23 < n ∨ n % 8 ≠ 0)) →
          exec (.ecmd a b d) s = enters s1 (m 0 [] now (some (nmRec s.ctx.pc .nmCmd 0 w0)))) ∧
        (free → fill → ∀ e u, s1.resolve s.cur s.ctx.priv y (8 * n) .w = (.error e, u) →
          exec (.ecmd a b d) s = enters u (m 0 [] now (some (nmRec s.ctx.pc .nmXlate y (e.code.zeroExtend 64))))) ∧
        (free → fill → ∀ pa u, s1.resolve s.cur s.ctx.priv y (8 * n) .w = (.ok pa, u) → ∃ mv gen, gen ≤ now ∧ exec (.ecmd a b d) s =
          enters u (m pa mv gen (if hbmBase + stack * 2 ^ 36 ≤ pa ∧ pa + 8 * n ≤ hbmBase + stack * 2 ^ 36 + 48 * 2 ^ 30
            then none else some (nmRec s.ctx.pc .nmAddrSpan y 1))))) ∧
    ∀ (n c : Nat) (m : NmCmd) (rest : List NmCmd), n < 12 → c < 8 →
      let x := s.nmCtx n c
      let op := fld (m.words.getD 0 0) 0 4
      let retires := fun t : State => (t.nmCtx n c).inbox = rest ∧ (t.nmCtx n c).retired = x.retired + 1
      x.inbox = m :: rest →
      (∀ r q k, m.bad = some r → x.done = false → (q, k) ∈ s.cores → s.cores.Pairwise (fun a b => a.1 < b.1) →
        (∃ a, k.act = some a ∧ a.ending = none ∧ ∃ i ∈ a.nm, i.stack = n ∧ i.ctx = c ∧ i.value = m.value) →
        (∀ p ∈ s.cores, p.1 ≠ q → ∀ a, (p.2.act = some a ∨ p.2.susp = some a) →
          ∀ i ∈ a.nm, ¬(i.stack = n ∧ i.ctx = c ∧ i.value = m.value)) →
        ∀ i, i = (if op = 0 ∨ 5 < op then Instr.nmGemv n c else if op = 1 then .nmAxpby n c else if op = 2 then .nmReduce n c
            else if op = 3 then .nmFill n c else if op = 4 then .nmCopy n c else .nmMigrate n c) →
          ∃ t, exec i s = .next t ∧ t.mem = s.mem ∧ retires t ∧
            (t.core q).causes = (s.core q).causes ++ [⟨.nm n c, m.value, r, m.after⟩]) ∧
      (x.done = true → x.skipped = 0 → m.words.getD 4 0 = 0 →
        ∃ t, exec (.nmReply n c) s = .next t ∧ retires t ∧ t.mem = s.mem) ∧
      (x.done = true → x.skipped ≠ 0 → m.words.getD 4 0 = 0 → ∃ t, exec (.nmReply n c) s = .next t ∧ retires t ∧
        t.mem = s.mem ∧ (t.nmCtx n c).skipTot = min (2 ^ 32 - 1) (x.skipTot + x.skipped)) ∧
      (∀ k u, x.done = true → x.skipped = 0 → m.words.getD 4 0 ≠ 0 → m.reply % 8 = 0 →
        s.place (dieOf m.core) m.reply = .spad k → m.moving = [] → s.arrive (.spad k) x.wrote 1 m.stamp = .ok u →
        exec (.nmReply n c) s = .next (u.nmRetire n c)) ∧
      (x.done = false → exec (.nmReply n c) s = .next s)

/-- R378, R392–R394, R398, R399: the operations of the near-memory engine. -/
def Obligations.NearMemoryCommandsWork : Prop :=
  ∀ (s : State) (n c : Nat) (m : NmCmd) (rest : List NmCmd), s.Canonical → n < 12 → c < 8 →
    let x := s.nmCtx n c
    let w := fun i => m.words.getD i 0
    let op := fld (w 0) 0 4
    let skipp := bit (w 0) 4
    let pair := bit (w 0) 5
    let rnd := BitVec.ofNat 2 (fld (w 0) 6 2)
    let count := fld (w 0) 32 32
    let fa := fld (w 3) 0 32
    let fb := fld (w 3) 32 32
    let off := 64 * x.pos
    let inService := fun q => s.place (dieOf m.core) q = .hbm q ∧ s.offline q = false ∧ s.errorAt q = none
    let clean := fun q => inService q ∧ s.poisoned q = false
    let goes := fun (t : State) (wrote : Nat) (last : Prop) =>
      (t.nmCtx n c).pos = x.pos + 1 ∧ (t.nmCtx n c).wrote = x.wrote + wrote ∧ ((t.nmCtx n c).done = true ↔ last) ∧
        (t.nmCtx n c).inbox = m :: rest
    x.inbox = m :: rest → x.done = false → m.bad = none → m.moving = [] →
    (op = 3 → (m.y + off) % 64 = 0 → s.wqFull (.hbm (m.y + off)) = false → s.offline (m.y + off) = false →
      ∃ t, exec (.nmFill n c) s = .next t ∧
        (∀ a, readByte t.mem a = if m.y + off ≤ a ∧ a < m.y + off + 64
          then BitVec.ofNat 8 ((w 3).toNat / 256 ^ ((a - (m.y + off)) % 8)) else readByte s.mem a) ∧
        t.poisoned (m.y + off) = false ∧ (∃ q ∈ t.writeQueue (m.y + off), q.line = m.y + off) ∧ goes t 64 (count ≤ 8 * (x.pos + 1))) ∧
    (op = 4 → (m.y + off) % 64 = 0 → (m.x + off) % 64 = 0 → s.wqFull (.hbm (m.y + off)) = false →
      s.offline (m.y + off) = false → inService (m.x + off) → (m.x + 8 * count ≤ m.y ∨ m.y + 8 * count ≤ m.x) →
      8 * x.pos < count → count % 8 = 0 →
      ((s.poisoned (m.x + off) = false ∨ skipp = true) → ∃ t, exec (.nmCopy n c) s = .next t ∧
        (∀ a, readByte t.mem a = if m.y + off ≤ a ∧ a < m.y + off + 64
          then readByte s.mem (m.x + off + (a - (m.y + off))) else readByte s.mem a) ∧
        t.poisoned (m.y + off) = s.poisoned (m.x + off) ∧ goes t 64 (count ≤ 8 * (x.pos + 1)) ∧
        (t.nmCtx n c).skipped = x.skipped + (if s.poisoned (m.x + off) then 1 else 0)) ∧
      (s.poisoned (m.x + off) = true → skipp = false → ∃ (t u : State), exec (.nmCopy n c) s = .next t ∧ t.mem = s.mem ∧
        (t.nmCtx n c).inbox = rest ∧
        t = u.nmFail n c m (nmRec m.pc .nmPoison (w 2 + wordOf off) (wordOf x.pos)) ∧ u.mem = s.mem ∧ u.cores = s.cores)) ∧
    (op = 1 → (m.y + off) % 64 = 0 → s.wqFull (.hbm (m.y + off)) = false → clean (m.y + off) → 16 * x.pos < count →
      let k := min 16 (count - 16 * x.pos)
      (∀ l, 64 * l < m.x + off + 4 * k → m.x + off < 64 * l + 64 → clean (64 * l)) →
      ∃ t, exec (.nmAxpby n c) s = .next t ∧ goes t (4 * k) (count ≤ 16 * (x.pos + 1)) ∧
        (∀ a, a < m.y + off ∨ m.y + off + 4 * k ≤ a → readByte t.mem a = readByte s.mem a) ∧
        (∃ q ∈ t.writeQueue (m.y + off), q.line = m.y + off) ∧
        ∀ i, i < k →
          let p := (Fmt.f32.decode fa).times (Fmt.f32.decode (readBytes s.mem (m.y + off + 4 * i) 4))
          let q := (Fmt.f32.decode fb).times (Fmt.f32.decode (readBytes s.mem (m.x + off + 4 * i) 4))
          (p.isNan = false → q.isNan = false →
            readBytes t.mem (m.y + off + 4 * i) 4 = (Fmt.f32.add rnd false p q).code % 2 ^ 32) ∧
          (p.isNan = true ∨ q.isNan = true → readBytes t.mem (m.y + off + 4 * i) 4 = 0x7FC00000)) ∧
    (op = 2 → 16 * x.pos < count → (m.y + off) % 64 = 0 → clean (m.y + off) → x.special = none →
      let k := min 16 (count - 16 * x.pos)
      ∀ f : Nat → Int,
        (∀ i, i < k → ∃ g z e, Fmt.f32.decode (readBytes s.mem (m.y + off + 4 * i) 4) = .fin g z e ∧
          f i = (if g then -(z : Int) else z) * 2 ^ (e + 149).toNat) →
        ∃ t, exec (.nmReduce n c) s = .next t ∧ t.mem = s.mem ∧ goes t 0 False ∧ (t.nmCtx n c).special = none ∧
          (t.nmCtx n c).acc = x.acc + ((List.range k).map f).sum) ∧
    (let result := fun (i : Instr) (sum : WsVal) (q at0 bytes : Nat) (last : Prop) =>
      s.place (dieOf m.core) (m.x + at0) = .spad q → (pair = true → s.place (dieOf m.core) (m.x + at0 + 8) = .spad (q + 8)) →
      q % bytes = 0 → s.quietAt q → (pair = true → s.quietAt (q + 8)) → s.tagAt q ≠ tagArrival → s.tagAt q ≠ tagPoison →
      (pair = true → s.tagAt (q + 8) ≠ tagArrival ∧ s.tagAt (q + 8) ≠ tagPoison) →
      let r := wsMulOv sum.make.1 (Fmt.f32.decode fa)
      ∃ t, exec i s = .next t ∧ goes t bytes last ∧ (∀ a, a < q ∨ q + bytes ≤ a → readByte t.mem a = readByte s.mem a) ∧
        (pair = true → t.word q = r.1.lo ∧ t.word (q + 8) = r.1.hi) ∧
        (pair = false → readBytes t.mem q 4 = (Fmt.f32.ofWsScaled rnd false sum.make.1 (Fmt.f32.decode fa)).code % 2 ^ 32)
      let bytes := if pair then 16 else 4
      (∀ q, op = 2 → count ≤ 16 * x.pos → result (.nmReduce n c) x.sum q 0 bytes True) ∧
      (∀ q f, op = 0 → fmtOf (fld (w 0) 8 3) = some f →
        let rows := fld (w 7) 0 32
        let rb := fld (w 7) 32 32 * f.width / 8
        (∀ l, m.y + x.pos * rb < m.y + 64 * l + 64 → 64 * l < x.pos * rb + rb → clean (m.y + 64 * l)) → m.y % 64 = 0 →
        let row := readBytes s.mem (m.y + x.pos * rb) rb
        let sum := m.vec.zipIdx.foldl (fun acc p => addProduct acc
          ((f.decode (row / 2 ^ (f.width * p.2) % 2 ^ f.width)).times (Fmt.f32.decode p.1.toNat))) (.fin Dyad.zero false)
        result (.nmGemv n c) sum q (x.pos * bytes) bytes (rows ≤ x.pos + 1))) ∧
    (op = 5 → x.pos = 0 → ((s.stack n).migs.filter fun g => g.valid).length + count ≤ 64 →
      ∃ t, exec (.nmMigrate n c) s = .next t ∧ t.mem = s.mem ∧ goes t 0 False ∧
        (∀ i, i < count → ⟨m.x / 4096 + i, true, m.y / 4096 + i, 0, wordOf c, m.leaf + 8 * i⟩ ∈ (t.stack n).migs) ∧
        ∀ g ∈ (s.stack n).migs, g.valid = true → g ∈ (t.stack n).migs) ∧
    (∀ j g k, op = 5 → x.pos ≠ 0 → count = 1 → findIdx (fun g : Mig => g.valid &&
        decide (g.new = m.y / 4096 + 0) && decide (g.ctx.toNat = c)) (s.stack n).migs 0 = some (j, g) →
      g.present = BitVec.allOnes 64 → (∀ h ∈ (s.stack n).migs, h ≠ g → h.new ≠ g.new) → (s.stack n).migs.Nodup →
      m.leaf % 8 = 0 → s.place (dieOf m.core) m.leaf = .hbm k → k % 8 = 0 → s.offline k = false → s.errorAt k = none → s.poisoned k = false →
      s.wqFull (.hbm k) = false →
      ∃ t, exec (.nmMigrate n c) s = .next t ∧ goes t 4096 True ∧ ((t.stack n).migs[j]?).map (fun h => h.valid) = some false ∧
        ∀ a, readByte t.mem a = if a = k then readByte s.mem k &&& 0xDF#8 else readByte s.mem a)

/-! ## Registers with behaviour of their own, host accesses and links (R26, R275, R329, R384–R387, R407–R410, R423) -/

/-- R26, R275, R329, R384–R386, R402, R408–R410, R415, R416, R420, R423. -/
def Obligations.ControlSpaceIsWritten : Prop :=
  ∀ (s : State) (v : Word),
    (∀ n, n < 12 → ∃ t, exec (.disturbWrite n v) s = .next t ∧ t.mem = s.mem ∧ (∀ m, m ≠ n → t.stack m = s.stack m) ∧
      let k := fld v 0 5
      (6 ≤ k → k ≤ 16 → (∀ i, bit (t.stack n).disturb i = (bit v i && decide (i < 6))) ∧
        (bit v 5 = true → ∀ ch, ch < 32 → SMap.get 0 (t.stack n).rng ch = (s.stack n).dseed) ∧
        (bit v 5 = false → (t.stack n).rng = (s.stack n).rng)) ∧
      (k < 6 ∨ 16 < k → t.stack n = s.stack n)) ∧
    (∀ n, n < 12 → ∃ t, exec (.einjWrite n v) s = .next t ∧ t.mem = s.mem ∧
      ∀ i, bit (t.stack n).einj i = (bit v i && decide (i = 0 ∨ 6 ≤ i ∧ i < 52))) ∧
    (∀ n, n < 12 → ∃ t, exec (.astatWrite false n v) s = .next t ∧ t.mem = s.mem ∧
      t.stack n = { s.stack n with astat := (t.stack n).astat } ∧
      ∀ i, i < 4 → (t.stack n).astat.getLsbD i = ((s.stack n).astat.getLsbD i && !bit v i)) ∧
    (∀ n, clusterExists n = true → ∃ t, exec (.astatWrite true n v) s = .next t ∧ t.mem = s.mem ∧
      t.cluster n = { s.cluster n with astat := (t.cluster n).astat } ∧
      ∀ i, i < 4 → (t.cluster n).astat.getLsbD i = ((s.cluster n).astat.getLsbD i && !bit v i)) ∧
    (∀ n, n < 12 → (v ≠ 0 → exec (.ecccntWrite n v) s = .next s ∧ exec (.sfaultWrite n v) s = .next s) ∧
      ∃ t u, exec (.ecccntWrite n 0) s = .next t ∧ exec (.sfaultWrite n 0) s = .next u ∧
        t.stack n = { s.stack n with corr := 0, uncorr := 0 } ∧ u.stack n = { s.stack n with sfault := 0 } ∧
        t.mem = s.mem ∧ u.mem = s.mem) ∧
    (∀ n, clusterExists n = true → (v ≠ 0 → exec (.cefaultWrite n v) s = .next s) ∧
      ∃ t, exec (.cefaultWrite n 0) s = .next t ∧ t.cluster n = { s.cluster n with cefault := 0 } ∧ t.mem = s.mem) ∧
    (∀ n c, n < 12 → c < 8 → ∃ t, exec (.nmstatWrite n c v) s = .next t ∧ t.mem = s.mem ∧
      t.nmCtx n c = { s.nmCtx n c with flags := (t.nmCtx n c).flags } ∧
      ∀ i, i < 4 → (t.nmCtx n c).flags.getLsbD i = ((s.nmCtx n c).flags.getLsbD i && !bit v (6 + i))) ∧
    (∀ d cl, d < 4 → cl < 192 → SMap.wf 0 (s.die d).preq = true →
      ∃ t u, exec (.phaltWrite d v) s = .next t ∧ exec (.preqWrite d cl v) s = .next u ∧
        t.die d = { s.die d with phalt := v.truncate 16 } ∧ t.mem = s.mem ∧ u.mem = s.mem ∧
        ∀ c, SMap.get 0 (u.die d).preq c = if c = cl then v.truncate 16 else SMap.get 0 (s.die d).preq c) ∧
    (∀ pa cl, pa % 8 = 0 → clusterExists cl = true →
      (blockOf pa = .engine cl 0 → ∃ t, exec (.registerWrite pa false v) s = .next t ∧
        t.cluster cl = { s.cluster cl with uasid := v &&& 0xFFFF } ∧ t.mem = s.mem) ∧
      (blockOf pa = .engine cl 0x2100 → ∃ t u, exec (.registerWrite pa false v) s = .next t ∧
        exec (.registerWrite pa true v) s = .next u ∧ t.cluster cl = s.cluster cl ∧
        u.cluster cl = { s.cluster cl with sbrate := v &&& 0xFFFF } ∧ u.mem = s.mem)) ∧
    (∀ pa k, pa % 8 ≠ 0 ∨ s.ctlRead pa = none → exec (.registerWrite pa k v) s = .next s) ∧
    (∀ fn pa k, s.Canonical → pa % 8 = 0 → k % 8 = 0 →
      (s.place 0 pa = .spad k → s.quietAt k → ∃ t, exec (.postedWrite fn pa v) s = .next t ∧ t.word k = v ∧
        (∀ a, a < k ∨ k + 8 ≤ a → readByte t.mem a = readByte s.mem a) ∧
        t.tagAt k = if s.tagAt k = tagArrival then tagArrival else tagFull) ∧
      (s.place 0 pa = .hbm k → s.wqFull (.hbm k) = false → s.offline k = false → s.poisoned k = false →
        ∃ t, exec (.postedWrite fn pa v) s = .next t ∧ t.word k = v ∧
          ∀ a, a < k ∨ k + 8 ≤ a → readByte t.mem a = readByte s.mem a) ∧
      (s.place 0 pa = .spad k → s.tagAt k ≠ tagPoison →
        exec (.hostRead fn pa) s = .next { s with host := { s.host with lastRead := s.word k } }) ∧
      (s.place 0 pa = .hbm k → s.offline k = false → s.poisoned k = false → s.errorAt k = none →
        ∃ t, exec (.hostRead fn pa) s = .next t ∧ t.host.lastRead = s.word k ∧ t.mem = s.mem)) ∧
    (∀ fn pa, pa % 8 = 0 → s.place 0 pa = .ctl pa → blockOf pa = .mailbox fn 0x88 → fn ≤ 16 → SMap.wf 0 s.kiosk.mail = true →
      (bit (s.mail fn 0x40) 17 = true → exec (.postedWrite fn pa v) s = .next s) ∧
      (bit (s.mail fn 0x40) 17 = false → ∃ t, exec (.postedWrite fn pa v) s = .next t ∧
        bit (t.mail fn 0x40) 17 = true ∧ bit (t.mail fn 0x40) 16 = false ∧ t.kiosk.doors = s.kiosk.doors ++ [⟨fn, 0x3FFF, s.mail fn 0, s.mailArgs fn⟩] ∧
        t.mem = s.mem)) ∧
    (∀ a pa, a ∈ s.me.flight → (s.me.flight.map Access.id).Nodup → externalOf (s.place (dieOf s.cur) a.nextPart.pa) = some pa →
      a.injected = true → a.isChan = true ∨ a.parts ≠ [] → ∃ t, exec (.extTimeout a.id) s = .next t ∧ t.mem = s.mem ∧
        t.me = { s.me with flight := s.me.flight.map fun b =>
          if b = a then { b with state := .failed .extTimeout a.va (wordOf (pa / 2 ^ 40 % 2048)) } else b }) ∧
    (∀ link eight, link < 16 → SMap.wf 0 s.links = true → ∃ t, exec (.linkTraining link eight) s = .next t ∧ t.mem = s.mem ∧
      ∀ l, SMap.get 0 t.links l = if l = link then (if eight && !s.blob.links.contains link then 8 else 4)
        else SMap.get 0 s.links l)

/-! ## Start-up, the kiosk and its mailboxes (R406, R411–R421) -/

/-- R402, R406, R413, R415–R419, R421. -/
def Obligations.StartUpAndEvents : Prop :=
  ∀ (s : State),
    (∃ t, exec .powerGood s = .next t ∧ (∀ c, t.core c = Core.reset ∧ t.cluster c = Cluster.reset ∧ t.stack c = Stack.reset ∧
      t.die c = Die.reset ∧ t.router c = Router.reset ∧ (t.part c).exists? = false) ∧ t.kiosk.stage = 1 ∧ t.kiosk.joined = [] ∧
      t.ns = 0 ∧ t.launches = [] ∧ t.stages = [] ∧ (∀ k, t.tagAt k = tagEmpty ∧ t.poisoned k = false) ∧
      ∀ a, readByte t.mem a = if extBase ≤ a then readByte s.mem a else 0) ∧
    (∀ n, s.stackEnabled n = true → ∃ t, exec (.stackJoin n) s = .next t ∧ n ∈ t.kiosk.joined ∧
      t.kiosk.stage = max 2 s.kiosk.stage ∧ t.mem = s.mem) ∧
    (∃ t, exec .meshSelfTest s = .next t ∧ t.kiosk.stage = 3 ∧ t.kiosk.hostFull = true ∧
      t.kiosk.siard = true ∧ t.mem = s.mem) ∧
    (∃ (t : State) (e : Event), exec .powerLimit s = .next t ∧ t.kiosk.events = s.kiosk.events ++ [e] ∧ e.part = none ∧
      fld e.w0 0 8 = Cause.powerLimit.code.toNat ∧ fld e.w0 8 8 = 6 ∧ t.mem = s.mem) ∧
    (∀ e rest, s.kiosk.events = e :: rest → ∃ t, exec .kioskEvent s = .next t ∧ t.kiosk.events = rest ∧ t.mem = s.mem ∧
      ∀ mb,
        let gets := mb = 0 ∨ ∃ p, e.part = some p ∧ (mb = p + 1 ∨ mb = 32 + p)
        let r := SMap.get [] s.kiosk.rings mb
        let lost := SMap.get 0 s.kiosk.dropped mb
        (∀ p, e.part = some p → p < 16) →
        (gets → r.length < 256 → SMap.get [] t.kiosk.rings mb = r ++ [e] ∧ SMap.get 0 t.kiosk.dropped mb = lost) ∧
        (gets → 256 ≤ r.length → SMap.get [] t.kiosk.rings mb = r ∧
          SMap.get 0 t.kiosk.dropped mb = min (2 ^ 32 - 1) (lost + 1)) ∧
        (¬gets → SMap.get [] t.kiosk.rings mb = r ∧ SMap.get 0 t.kiosk.dropped mb = lost)) ∧
    (∀ mb who cmd args, s.kiosk.doors.find? (fun d => d.mb == mb) = some ⟨mb, who, cmd, args⟩ → SMap.wf 0 s.kiosk.mail = true →
      SMap.wf [] s.kiosk.rings = true → SMap.wf 0 s.kiosk.routes = true → 1 ≤ s.kiosk.stage →
      let op := fld cmd 0 16
      let arg := fun i => args.getD i 0
      let p := if mb = 0 then fld (arg 6) 0 4 else if mb ≤ 16 then mb - 1 else mb - 32
      let answered := fun (t : State) (st : Nat) (res : List Word) =>
        t.mail mb 0x40 = wordOf (st + 2 ^ 16 + fld cmd 32 32 * 2 ^ 32) ∧ (∀ i, i < 7 → t.mail mb (0x48 + 8 * i) = res.getD i 0) ∧
        (∀ d ∈ t.kiosk.doors, d.mb ≠ mb) ∧ t.mem = s.mem ∧
        (mb ≤ 16 → (mb, 0) ∈ t.host.sent ∨ (mb, 0) ∈ t.host.pending) ∧
        (16 < mb → ∃ f : Flight, t.msgs = s.msgs ++ [f] ∧ f.dest = who ∧ f.msg.cls = 31 ∧ f.msg.tag = 1 ∧
          f.msg.payload = t.mail mb 0x40 :: (List.range 7).map fun i => res.getD i 0)
      (op = 0x0001 → ∃ t n, exec (.mbQuery mb) s = .next t ∧ fld n 0 10 = s.liveCe % 1024 ∧
        answered t 0 [wordOf s.ns, n, wordOf (((List.range 16).filter fun p => (s.part p).exists?).map fun p => 2 ^ p).sum,
          Config.firmwareVersion, s.mbStage]) ∧
      (2 ≤ s.kiosk.stage → op ∉ [0x0001, 0x0010, 0x0020, 0x0030, 0x0031, 0x0032, 0x0040, 0x0050, 0x0051] →
        ∃ t, exec (.mbQuery mb) s = .next t ∧ answered t 19 []) ∧
      (op = 0x0050 → ∃ t, exec (.mbEventRead mb) s = .next t ∧
        let n := (arg 0).toNat
        let r := SMap.get [] s.kiosk.rings mb
        (n = 0 ∨ 120 < n → answered t 18 []) ∧
        (1 ≤ n → n ≤ 120 → answered t 0 [wordOf (r.take n).length] ∧ SMap.get [] t.kiosk.rings mb = r.drop n ∧
          ∀ i e, (r.take n)[i]? = some e → ∀ j, j < 4 → t.mail mb (0x100 + 8 * (4 * i + j)) = [e.w0, e.w1, e.w2, e.w3].getD j 0)) ∧
      (op = 0x0051 → ∃ t, exec (.mbEventRoute mb) s = .next t ∧ (mb < 32 → answered t 17 []) ∧
        (32 ≤ mb → (s.part p).exists? = true → fld (arg 0) 15 49 = 0 → s.inPart p (fld (arg 0) 0 14) = true →
          answered t 0 [] ∧ SMap.get 0 t.kiosk.routes p = arg 0) ∧
        (32 ≤ mb → (s.part p).exists? = false ∨ fld (arg 0) 15 49 ≠ 0 ∨ s.inPart p (fld (arg 0) 0 14) = false →
          answered t 18 [] ∧ t.kiosk.routes = s.kiosk.routes)) ∧
      (op = 0x0040 → ∃ t, exec (.mbAttest mb) s = .next t ∧
        let pad := fun n (l : List Byte) => (l ++ List.replicate n 0#8).take n
        let ids := s.kiosk.keyIds
        let nonce := (List.range 32).map fun i => BitVec.ofNat 8 ((s.mail mb (0x100 + i / 8 * 8)).toNat / 256 ^ (i % 8))
        let head := pad 64 Config.firmwareDigest ++ pad 64 Config.configDigest ++
          (List.range 8).map (fun i => BitVec.ofNat 8 (ids.length / 256 ^ i)) ++ (ids.map (pad 32)).flatten ++ nonce
        let report := head ++ edSign Config.identityKey (sha512 head)
        (report.length ≤ 3840 → answered t 0 [wordOf report.length] ∧ ∀ i b, report[i]? = some b →
          BitVec.ofNat 8 ((t.mail mb (0x100 + i / 8 * 8)).toNat / 256 ^ (i % 8)) = b) ∧
        (3840 < report.length → answered t 20 []))) ∧
    (∀ src m rest, s.kiosk.requests = (src, m) :: rest → m.tag.toNat % 256 ≠ 0x20 →
      ∃ (t : State) (f : Flight), exec .managementRequest s = .next t ∧ t.kiosk.requests = rest ∧ t.mem = s.mem ∧ t.msgs = s.msgs ++ [f] ∧
        f.dest = src ∧ f.msg.cls = 31 ∧ f.msg.tag = m.tag ∧
        fld (f.msg.payload.getD 0 0) 0 8 = 19 ∧ fld (f.msg.payload.getD 0 0) 32 32 = fld (m.payload.getD 0 0) 32 32)

/-- R93, R308, R324, R411, R416, R417, R419. -/
def Obligations.PartitionsAndLoadsAreServed : Prop :=
  ∀ (s : State) (mb who : Nat) (cmd : Word) (args : List Word),
    s.kiosk.doors.find? (fun d => d.mb == mb) = some ⟨mb, who, cmd, args⟩ → SMap.wf 0 s.kiosk.mail = true →
    let op := fld cmd 0 16
    let ask : Ask := ⟨mb, who, args⟩
    let arg := ask.arg
    let status := fun (t : State) (st : Nat) => t.mail mb 0x40 = wordOf (st + 2 ^ 16 + fld cmd 32 32 * 2 ^ 32) ∧
      ∀ d ∈ t.kiosk.doors, d.mb ≠ mb
    let refused := fun (i : Instr) (st : Nat) => ∃ t, exec i s = .next t ∧ status t st ∧ t.mem = s.mem ∧ t.cores = s.cores ∧
      t.parts = s.parts ∧ t.launches = s.launches ∧ ∀ j, j < 7 → t.mail mb (0x48 + 8 * j) = 0
    let served := fun (i : Instr) (f : Ask → State → Did) => ∀ res u, f ask s = .done res u → SMap.wf 0 u.kiosk.mail = true →
      ∃ t, exec i s = .next t ∧ status t 0 ∧ t.mem = u.mem ∧ t.cores = u.cores ∧ t.parts = u.parts ∧
        t.launches = u.launches ∧ ∀ j, j < 7 → t.mail mb (0x48 + 8 * j) = res.getD j 0
    (s.kiosk.stage < 2 → (op = 0x0010 → refused (.mbLoad mb) 16) ∧ (op = 0x0020 → refused (.mbLaunch mb) 16) ∧
      (op = 0x0030 → refused (.mbPartCreate mb) 16) ∧ (op = 0x0031 → refused (.mbPartResize mb) 16) ∧
      (op = 0x0032 → refused (.mbPartDestroy mb) 16)) ∧
    (2 ≤ s.kiosk.stage → mb ≠ 0 → (op = 0x0030 → refused (.mbPartCreate mb) 17) ∧
      (op = 0x0031 → refused (.mbPartResize mb) 17) ∧ (op = 0x0032 → refused (.mbPartDestroy mb) 17)) ∧
    (2 ≤ s.kiosk.stage → op = 0x0010 → served (.mbLoad mb) State.loadDof ∧
      ((s.part ask.part).exists? = false → refused (.mbLoad mb) 18) ∧
      ((s.part ask.part).exists? = true → s.askBytes ask (arg 0) (arg 1).toNat = none → refused (.mbLoad mb) 18) ∧
      (∀ bs, (s.part ask.part).exists? = true → s.askBytes ask (arg 0) (arg 1).toNat = some bs → arg 2 = 0 →
        ((readDof bs.toArray).badHeader = true → refused (.mbLoad mb) 1) ∧
        ((readDof bs.toArray).badHeader = false → (readDof bs.toArray).badSignature = true → refused (.mbLoad mb) 2))) ∧
    (2 ≤ s.kiosk.stage → op = 0x0020 → served (.mbLaunch mb) State.mailLaunch ∧
      ((s.part ask.part).exists? = false → refused (.mbLaunch mb) 18) ∧
      ((s.part ask.part).exists? = true → (arg 0).toNat % 64 ≠ 0 → refused (.mbLaunch mb) 18)) ∧
    (2 ≤ s.kiosk.stage → mb = 0 →
      let p := fld (arg 0) 0 4
      let reserved := fld (arg 0) 4 60 ≠ 0
      (op = 0x0030 → ¬reserved → fld (arg 4) 6 58 = 0 → fld (arg 5) 32 32 = 0 → fld (arg 5) 16 16 ≠ 0 →
        ∀ cls, s.askClusters ask (arg 1) (arg 2) (fun _ => false) = .ok cls →
          ((s.part p).exists? = true → refused (.mbPartCreate mb) 20) ∧
          (∀ g u, (s.part p).exists? = false → s.takeGranules (1 + Config.arenaGranules + (arg 3).toNat) = some (g, u) →
            g < 0x9000000 → ∃ t, exec (.mbPartCreate mb) s = .next t ∧ status t 0 ∧ (t.part p).exists? = true ∧ (t.part p).clusters = cls ∧
              (t.part p).pceil = fld (arg 4) 0 6 ∧ (∀ q, q ≠ p → t.part q = s.part q) ∧
              (∀ cl ∈ cls, (t.cluster cl).sbrate = wordOf (fld (arg 5) 0 16) ∧
                (t.cluster cl).sbburst = wordOf (fld (arg 5) 16 16) ∧
                ∀ c, c / 16 = cl → (t.core c).pid = BitVec.ofNat 4 p))) ∧
      (op = 0x0031 → ((reserved ∨ (s.part p).exists? = false) → refused (.mbPartResize mb) 18) ∧
        (¬reserved → (s.part p).exists? = true → (s.part p).moving = [] → (s.part p).moved = [] →
          ∀ cls, s.askClusters ask (arg 1) (arg 2) (fun k => k == p) = .ok cls →
            ∃ t, exec (.mbPartResize mb) s = .next t ∧ (t.part p).clusters = cls ∧ t.mem = s.mem ∧
              (∀ cl ∈ cls, cl ∉ (s.part p).clusters → ∀ c, c / 16 = cl → (t.core c).pid = BitVec.ofNat 4 p) ∧
              ((∀ cl ∈ (s.part p).clusters, cl ∈ cls) → status t 0) ∧
              ((∃ cl ∈ (s.part p).clusters, cl ∉ cls) → t.kiosk.doors = s.kiosk.doors ∧
                ∀ c, c ∈ (t.part p).moving ↔ c / 16 ∈ (s.part p).clusters ∧ c / 16 ∉ cls))) ∧
      (op = 0x0032 → ((reserved ∨ (s.part p).exists? = false) → refused (.mbPartDestroy mb) 18) ∧
        (¬reserved → (s.part p).exists? = true → SMap.risingFrom none s.parts = true →
          (∀ kl ∈ s.launches, kl.2.part ≠ p ∨ kl.2.phase = .retired) → (∀ c ∈ s.partCores p, (s.core c).quiet = true) →
          (∀ ks ∈ s.stackEngines, ∀ x ∈ ks.2.ctxs.toList, ∀ m ∈ x.inbox, m.part ≠ p) →
          ∃ t, exec (.mbPartDestroy mb) s = .next t ∧ status t 0 ∧ (t.part p).exists? = false ∧ t.mem = s.mem ∧
            (∀ q, q ≠ p → t.part q = s.part q) ∧ (∀ c ∈ s.partCores p, (t.core c).pid = 0) ∧
            ∃ q : Quarantined, t.kiosk.quarantine = s.kiosk.quarantine ++ [q] ∧ q.part = p ∧ q.gen = s.tgen)))

/-! ## Reset, encoding, the step and the form of memory -/

/-- R126, R182, R212, R233, R275, R286, R310, R385: the machine right after reset. -/
def Obligations.ResetState : Prop :=
  let r := State.reset
  let given : List (Nat × Word) := [(2, 1), (0x600, 65536), (0x501, 0x4F), (0x502, 0x3F), (0x404, 0xF), (0x405, 0x3F800000),
    (0x406, 0x3F800000), (0x407, 0x4210), (0x408, 2), (0x24B, 0x10010)]
  let zero : List Nat := [1, 0x100, 0x101, 0x102, 0x200, 0x201, 0x240, 0x241, 0x242, 0x243, 0x244, 0x245, 0x246, 0x247, 0x248,
    0x249, 0x24A, 0x300, 0x301, 0x302, 0x303, 0x304, 0x305, 0x306, 0x307, 0x308, 0x400, 0x401, 0x402, 0x403, 0x409, 0x40A,
    0x40B, 0x500, 0x601, 0x602, 0x610, 0x611, 0x612, 0x613, 0x614, 0x615]
  r.Canonical ∧ (∀ a, readByte r.mem a = 0 ∧ r.tagAt a = tagEmpty ∧ r.poisoned a = false) ∧
  (∀ c, let s := { r with cur := c }
    s.creg 0 = wordOf c ∧ (∀ p ∈ given, s.creg p.1 = p.2) ∧ (∀ n ∈ zero, s.creg n = 0) ∧
    (∀ n, n < 24 ∨ n = 31 → s.creg (0x220 + n) = 0x0200000000000000) ∧
    (∀ n, n < 16 → (s.reg n).cond = .dead) ∧ s.ctx.trellis = [] ∧ s.ctx.loops = [] ∧ (∀ p, s.me.fifo p = []) ∧
    s.me.act = none ∧ s.me.susp = none) ∧
  (∀ c, (r.cluster c).sbrate = 4400 ∧ (r.cluster c).sbburst = 64 ∧ (r.cluster c).sblevel = 4096 ∧
    (∀ n, n < 16 → vget 0 (r.cluster c).wgt n = 1) ∧ (r.cluster c).uroot = 0 ∧ (r.cluster c).sroot = 0) ∧
  (∀ n, (r.stack n).scfg = 8 ∧ (r.stack n).disturb = 10 ∧ (r.stack n).dseed = 1 ∧ (r.stack n).actth = 512)

/-- R48–R58, R61–R63: words of the spec's examples. -/
def Obligations.WordsDecodeAsTheSpecEncodes : Prop :=
  decodeWord 0x29412840#32 = .addc (.h 0) (.h 2) .push .z false ∧ decodeWord 0x305159F0#32 = .br (.h 4) (.h 5) 4#3 0x1F0#9 ∧
  decodeWord 0xD0008101#32 = .getc (.h 4) 0x101#12 ∧ decodeWord 0xDE000002#32 = .gate 2#2 ∧
  decodeWord 0x90515301#32 = .tmm (.h 4) (.h 5) (.h 6) false 1#2 ∧ decodeWord 0x96515000#32 = .tcfg (.h 4) (.h 5) ∧
  decodeWord 0x5B4942B1#32 = .wsrnd (.h 2) (.h 4) (.h 5) 3#3 0#2 false true ∧
  decodeWord 0x4A41113C#32 = .pdot (.h 0) (.h 1) (.h 2) 7#4 true 0#2 ∧
  decodeWord 0x5247A872#32 = .cvt (.h 1) 7#3 2#3 .push 7#3 0#2 true false ∧
  decodeWord 0x61456C00#32 = .st (.h 1) (.h 6) 3#2 0#2 0#8 ∧ decodeWord 0x20300000#32 = .ldk (.h 6) 0#19 ∧
  decodeWord 0x35400003#32 = .loop (.h 0) 3#9 ∧ decodeWord 0x36004002#32 = .loopi 4#12 2#9 ∧
  decodeWord 0x1858C001#32 = .addi (.h 6) (.h 6) 1#13 ∧ decodeWord 0xC2000000#32 = .done ∧
  decodeWord 0xA1500280#32 = .chain (.h 4) (.h 5) ∧ decodeWord 0xA0493300#32 = .ecmd (.h 2) (.h 3) (.h 6) ∧
  decodeWord 0xB0518000#32 = .send (.h 4) (.h 8) ∧ decodeWord 0xB5000000#32 = .hret ∧
  decodeWord 0x2C000000#32 = .illegalOpcode 0x2C000000#32 ∧ decodeWord 0x00000002#32 = .reservedField 0x00000002#32

/-- R3, R40, R48–R63: decode after encode is the identity. -/
def Obligations.EncodingsRoundTrip : Prop :=
  (∀ (i : Instr) (bs rest : List Byte), i.wf = true → encode i = some bs →
    bs.length = 4 ∧ decode (bs ++ rest) = .ok (i, rest)) ∧
  ∀ bs : List Byte, bs.length < 4 → decode bs = .error .truncated

/-- R40, R48–R63: encode after decode is the identity. -/
def Obligations.EveryWordHasOneMeaning : Prop :=
  ∀ w : BitVec 32, (decodeWord w).wf = true ∧ encodeWord (decodeWord w) = some w

/-- R12, R40, R43, R293: what a turn does. -/
def Obligations.StepRunsTheDecodedInstruction : Prop :=
  ∀ (s : State) (c : Nat) (rest : List Turn),
    let u := { s with turns := rest, cur := c }
    let then' := fun o : Out => match o with
      | .next t => Host.Outcome.next { t with
          ns := t.ns + Config.stepNs t.tick, cycles := t.cycles + Config.stepCycles t.tick, tick := t.tick + 1 }
      | o => o
    (s.turns = .core c :: rest → s.coreLive c = true → (s.core c).trapping = none →
      (∀ a, (s.core c).inl = none → (s.core c).act = some a → a.ending = none → u.ctx.spent = false → u.stopped (s.core c) = false →
        u.ctx.len ≠ 0 →
        (∀ i, u.ctx.latch = some i → step s = then' (exec i u)) ∧
        (∀ w, u.ctx.latch = none → u.ctx.atEnd = false → u.fetch32 c u.ctx.priv u.ctx.pc = .ok w →
          step s = then' (exec (decodeWord w)
            ((u.keepCopy c u.ctx.priv u.ctx.pc w).updCtx fun k => { k with latch := some (decodeWord w) })))) ∧
      (∀ i, (s.core c).inl = some i → step s = then' (exec (decodeWord (i.msg.slot i.slot)) u))) ∧
    (∀ i, s.turns = .event c i :: rest → step s = then' (if (encodeWord i).isSome then .next u else exec i u))

/-- The form of memory that R20, R177 and R389 are modelled in is kept by every step of every agent. -/
def Obligations.EveryStepKeepsTheFormOfMemory : Prop :=
  ∀ s t : State, s.Canonical → step s = .next t → t.Canonical
end

