-- ==== Sys2Proof/Laws/Tables.lean ====
section
/-! SUPPORT. Sparse tables, vectors and lists: what reading after writing gives, and that writing keeps the canonical form. -/

namespace Sys2Proof.Machine

variable {α : Type}

/-! ## Reading after writing -/

@[simp] theorem SMap.get_put_same (d : α) (m : SMap α) (k : Nat) (v : α) : SMap.get d (SMap.put m k v) k = v := by
  induction m with
  | nil => simp [SMap.put, SMap.get]
  | cons e m ih =>
    simp only [SMap.put]
    split
    · simp [SMap.get]
    · split
      · simp [SMap.get]
      · rename_i h; simp [SMap.get, h, ih]

theorem SMap.get_put_other (d : α) (m : SMap α) {k j : Nat} (v : α) (h : j ≠ k) :
    SMap.get d (SMap.put m k v) j = SMap.get d m j := by
  induction m with
  | nil => simp [SMap.put, SMap.get, h]
  | cons e m ih =>
    simp only [SMap.put]
    split
    · simp [SMap.get, h]
    · split
      · rename_i h2; subst h2; simp [SMap.get, h]
      · simp [SMap.get, ih]

theorem SMap.get_put (d : α) (m : SMap α) (k j : Nat) (v : α) :
    SMap.get d (SMap.put m k v) j = if j = k then v else SMap.get d m j := by
  split
  · rename_i h; simp [h]
  · rename_i h; exact SMap.get_put_other d m v h

@[simp] theorem SMap.put_put (m : SMap α) (k : Nat) (v w : α) : SMap.put (SMap.put m k v) k w = SMap.put m k w := by
  induction m with
  | nil => simp [SMap.put]
  | cons e m ih =>
    simp only [SMap.put]
    split
    · simp [SMap.put]
    · split
      · simp [SMap.put]
      · rename_i h1 h2; simp [SMap.put, h1, h2, ih]

/-! ## The canonical form -/

/-- The keys of a table strictly rise from above a bound: the form as a proposition. -/
def SMap.Above (lo : Nat) (m : SMap α) : Prop := SMap.risingFrom (some lo) m = true

theorem SMap.Above.cons {lo k : Nat} {v : α} {m : SMap α} : SMap.Above lo ((k, v) :: m) ↔ lo < k ∧ SMap.Above k m := by
  simp [SMap.Above, SMap.risingFrom]

theorem SMap.Above.weaken {lo lo' : Nat} {m : SMap α} (h : SMap.Above lo m) (hl : lo' ≤ lo) : SMap.Above lo' m := by
  cases m with
  | nil => rfl
  | cons e m => obtain ⟨k, v⟩ := e; rw [SMap.Above.cons] at *; exact ⟨by omega, h.2⟩

theorem SMap.Above.put {lo k : Nat} {m : SMap α} (h : SMap.Above lo m) (v : α) (hk : lo < k) : SMap.Above lo (SMap.put m k v) := by
  induction m generalizing lo with
  | nil => exact SMap.Above.cons.mpr ⟨hk, rfl⟩
  | cons e m ih =>
    obtain ⟨k', v'⟩ := e
    rw [SMap.Above.cons] at h
    simp only [SMap.put]
    split
    · exact SMap.Above.cons.mpr ⟨hk, SMap.Above.cons.mpr ⟨by omega, h.2⟩⟩
    · split
      · rename_i h2; subst h2; exact SMap.Above.cons.mpr ⟨hk, h.2⟩
      · exact SMap.Above.cons.mpr ⟨h.1, ih h.2 (by omega)⟩

theorem SMap.Above.erase {lo : Nat} {m : SMap α} (h : SMap.Above lo m) (k : Nat) : SMap.Above lo (SMap.erase m k) := by
  induction m generalizing lo with
  | nil => rfl
  | cons e m ih =>
    obtain ⟨k', v'⟩ := e
    rw [SMap.Above.cons] at h
    simp only [SMap.erase]
    split
    · exact h.2.weaken (by omega)
    · exact SMap.Above.cons.mpr ⟨h.1, ih h.2⟩

theorem SMap.Above.filter {lo : Nat} {m : SMap α} (h : SMap.Above lo m) (p : Nat × α → Bool) : SMap.Above lo (m.filter p) := by
  induction m generalizing lo with
  | nil => rfl
  | cons e m ih =>
    obtain ⟨k', v'⟩ := e
    rw [SMap.Above.cons] at h
    rw [List.filter_cons]
    split
    · exact SMap.Above.cons.mpr ⟨h.1, ih h.2⟩
    · exact (ih h.2).weaken (by omega)

/-- The keys of a table strictly rise. -/
theorem SMap.rising_cons {k : Nat} {v : α} {m : SMap α} : SMap.risingFrom none ((k, v) :: m) = true ↔ SMap.Above k m := by
  simp [SMap.Above, SMap.risingFrom]

theorem SMap.rising_of_above {lo : Nat} {m : SMap α} (h : SMap.Above lo m) : SMap.risingFrom none m = true := by
  cases m with
  | nil => rfl
  | cons e m => obtain ⟨k, v⟩ := e; exact SMap.rising_cons.mpr (SMap.Above.cons.mp h).2

theorem SMap.rising_put {m : SMap α} (h : SMap.risingFrom none m = true) (k : Nat) (v : α) :
    SMap.risingFrom none (SMap.put m k v) = true := by
  cases m with
  | nil => rfl
  | cons e m =>
    obtain ⟨k', v'⟩ := e
    rw [SMap.rising_cons] at h
    simp only [SMap.put]
    split
    · exact SMap.rising_cons.mpr (SMap.Above.cons.mpr ⟨by omega, h⟩)
    · split
      · rename_i h2; subst h2; exact SMap.rising_cons.mpr h
      · exact SMap.rising_cons.mpr (h.put v (by omega))

theorem SMap.rising_erase {m : SMap α} (h : SMap.risingFrom none m = true) (k : Nat) :
    SMap.risingFrom none (SMap.erase m k) = true := by
  cases m with
  | nil => rfl
  | cons e m =>
    obtain ⟨k', v'⟩ := e
    rw [SMap.rising_cons] at h
    simp only [SMap.erase]
    split
    · exact SMap.rising_of_above h
    · exact SMap.rising_cons.mpr (h.erase k)

theorem SMap.rising_filter {m : SMap α} (h : SMap.risingFrom none m = true) (p : Nat × α → Bool) :
    SMap.risingFrom none (m.filter p) = true := by
  cases m with
  | nil => rfl
  | cons e m =>
    obtain ⟨k', v'⟩ := e
    rw [SMap.rising_cons] at h
    rw [List.filter_cons]
    split
    · exact SMap.rising_cons.mpr (h.filter p)
    · exact SMap.rising_of_above (h.filter p)

theorem SMap.mem_put {m : SMap α} {k : Nat} {v : α} {e : Nat × α} (h : e ∈ SMap.put m k v) : e = (k, v) ∨ e ∈ m := by
  induction m with
  | nil => simpa [SMap.put] using h
  | cons f m ih =>
    simp only [SMap.put] at h
    split at h
    · simp at h ⊢; exact h
    · split at h
      · simp at h ⊢; exact h.imp id .inr
      · simp at h ⊢
        rcases h with h | h
        · exact .inr (.inl h)
        · rcases ih h with h | h
          · exact .inl h
          · exact .inr (.inr h)

theorem SMap.mem_erase {m : SMap α} {k : Nat} {e : Nat × α} (h : e ∈ SMap.erase m k) : e ∈ m := by
  induction m with
  | nil => simp [SMap.erase] at h
  | cons f m ih =>
    simp only [SMap.erase] at h
    split at h
    · exact List.mem_cons_of_mem _ h
    · simp at h ⊢; exact h.imp id ih

variable [DecidableEq α]

/-- Writing keeps the canonical form. -/
theorem SMap.wf_set {d : α} {m : SMap α} (h : SMap.wf d m = true) (k : Nat) (v : α) : SMap.wf d (SMap.set d m k v) = true := by
  simp only [SMap.wf, Bool.and_eq_true, List.all_eq_true, Bool.not_eq_true', decide_eq_false_iff_not] at *
  simp only [SMap.set]
  split
  · exact ⟨SMap.rising_erase h.1 k, fun e he => h.2 e (SMap.mem_erase he)⟩
  · rename_i hv
    refine ⟨SMap.rising_put h.1 k v, fun e he => ?_⟩
    rcases SMap.mem_put he with rfl | he
    · exact hv
    · exact h.2 e he

/-- Leaving entries out keeps the canonical form. -/
theorem SMap.wf_filter {d : α} {m : SMap α} (h : SMap.wf d m = true) (p : Nat × α → Bool) : SMap.wf d (m.filter p) = true := by
  simp only [SMap.wf, Bool.and_eq_true, List.all_eq_true, Bool.not_eq_true', decide_eq_false_iff_not] at *
  exact ⟨SMap.rising_filter h.1 p, fun e he => h.2 e (List.mem_filter.mp he).1⟩

omit [DecidableEq α] in
theorem SMap.get_erase_above {d : α} {m : SMap α} {lo k : Nat} (h : SMap.Above lo m) (hk : k ≤ lo) : SMap.get d m k = d := by
  induction m generalizing lo with
  | nil => rfl
  | cons e m ih =>
    obtain ⟨k', v'⟩ := e
    rw [SMap.Above.cons] at h
    have : k ≠ k' := by omega
    simp only [SMap.get, this, if_false]
    exact ih h.2 (by omega)

omit [DecidableEq α] in
theorem SMap.get_erase {d : α} {m : SMap α} (h : SMap.risingFrom none m = true) (k j : Nat) :
    SMap.get d (SMap.erase m k) j = if j = k then d else SMap.get d m j := by
  have key : ∀ (m : SMap α) (lo : Nat), SMap.Above lo m →
      SMap.get d (SMap.erase m k) j = if j = k then d else SMap.get d m j := by
    intro m
    induction m with
    | nil => intro lo _; simp [SMap.erase, SMap.get]
    | cons e m ih =>
      intro lo h
      obtain ⟨k', v'⟩ := e
      rw [SMap.Above.cons] at h
      simp only [SMap.erase]
      split
      · rename_i hk; subst hk
        split
        · rename_i hj; subst hj; exact SMap.get_erase_above h.2 (by omega)
        · rename_i hj; simp [SMap.get, hj]
      · rename_i hk
        simp only [SMap.get, ih k' h.2]
        split
        · rename_i hj; subst hj; simp [Ne.symm hk]
        · rfl
  cases m with
  | nil => simp [SMap.erase, SMap.get]
  | cons e m =>
    obtain ⟨k', v'⟩ := e
    rw [SMap.rising_cons] at h
    simp only [SMap.erase]
    split
    · rename_i hk; subst hk
      split
      · rename_i hj; subst hj; exact SMap.get_erase_above h (by omega)
      · rename_i hj; simp [SMap.get, hj]
    · rename_i hk
      simp only [SMap.get, key m k' h]
      split
      · rename_i hj; subst hj; simp [Ne.symm hk]
      · rfl

/-- Reading a canonical table after a write. -/
theorem SMap.get_set {d : α} {m : SMap α} (h : SMap.wf d m = true) (k j : Nat) (v : α) :
    SMap.get d (SMap.set d m k v) j = if j = k then v else SMap.get d m j := by
  simp only [SMap.wf, Bool.and_eq_true] at h
  simp only [SMap.set]
  split
  · rename_i hv; rw [SMap.get_erase h.1, hv]
  · exact SMap.get_put d m k j v

/-! ## Vectors -/

omit [DecidableEq α] in
omit [DecidableEq α] in
theorem vset_beyond {n : Nat} (v : Vector α n) (i : Nat) (x : α) (hi : ¬i < n) : vset v i x = v := by
  apply Vector.toArray_inj.mp
  simp only [vset, Vector.toArray_setIfInBounds]
  exact Array.setIfInBounds_eq_of_size_le (by simpa using hi)

omit [DecidableEq α] in
theorem vget_vset {n : Nat} (d : α) (v : Vector α n) (i j : Nat) (x : α) (hi : i < n) :
    vget d (vset v i x) j = if j = i then x else vget d v j := by
  simp only [vget, vset, Vector.toArray_setIfInBounds, Array.getD_eq_getD_getElem?, Array.getElem?_setIfInBounds]
  by_cases h : j = i
  · subst h; simp [hi]
  · simp [h, Ne.symm h]

end Sys2Proof.Machine
end

