-- ==== Sys2Proof/Laws/State.lean ====
section
/-! SUPPORT. What each change of the state leaves as it was, field by field, and what reading a part gives after it. -/

namespace Sys2Proof.Machine

variable (s : State)


/-! ## updCore -/

@[simp] theorem State.updCore_mem (c : Nat) (f : Core → Core) : (s.updCore c f).mem = s.mem := rfl
@[simp] theorem State.updCore_tags (c : Nat) (f : Core → Core) : (s.updCore c f).tags = s.tags := rfl
@[simp] theorem State.updCore_poison (c : Nat) (f : Core → Core) : (s.updCore c f).poison = s.poison := rfl
@[simp] theorem State.updCore_parked (c : Nat) (f : Core → Core) : (s.updCore c f).parked = s.parked := rfl
@[simp] theorem State.updCore_clusters (c : Nat) (f : Core → Core) : (s.updCore c f).clusters = s.clusters := rfl
@[simp] theorem State.updCore_routers (c : Nat) (f : Core → Core) : (s.updCore c f).routers = s.routers := rfl
@[simp] theorem State.updCore_dies (c : Nat) (f : Core → Core) : (s.updCore c f).dies = s.dies := rfl
@[simp] theorem State.updCore_stackEngines (c : Nat) (f : Core → Core) : (s.updCore c f).stackEngines = s.stackEngines := rfl
@[simp] theorem State.updCore_parts (c : Nat) (f : Core → Core) : (s.updCore c f).parts = s.parts := rfl
@[simp] theorem State.updCore_launches (c : Nat) (f : Core → Core) : (s.updCore c f).launches = s.launches := rfl
@[simp] theorem State.updCore_nextKey (c : Nat) (f : Core → Core) : (s.updCore c f).nextKey = s.nextKey := rfl
@[simp] theorem State.updCore_stages (c : Nat) (f : Core → Core) : (s.updCore c f).stages = s.stages := rfl
@[simp] theorem State.updCore_puts (c : Nat) (f : Core → Core) : (s.updCore c f).puts = s.puts := rfl
@[simp] theorem State.updCore_slots (c : Nat) (f : Core → Core) : (s.updCore c f).slots = s.slots := rfl
@[simp] theorem State.updCore_tcbLaunch (c : Nat) (f : Core → Core) : (s.updCore c f).tcbLaunch = s.tcbLaunch := rfl
@[simp] theorem State.updCore_tcbStamp (c : Nat) (f : Core → Core) : (s.updCore c f).tcbStamp = s.tcbStamp := rfl
@[simp] theorem State.updCore_injects (c : Nat) (f : Core → Core) : (s.updCore c f).injects = s.injects := rfl
@[simp] theorem State.updCore_origins (c : Nat) (f : Core → Core) : (s.updCore c f).origins = s.origins := rfl
@[simp] theorem State.updCore_msgs (c : Nat) (f : Core → Core) : (s.updCore c f).msgs = s.msgs := rfl
@[simp] theorem State.updCore_tgen (c : Nat) (f : Core → Core) : (s.updCore c f).tgen = s.tgen := rfl
@[simp] theorem State.updCore_blob (c : Nat) (f : Core → Core) : (s.updCore c f).blob = s.blob := rfl
@[simp] theorem State.updCore_kiosk (c : Nat) (f : Core → Core) : (s.updCore c f).kiosk = s.kiosk := rfl
@[simp] theorem State.updCore_host (c : Nat) (f : Core → Core) : (s.updCore c f).host = s.host := rfl
@[simp] theorem State.updCore_links (c : Nat) (f : Core → Core) : (s.updCore c f).links = s.links := rfl
@[simp] theorem State.updCore_ns (c : Nat) (f : Core → Core) : (s.updCore c f).ns = s.ns := rfl
@[simp] theorem State.updCore_cycles (c : Nat) (f : Core → Core) : (s.updCore c f).cycles = s.cycles := rfl
@[simp] theorem State.updCore_tick (c : Nat) (f : Core → Core) : (s.updCore c f).tick = s.tick := rfl
@[simp] theorem State.updCore_free (c : Nat) (f : Core → Core) : (s.updCore c f).free = s.free := rfl
@[simp] theorem State.updCore_cur (c : Nat) (f : Core → Core) : (s.updCore c f).cur = s.cur := rfl
@[simp] theorem State.updCore_turns (c : Nat) (f : Core → Core) : (s.updCore c f).turns = s.turns := rfl

/-! ## updMe -/

@[simp] theorem State.updMe_mem (f : Core → Core) : (s.updMe f).mem = s.mem := rfl
@[simp] theorem State.updMe_tags (f : Core → Core) : (s.updMe f).tags = s.tags := rfl
@[simp] theorem State.updMe_poison (f : Core → Core) : (s.updMe f).poison = s.poison := rfl
@[simp] theorem State.updMe_parked (f : Core → Core) : (s.updMe f).parked = s.parked := rfl
@[simp] theorem State.updMe_clusters (f : Core → Core) : (s.updMe f).clusters = s.clusters := rfl
@[simp] theorem State.updMe_routers (f : Core → Core) : (s.updMe f).routers = s.routers := rfl
@[simp] theorem State.updMe_dies (f : Core → Core) : (s.updMe f).dies = s.dies := rfl
@[simp] theorem State.updMe_stackEngines (f : Core → Core) : (s.updMe f).stackEngines = s.stackEngines := rfl
@[simp] theorem State.updMe_parts (f : Core → Core) : (s.updMe f).parts = s.parts := rfl
@[simp] theorem State.updMe_launches (f : Core → Core) : (s.updMe f).launches = s.launches := rfl
@[simp] theorem State.updMe_nextKey (f : Core → Core) : (s.updMe f).nextKey = s.nextKey := rfl
@[simp] theorem State.updMe_stages (f : Core → Core) : (s.updMe f).stages = s.stages := rfl
@[simp] theorem State.updMe_puts (f : Core → Core) : (s.updMe f).puts = s.puts := rfl
@[simp] theorem State.updMe_slots (f : Core → Core) : (s.updMe f).slots = s.slots := rfl
@[simp] theorem State.updMe_tcbLaunch (f : Core → Core) : (s.updMe f).tcbLaunch = s.tcbLaunch := rfl
@[simp] theorem State.updMe_tcbStamp (f : Core → Core) : (s.updMe f).tcbStamp = s.tcbStamp := rfl
@[simp] theorem State.updMe_injects (f : Core → Core) : (s.updMe f).injects = s.injects := rfl
@[simp] theorem State.updMe_origins (f : Core → Core) : (s.updMe f).origins = s.origins := rfl
@[simp] theorem State.updMe_msgs (f : Core → Core) : (s.updMe f).msgs = s.msgs := rfl
@[simp] theorem State.updMe_tgen (f : Core → Core) : (s.updMe f).tgen = s.tgen := rfl
@[simp] theorem State.updMe_blob (f : Core → Core) : (s.updMe f).blob = s.blob := rfl
@[simp] theorem State.updMe_kiosk (f : Core → Core) : (s.updMe f).kiosk = s.kiosk := rfl
@[simp] theorem State.updMe_host (f : Core → Core) : (s.updMe f).host = s.host := rfl
@[simp] theorem State.updMe_links (f : Core → Core) : (s.updMe f).links = s.links := rfl
@[simp] theorem State.updMe_ns (f : Core → Core) : (s.updMe f).ns = s.ns := rfl
@[simp] theorem State.updMe_cycles (f : Core → Core) : (s.updMe f).cycles = s.cycles := rfl
@[simp] theorem State.updMe_tick (f : Core → Core) : (s.updMe f).tick = s.tick := rfl
@[simp] theorem State.updMe_free (f : Core → Core) : (s.updMe f).free = s.free := rfl
@[simp] theorem State.updMe_cur (f : Core → Core) : (s.updMe f).cur = s.cur := rfl
@[simp] theorem State.updMe_turns (f : Core → Core) : (s.updMe f).turns = s.turns := rfl

/-! ## updCtx -/

@[simp] theorem State.updCtx_mem (f : Ctx → Ctx) : (s.updCtx f).mem = s.mem := rfl
@[simp] theorem State.updCtx_tags (f : Ctx → Ctx) : (s.updCtx f).tags = s.tags := rfl
@[simp] theorem State.updCtx_poison (f : Ctx → Ctx) : (s.updCtx f).poison = s.poison := rfl
@[simp] theorem State.updCtx_parked (f : Ctx → Ctx) : (s.updCtx f).parked = s.parked := rfl
@[simp] theorem State.updCtx_clusters (f : Ctx → Ctx) : (s.updCtx f).clusters = s.clusters := rfl
@[simp] theorem State.updCtx_routers (f : Ctx → Ctx) : (s.updCtx f).routers = s.routers := rfl
@[simp] theorem State.updCtx_dies (f : Ctx → Ctx) : (s.updCtx f).dies = s.dies := rfl
@[simp] theorem State.updCtx_stackEngines (f : Ctx → Ctx) : (s.updCtx f).stackEngines = s.stackEngines := rfl
@[simp] theorem State.updCtx_parts (f : Ctx → Ctx) : (s.updCtx f).parts = s.parts := rfl
@[simp] theorem State.updCtx_launches (f : Ctx → Ctx) : (s.updCtx f).launches = s.launches := rfl
@[simp] theorem State.updCtx_nextKey (f : Ctx → Ctx) : (s.updCtx f).nextKey = s.nextKey := rfl
@[simp] theorem State.updCtx_stages (f : Ctx → Ctx) : (s.updCtx f).stages = s.stages := rfl
@[simp] theorem State.updCtx_puts (f : Ctx → Ctx) : (s.updCtx f).puts = s.puts := rfl
@[simp] theorem State.updCtx_slots (f : Ctx → Ctx) : (s.updCtx f).slots = s.slots := rfl
@[simp] theorem State.updCtx_tcbLaunch (f : Ctx → Ctx) : (s.updCtx f).tcbLaunch = s.tcbLaunch := rfl
@[simp] theorem State.updCtx_tcbStamp (f : Ctx → Ctx) : (s.updCtx f).tcbStamp = s.tcbStamp := rfl
@[simp] theorem State.updCtx_injects (f : Ctx → Ctx) : (s.updCtx f).injects = s.injects := rfl
@[simp] theorem State.updCtx_origins (f : Ctx → Ctx) : (s.updCtx f).origins = s.origins := rfl
@[simp] theorem State.updCtx_msgs (f : Ctx → Ctx) : (s.updCtx f).msgs = s.msgs := rfl
@[simp] theorem State.updCtx_tgen (f : Ctx → Ctx) : (s.updCtx f).tgen = s.tgen := rfl
@[simp] theorem State.updCtx_blob (f : Ctx → Ctx) : (s.updCtx f).blob = s.blob := rfl
@[simp] theorem State.updCtx_kiosk (f : Ctx → Ctx) : (s.updCtx f).kiosk = s.kiosk := rfl
@[simp] theorem State.updCtx_host (f : Ctx → Ctx) : (s.updCtx f).host = s.host := rfl
@[simp] theorem State.updCtx_links (f : Ctx → Ctx) : (s.updCtx f).links = s.links := rfl
@[simp] theorem State.updCtx_ns (f : Ctx → Ctx) : (s.updCtx f).ns = s.ns := rfl
@[simp] theorem State.updCtx_cycles (f : Ctx → Ctx) : (s.updCtx f).cycles = s.cycles := rfl
@[simp] theorem State.updCtx_tick (f : Ctx → Ctx) : (s.updCtx f).tick = s.tick := rfl
@[simp] theorem State.updCtx_free (f : Ctx → Ctx) : (s.updCtx f).free = s.free := rfl
@[simp] theorem State.updCtx_cur (f : Ctx → Ctx) : (s.updCtx f).cur = s.cur := rfl
@[simp] theorem State.updCtx_turns (f : Ctx → Ctx) : (s.updCtx f).turns = s.turns := rfl

/-! ## updCluster -/

@[simp] theorem State.updCluster_mem (c : Nat) (f : Cluster → Cluster) : (s.updCluster c f).mem = s.mem := rfl
@[simp] theorem State.updCluster_tags (c : Nat) (f : Cluster → Cluster) : (s.updCluster c f).tags = s.tags := rfl
@[simp] theorem State.updCluster_poison (c : Nat) (f : Cluster → Cluster) : (s.updCluster c f).poison = s.poison := rfl
@[simp] theorem State.updCluster_parked (c : Nat) (f : Cluster → Cluster) : (s.updCluster c f).parked = s.parked := rfl
@[simp] theorem State.updCluster_cores (c : Nat) (f : Cluster → Cluster) : (s.updCluster c f).cores = s.cores := rfl
@[simp] theorem State.updCluster_routers (c : Nat) (f : Cluster → Cluster) : (s.updCluster c f).routers = s.routers := rfl
@[simp] theorem State.updCluster_dies (c : Nat) (f : Cluster → Cluster) : (s.updCluster c f).dies = s.dies := rfl
@[simp] theorem State.updCluster_stackEngines (c : Nat) (f : Cluster → Cluster) : (s.updCluster c f).stackEngines = s.stackEngines := rfl
@[simp] theorem State.updCluster_parts (c : Nat) (f : Cluster → Cluster) : (s.updCluster c f).parts = s.parts := rfl
@[simp] theorem State.updCluster_launches (c : Nat) (f : Cluster → Cluster) : (s.updCluster c f).launches = s.launches := rfl
@[simp] theorem State.updCluster_nextKey (c : Nat) (f : Cluster → Cluster) : (s.updCluster c f).nextKey = s.nextKey := rfl
@[simp] theorem State.updCluster_stages (c : Nat) (f : Cluster → Cluster) : (s.updCluster c f).stages = s.stages := rfl
@[simp] theorem State.updCluster_puts (c : Nat) (f : Cluster → Cluster) : (s.updCluster c f).puts = s.puts := rfl
@[simp] theorem State.updCluster_slots (c : Nat) (f : Cluster → Cluster) : (s.updCluster c f).slots = s.slots := rfl
@[simp] theorem State.updCluster_tcbLaunch (c : Nat) (f : Cluster → Cluster) : (s.updCluster c f).tcbLaunch = s.tcbLaunch := rfl
@[simp] theorem State.updCluster_tcbStamp (c : Nat) (f : Cluster → Cluster) : (s.updCluster c f).tcbStamp = s.tcbStamp := rfl
@[simp] theorem State.updCluster_injects (c : Nat) (f : Cluster → Cluster) : (s.updCluster c f).injects = s.injects := rfl
@[simp] theorem State.updCluster_origins (c : Nat) (f : Cluster → Cluster) : (s.updCluster c f).origins = s.origins := rfl
@[simp] theorem State.updCluster_msgs (c : Nat) (f : Cluster → Cluster) : (s.updCluster c f).msgs = s.msgs := rfl
@[simp] theorem State.updCluster_tgen (c : Nat) (f : Cluster → Cluster) : (s.updCluster c f).tgen = s.tgen := rfl
@[simp] theorem State.updCluster_blob (c : Nat) (f : Cluster → Cluster) : (s.updCluster c f).blob = s.blob := rfl
@[simp] theorem State.updCluster_kiosk (c : Nat) (f : Cluster → Cluster) : (s.updCluster c f).kiosk = s.kiosk := rfl
@[simp] theorem State.updCluster_host (c : Nat) (f : Cluster → Cluster) : (s.updCluster c f).host = s.host := rfl
@[simp] theorem State.updCluster_links (c : Nat) (f : Cluster → Cluster) : (s.updCluster c f).links = s.links := rfl
@[simp] theorem State.updCluster_ns (c : Nat) (f : Cluster → Cluster) : (s.updCluster c f).ns = s.ns := rfl
@[simp] theorem State.updCluster_cycles (c : Nat) (f : Cluster → Cluster) : (s.updCluster c f).cycles = s.cycles := rfl
@[simp] theorem State.updCluster_tick (c : Nat) (f : Cluster → Cluster) : (s.updCluster c f).tick = s.tick := rfl
@[simp] theorem State.updCluster_free (c : Nat) (f : Cluster → Cluster) : (s.updCluster c f).free = s.free := rfl
@[simp] theorem State.updCluster_cur (c : Nat) (f : Cluster → Cluster) : (s.updCluster c f).cur = s.cur := rfl
@[simp] theorem State.updCluster_turns (c : Nat) (f : Cluster → Cluster) : (s.updCluster c f).turns = s.turns := rfl

/-! ## updRouter -/

@[simp] theorem State.updRouter_mem (c : Nat) (f : Router → Router) : (s.updRouter c f).mem = s.mem := rfl
@[simp] theorem State.updRouter_tags (c : Nat) (f : Router → Router) : (s.updRouter c f).tags = s.tags := rfl
@[simp] theorem State.updRouter_poison (c : Nat) (f : Router → Router) : (s.updRouter c f).poison = s.poison := rfl
@[simp] theorem State.updRouter_parked (c : Nat) (f : Router → Router) : (s.updRouter c f).parked = s.parked := rfl
@[simp] theorem State.updRouter_cores (c : Nat) (f : Router → Router) : (s.updRouter c f).cores = s.cores := rfl
@[simp] theorem State.updRouter_clusters (c : Nat) (f : Router → Router) : (s.updRouter c f).clusters = s.clusters := rfl
@[simp] theorem State.updRouter_dies (c : Nat) (f : Router → Router) : (s.updRouter c f).dies = s.dies := rfl
@[simp] theorem State.updRouter_stackEngines (c : Nat) (f : Router → Router) : (s.updRouter c f).stackEngines = s.stackEngines := rfl
@[simp] theorem State.updRouter_parts (c : Nat) (f : Router → Router) : (s.updRouter c f).parts = s.parts := rfl
@[simp] theorem State.updRouter_launches (c : Nat) (f : Router → Router) : (s.updRouter c f).launches = s.launches := rfl
@[simp] theorem State.updRouter_nextKey (c : Nat) (f : Router → Router) : (s.updRouter c f).nextKey = s.nextKey := rfl
@[simp] theorem State.updRouter_stages (c : Nat) (f : Router → Router) : (s.updRouter c f).stages = s.stages := rfl
@[simp] theorem State.updRouter_puts (c : Nat) (f : Router → Router) : (s.updRouter c f).puts = s.puts := rfl
@[simp] theorem State.updRouter_slots (c : Nat) (f : Router → Router) : (s.updRouter c f).slots = s.slots := rfl
@[simp] theorem State.updRouter_tcbLaunch (c : Nat) (f : Router → Router) : (s.updRouter c f).tcbLaunch = s.tcbLaunch := rfl
@[simp] theorem State.updRouter_tcbStamp (c : Nat) (f : Router → Router) : (s.updRouter c f).tcbStamp = s.tcbStamp := rfl
@[simp] theorem State.updRouter_injects (c : Nat) (f : Router → Router) : (s.updRouter c f).injects = s.injects := rfl
@[simp] theorem State.updRouter_origins (c : Nat) (f : Router → Router) : (s.updRouter c f).origins = s.origins := rfl
@[simp] theorem State.updRouter_msgs (c : Nat) (f : Router → Router) : (s.updRouter c f).msgs = s.msgs := rfl
@[simp] theorem State.updRouter_tgen (c : Nat) (f : Router → Router) : (s.updRouter c f).tgen = s.tgen := rfl
@[simp] theorem State.updRouter_blob (c : Nat) (f : Router → Router) : (s.updRouter c f).blob = s.blob := rfl
@[simp] theorem State.updRouter_kiosk (c : Nat) (f : Router → Router) : (s.updRouter c f).kiosk = s.kiosk := rfl
@[simp] theorem State.updRouter_host (c : Nat) (f : Router → Router) : (s.updRouter c f).host = s.host := rfl
@[simp] theorem State.updRouter_links (c : Nat) (f : Router → Router) : (s.updRouter c f).links = s.links := rfl
@[simp] theorem State.updRouter_ns (c : Nat) (f : Router → Router) : (s.updRouter c f).ns = s.ns := rfl
@[simp] theorem State.updRouter_cycles (c : Nat) (f : Router → Router) : (s.updRouter c f).cycles = s.cycles := rfl
@[simp] theorem State.updRouter_tick (c : Nat) (f : Router → Router) : (s.updRouter c f).tick = s.tick := rfl
@[simp] theorem State.updRouter_free (c : Nat) (f : Router → Router) : (s.updRouter c f).free = s.free := rfl
@[simp] theorem State.updRouter_cur (c : Nat) (f : Router → Router) : (s.updRouter c f).cur = s.cur := rfl
@[simp] theorem State.updRouter_turns (c : Nat) (f : Router → Router) : (s.updRouter c f).turns = s.turns := rfl

/-! ## updDie -/

@[simp] theorem State.updDie_mem (d : Nat) (f : Die → Die) : (s.updDie d f).mem = s.mem := rfl
@[simp] theorem State.updDie_tags (d : Nat) (f : Die → Die) : (s.updDie d f).tags = s.tags := rfl
@[simp] theorem State.updDie_poison (d : Nat) (f : Die → Die) : (s.updDie d f).poison = s.poison := rfl
@[simp] theorem State.updDie_parked (d : Nat) (f : Die → Die) : (s.updDie d f).parked = s.parked := rfl
@[simp] theorem State.updDie_cores (d : Nat) (f : Die → Die) : (s.updDie d f).cores = s.cores := rfl
@[simp] theorem State.updDie_clusters (d : Nat) (f : Die → Die) : (s.updDie d f).clusters = s.clusters := rfl
@[simp] theorem State.updDie_routers (d : Nat) (f : Die → Die) : (s.updDie d f).routers = s.routers := rfl
@[simp] theorem State.updDie_stackEngines (d : Nat) (f : Die → Die) : (s.updDie d f).stackEngines = s.stackEngines := rfl
@[simp] theorem State.updDie_parts (d : Nat) (f : Die → Die) : (s.updDie d f).parts = s.parts := rfl
@[simp] theorem State.updDie_launches (d : Nat) (f : Die → Die) : (s.updDie d f).launches = s.launches := rfl
@[simp] theorem State.updDie_nextKey (d : Nat) (f : Die → Die) : (s.updDie d f).nextKey = s.nextKey := rfl
@[simp] theorem State.updDie_stages (d : Nat) (f : Die → Die) : (s.updDie d f).stages = s.stages := rfl
@[simp] theorem State.updDie_puts (d : Nat) (f : Die → Die) : (s.updDie d f).puts = s.puts := rfl
@[simp] theorem State.updDie_slots (d : Nat) (f : Die → Die) : (s.updDie d f).slots = s.slots := rfl
@[simp] theorem State.updDie_tcbLaunch (d : Nat) (f : Die → Die) : (s.updDie d f).tcbLaunch = s.tcbLaunch := rfl
@[simp] theorem State.updDie_tcbStamp (d : Nat) (f : Die → Die) : (s.updDie d f).tcbStamp = s.tcbStamp := rfl
@[simp] theorem State.updDie_injects (d : Nat) (f : Die → Die) : (s.updDie d f).injects = s.injects := rfl
@[simp] theorem State.updDie_origins (d : Nat) (f : Die → Die) : (s.updDie d f).origins = s.origins := rfl
@[simp] theorem State.updDie_msgs (d : Nat) (f : Die → Die) : (s.updDie d f).msgs = s.msgs := rfl
@[simp] theorem State.updDie_tgen (d : Nat) (f : Die → Die) : (s.updDie d f).tgen = s.tgen := rfl
@[simp] theorem State.updDie_blob (d : Nat) (f : Die → Die) : (s.updDie d f).blob = s.blob := rfl
@[simp] theorem State.updDie_kiosk (d : Nat) (f : Die → Die) : (s.updDie d f).kiosk = s.kiosk := rfl
@[simp] theorem State.updDie_host (d : Nat) (f : Die → Die) : (s.updDie d f).host = s.host := rfl
@[simp] theorem State.updDie_links (d : Nat) (f : Die → Die) : (s.updDie d f).links = s.links := rfl
@[simp] theorem State.updDie_ns (d : Nat) (f : Die → Die) : (s.updDie d f).ns = s.ns := rfl
@[simp] theorem State.updDie_cycles (d : Nat) (f : Die → Die) : (s.updDie d f).cycles = s.cycles := rfl
@[simp] theorem State.updDie_tick (d : Nat) (f : Die → Die) : (s.updDie d f).tick = s.tick := rfl
@[simp] theorem State.updDie_free (d : Nat) (f : Die → Die) : (s.updDie d f).free = s.free := rfl
@[simp] theorem State.updDie_cur (d : Nat) (f : Die → Die) : (s.updDie d f).cur = s.cur := rfl
@[simp] theorem State.updDie_turns (d : Nat) (f : Die → Die) : (s.updDie d f).turns = s.turns := rfl

/-! ## updStack -/

@[simp] theorem State.updStack_mem (n : Nat) (f : Stack → Stack) : (s.updStack n f).mem = s.mem := rfl
@[simp] theorem State.updStack_tags (n : Nat) (f : Stack → Stack) : (s.updStack n f).tags = s.tags := rfl
@[simp] theorem State.updStack_poison (n : Nat) (f : Stack → Stack) : (s.updStack n f).poison = s.poison := rfl
@[simp] theorem State.updStack_parked (n : Nat) (f : Stack → Stack) : (s.updStack n f).parked = s.parked := rfl
@[simp] theorem State.updStack_cores (n : Nat) (f : Stack → Stack) : (s.updStack n f).cores = s.cores := rfl
@[simp] theorem State.updStack_clusters (n : Nat) (f : Stack → Stack) : (s.updStack n f).clusters = s.clusters := rfl
@[simp] theorem State.updStack_routers (n : Nat) (f : Stack → Stack) : (s.updStack n f).routers = s.routers := rfl
@[simp] theorem State.updStack_dies (n : Nat) (f : Stack → Stack) : (s.updStack n f).dies = s.dies := rfl
@[simp] theorem State.updStack_parts (n : Nat) (f : Stack → Stack) : (s.updStack n f).parts = s.parts := rfl
@[simp] theorem State.updStack_launches (n : Nat) (f : Stack → Stack) : (s.updStack n f).launches = s.launches := rfl
@[simp] theorem State.updStack_nextKey (n : Nat) (f : Stack → Stack) : (s.updStack n f).nextKey = s.nextKey := rfl
@[simp] theorem State.updStack_stages (n : Nat) (f : Stack → Stack) : (s.updStack n f).stages = s.stages := rfl
@[simp] theorem State.updStack_puts (n : Nat) (f : Stack → Stack) : (s.updStack n f).puts = s.puts := rfl
@[simp] theorem State.updStack_slots (n : Nat) (f : Stack → Stack) : (s.updStack n f).slots = s.slots := rfl
@[simp] theorem State.updStack_tcbLaunch (n : Nat) (f : Stack → Stack) : (s.updStack n f).tcbLaunch = s.tcbLaunch := rfl
@[simp] theorem State.updStack_tcbStamp (n : Nat) (f : Stack → Stack) : (s.updStack n f).tcbStamp = s.tcbStamp := rfl
@[simp] theorem State.updStack_injects (n : Nat) (f : Stack → Stack) : (s.updStack n f).injects = s.injects := rfl
@[simp] theorem State.updStack_origins (n : Nat) (f : Stack → Stack) : (s.updStack n f).origins = s.origins := rfl
@[simp] theorem State.updStack_msgs (n : Nat) (f : Stack → Stack) : (s.updStack n f).msgs = s.msgs := rfl
@[simp] theorem State.updStack_tgen (n : Nat) (f : Stack → Stack) : (s.updStack n f).tgen = s.tgen := rfl
@[simp] theorem State.updStack_blob (n : Nat) (f : Stack → Stack) : (s.updStack n f).blob = s.blob := rfl
@[simp] theorem State.updStack_kiosk (n : Nat) (f : Stack → Stack) : (s.updStack n f).kiosk = s.kiosk := rfl
@[simp] theorem State.updStack_host (n : Nat) (f : Stack → Stack) : (s.updStack n f).host = s.host := rfl
@[simp] theorem State.updStack_links (n : Nat) (f : Stack → Stack) : (s.updStack n f).links = s.links := rfl
@[simp] theorem State.updStack_ns (n : Nat) (f : Stack → Stack) : (s.updStack n f).ns = s.ns := rfl
@[simp] theorem State.updStack_cycles (n : Nat) (f : Stack → Stack) : (s.updStack n f).cycles = s.cycles := rfl
@[simp] theorem State.updStack_tick (n : Nat) (f : Stack → Stack) : (s.updStack n f).tick = s.tick := rfl
@[simp] theorem State.updStack_free (n : Nat) (f : Stack → Stack) : (s.updStack n f).free = s.free := rfl
@[simp] theorem State.updStack_cur (n : Nat) (f : Stack → Stack) : (s.updStack n f).cur = s.cur := rfl
@[simp] theorem State.updStack_turns (n : Nat) (f : Stack → Stack) : (s.updStack n f).turns = s.turns := rfl

/-! ## setLaunch -/

@[simp] theorem State.setLaunch_mem (k : Nat) (l : Launch) : (s.setLaunch k l).mem = s.mem := rfl
@[simp] theorem State.setLaunch_tags (k : Nat) (l : Launch) : (s.setLaunch k l).tags = s.tags := rfl
@[simp] theorem State.setLaunch_poison (k : Nat) (l : Launch) : (s.setLaunch k l).poison = s.poison := rfl
@[simp] theorem State.setLaunch_parked (k : Nat) (l : Launch) : (s.setLaunch k l).parked = s.parked := rfl
@[simp] theorem State.setLaunch_cores (k : Nat) (l : Launch) : (s.setLaunch k l).cores = s.cores := rfl
@[simp] theorem State.setLaunch_clusters (k : Nat) (l : Launch) : (s.setLaunch k l).clusters = s.clusters := rfl
@[simp] theorem State.setLaunch_routers (k : Nat) (l : Launch) : (s.setLaunch k l).routers = s.routers := rfl
@[simp] theorem State.setLaunch_dies (k : Nat) (l : Launch) : (s.setLaunch k l).dies = s.dies := rfl
@[simp] theorem State.setLaunch_stackEngines (k : Nat) (l : Launch) : (s.setLaunch k l).stackEngines = s.stackEngines := rfl
@[simp] theorem State.setLaunch_parts (k : Nat) (l : Launch) : (s.setLaunch k l).parts = s.parts := rfl
@[simp] theorem State.setLaunch_nextKey (k : Nat) (l : Launch) : (s.setLaunch k l).nextKey = s.nextKey := rfl
@[simp] theorem State.setLaunch_stages (k : Nat) (l : Launch) : (s.setLaunch k l).stages = s.stages := rfl
@[simp] theorem State.setLaunch_puts (k : Nat) (l : Launch) : (s.setLaunch k l).puts = s.puts := rfl
@[simp] theorem State.setLaunch_slots (k : Nat) (l : Launch) : (s.setLaunch k l).slots = s.slots := rfl
@[simp] theorem State.setLaunch_tcbLaunch (k : Nat) (l : Launch) : (s.setLaunch k l).tcbLaunch = s.tcbLaunch := rfl
@[simp] theorem State.setLaunch_tcbStamp (k : Nat) (l : Launch) : (s.setLaunch k l).tcbStamp = s.tcbStamp := rfl
@[simp] theorem State.setLaunch_injects (k : Nat) (l : Launch) : (s.setLaunch k l).injects = s.injects := rfl
@[simp] theorem State.setLaunch_origins (k : Nat) (l : Launch) : (s.setLaunch k l).origins = s.origins := rfl
@[simp] theorem State.setLaunch_msgs (k : Nat) (l : Launch) : (s.setLaunch k l).msgs = s.msgs := rfl
@[simp] theorem State.setLaunch_tgen (k : Nat) (l : Launch) : (s.setLaunch k l).tgen = s.tgen := rfl
@[simp] theorem State.setLaunch_blob (k : Nat) (l : Launch) : (s.setLaunch k l).blob = s.blob := rfl
@[simp] theorem State.setLaunch_kiosk (k : Nat) (l : Launch) : (s.setLaunch k l).kiosk = s.kiosk := rfl
@[simp] theorem State.setLaunch_host (k : Nat) (l : Launch) : (s.setLaunch k l).host = s.host := rfl
@[simp] theorem State.setLaunch_links (k : Nat) (l : Launch) : (s.setLaunch k l).links = s.links := rfl
@[simp] theorem State.setLaunch_ns (k : Nat) (l : Launch) : (s.setLaunch k l).ns = s.ns := rfl
@[simp] theorem State.setLaunch_cycles (k : Nat) (l : Launch) : (s.setLaunch k l).cycles = s.cycles := rfl
@[simp] theorem State.setLaunch_tick (k : Nat) (l : Launch) : (s.setLaunch k l).tick = s.tick := rfl
@[simp] theorem State.setLaunch_free (k : Nat) (l : Launch) : (s.setLaunch k l).free = s.free := rfl
@[simp] theorem State.setLaunch_cur (k : Nat) (l : Launch) : (s.setLaunch k l).cur = s.cur := rfl
@[simp] theorem State.setLaunch_turns (k : Nat) (l : Launch) : (s.setLaunch k l).turns = s.turns := rfl

/-! ## setStage -/

@[simp] theorem State.setStage_mem (k : Nat) (g : Stage) : (s.setStage k g).mem = s.mem := rfl
@[simp] theorem State.setStage_tags (k : Nat) (g : Stage) : (s.setStage k g).tags = s.tags := rfl
@[simp] theorem State.setStage_poison (k : Nat) (g : Stage) : (s.setStage k g).poison = s.poison := rfl
@[simp] theorem State.setStage_parked (k : Nat) (g : Stage) : (s.setStage k g).parked = s.parked := rfl
@[simp] theorem State.setStage_cores (k : Nat) (g : Stage) : (s.setStage k g).cores = s.cores := rfl
@[simp] theorem State.setStage_clusters (k : Nat) (g : Stage) : (s.setStage k g).clusters = s.clusters := rfl
@[simp] theorem State.setStage_routers (k : Nat) (g : Stage) : (s.setStage k g).routers = s.routers := rfl
@[simp] theorem State.setStage_dies (k : Nat) (g : Stage) : (s.setStage k g).dies = s.dies := rfl
@[simp] theorem State.setStage_stackEngines (k : Nat) (g : Stage) : (s.setStage k g).stackEngines = s.stackEngines := rfl
@[simp] theorem State.setStage_parts (k : Nat) (g : Stage) : (s.setStage k g).parts = s.parts := rfl
@[simp] theorem State.setStage_launches (k : Nat) (g : Stage) : (s.setStage k g).launches = s.launches := rfl
@[simp] theorem State.setStage_nextKey (k : Nat) (g : Stage) : (s.setStage k g).nextKey = s.nextKey := rfl
@[simp] theorem State.setStage_puts (k : Nat) (g : Stage) : (s.setStage k g).puts = s.puts := rfl
@[simp] theorem State.setStage_slots (k : Nat) (g : Stage) : (s.setStage k g).slots = s.slots := rfl
@[simp] theorem State.setStage_tcbLaunch (k : Nat) (g : Stage) : (s.setStage k g).tcbLaunch = s.tcbLaunch := rfl
@[simp] theorem State.setStage_tcbStamp (k : Nat) (g : Stage) : (s.setStage k g).tcbStamp = s.tcbStamp := rfl
@[simp] theorem State.setStage_injects (k : Nat) (g : Stage) : (s.setStage k g).injects = s.injects := rfl
@[simp] theorem State.setStage_origins (k : Nat) (g : Stage) : (s.setStage k g).origins = s.origins := rfl
@[simp] theorem State.setStage_msgs (k : Nat) (g : Stage) : (s.setStage k g).msgs = s.msgs := rfl
@[simp] theorem State.setStage_tgen (k : Nat) (g : Stage) : (s.setStage k g).tgen = s.tgen := rfl
@[simp] theorem State.setStage_blob (k : Nat) (g : Stage) : (s.setStage k g).blob = s.blob := rfl
@[simp] theorem State.setStage_kiosk (k : Nat) (g : Stage) : (s.setStage k g).kiosk = s.kiosk := rfl
@[simp] theorem State.setStage_host (k : Nat) (g : Stage) : (s.setStage k g).host = s.host := rfl
@[simp] theorem State.setStage_links (k : Nat) (g : Stage) : (s.setStage k g).links = s.links := rfl
@[simp] theorem State.setStage_ns (k : Nat) (g : Stage) : (s.setStage k g).ns = s.ns := rfl
@[simp] theorem State.setStage_cycles (k : Nat) (g : Stage) : (s.setStage k g).cycles = s.cycles := rfl
@[simp] theorem State.setStage_tick (k : Nat) (g : Stage) : (s.setStage k g).tick = s.tick := rfl
@[simp] theorem State.setStage_free (k : Nat) (g : Stage) : (s.setStage k g).free = s.free := rfl
@[simp] theorem State.setStage_cur (k : Nat) (g : Stage) : (s.setStage k g).cur = s.cur := rfl
@[simp] theorem State.setStage_turns (k : Nat) (g : Stage) : (s.setStage k g).turns = s.turns := rfl

/-! ## write -/

@[simp] theorem State.write_tags (k n : Nat) (v : Word) : (s.write k n v).tags = s.tags := rfl
@[simp] theorem State.write_poison (k n : Nat) (v : Word) : (s.write k n v).poison = s.poison := rfl
@[simp] theorem State.write_parked (k n : Nat) (v : Word) : (s.write k n v).parked = s.parked := rfl
@[simp] theorem State.write_cores (k n : Nat) (v : Word) : (s.write k n v).cores = s.cores := rfl
@[simp] theorem State.write_clusters (k n : Nat) (v : Word) : (s.write k n v).clusters = s.clusters := rfl
@[simp] theorem State.write_routers (k n : Nat) (v : Word) : (s.write k n v).routers = s.routers := rfl
@[simp] theorem State.write_dies (k n : Nat) (v : Word) : (s.write k n v).dies = s.dies := rfl
@[simp] theorem State.write_stackEngines (k n : Nat) (v : Word) : (s.write k n v).stackEngines = s.stackEngines := rfl
@[simp] theorem State.write_parts (k n : Nat) (v : Word) : (s.write k n v).parts = s.parts := rfl
@[simp] theorem State.write_launches (k n : Nat) (v : Word) : (s.write k n v).launches = s.launches := rfl
@[simp] theorem State.write_nextKey (k n : Nat) (v : Word) : (s.write k n v).nextKey = s.nextKey := rfl
@[simp] theorem State.write_stages (k n : Nat) (v : Word) : (s.write k n v).stages = s.stages := rfl
@[simp] theorem State.write_puts (k n : Nat) (v : Word) : (s.write k n v).puts = s.puts := rfl
@[simp] theorem State.write_slots (k n : Nat) (v : Word) : (s.write k n v).slots = s.slots := rfl
@[simp] theorem State.write_tcbLaunch (k n : Nat) (v : Word) : (s.write k n v).tcbLaunch = s.tcbLaunch := rfl
@[simp] theorem State.write_tcbStamp (k n : Nat) (v : Word) : (s.write k n v).tcbStamp = s.tcbStamp := rfl
@[simp] theorem State.write_injects (k n : Nat) (v : Word) : (s.write k n v).injects = s.injects := rfl
@[simp] theorem State.write_origins (k n : Nat) (v : Word) : (s.write k n v).origins = s.origins := rfl
@[simp] theorem State.write_msgs (k n : Nat) (v : Word) : (s.write k n v).msgs = s.msgs := rfl
@[simp] theorem State.write_tgen (k n : Nat) (v : Word) : (s.write k n v).tgen = s.tgen := rfl
@[simp] theorem State.write_blob (k n : Nat) (v : Word) : (s.write k n v).blob = s.blob := rfl
@[simp] theorem State.write_kiosk (k n : Nat) (v : Word) : (s.write k n v).kiosk = s.kiosk := rfl
@[simp] theorem State.write_host (k n : Nat) (v : Word) : (s.write k n v).host = s.host := rfl
@[simp] theorem State.write_links (k n : Nat) (v : Word) : (s.write k n v).links = s.links := rfl
@[simp] theorem State.write_ns (k n : Nat) (v : Word) : (s.write k n v).ns = s.ns := rfl
@[simp] theorem State.write_cycles (k n : Nat) (v : Word) : (s.write k n v).cycles = s.cycles := rfl
@[simp] theorem State.write_tick (k n : Nat) (v : Word) : (s.write k n v).tick = s.tick := rfl
@[simp] theorem State.write_free (k n : Nat) (v : Word) : (s.write k n v).free = s.free := rfl
@[simp] theorem State.write_cur (k n : Nat) (v : Word) : (s.write k n v).cur = s.cur := rfl
@[simp] theorem State.write_turns (k n : Nat) (v : Word) : (s.write k n v).turns = s.turns := rfl

/-! ## setTag -/

@[simp] theorem State.setTag_mem (k : Nat) (t : BitVec 2) : (s.setTag k t).mem = s.mem := rfl
@[simp] theorem State.setTag_poison (k : Nat) (t : BitVec 2) : (s.setTag k t).poison = s.poison := rfl
@[simp] theorem State.setTag_parked (k : Nat) (t : BitVec 2) : (s.setTag k t).parked = s.parked := rfl
@[simp] theorem State.setTag_cores (k : Nat) (t : BitVec 2) : (s.setTag k t).cores = s.cores := rfl
@[simp] theorem State.setTag_clusters (k : Nat) (t : BitVec 2) : (s.setTag k t).clusters = s.clusters := rfl
@[simp] theorem State.setTag_routers (k : Nat) (t : BitVec 2) : (s.setTag k t).routers = s.routers := rfl
@[simp] theorem State.setTag_dies (k : Nat) (t : BitVec 2) : (s.setTag k t).dies = s.dies := rfl
@[simp] theorem State.setTag_stackEngines (k : Nat) (t : BitVec 2) : (s.setTag k t).stackEngines = s.stackEngines := rfl
@[simp] theorem State.setTag_parts (k : Nat) (t : BitVec 2) : (s.setTag k t).parts = s.parts := rfl
@[simp] theorem State.setTag_launches (k : Nat) (t : BitVec 2) : (s.setTag k t).launches = s.launches := rfl
@[simp] theorem State.setTag_nextKey (k : Nat) (t : BitVec 2) : (s.setTag k t).nextKey = s.nextKey := rfl
@[simp] theorem State.setTag_stages (k : Nat) (t : BitVec 2) : (s.setTag k t).stages = s.stages := rfl
@[simp] theorem State.setTag_puts (k : Nat) (t : BitVec 2) : (s.setTag k t).puts = s.puts := rfl
@[simp] theorem State.setTag_slots (k : Nat) (t : BitVec 2) : (s.setTag k t).slots = s.slots := rfl
@[simp] theorem State.setTag_tcbLaunch (k : Nat) (t : BitVec 2) : (s.setTag k t).tcbLaunch = s.tcbLaunch := rfl
@[simp] theorem State.setTag_tcbStamp (k : Nat) (t : BitVec 2) : (s.setTag k t).tcbStamp = s.tcbStamp := rfl
@[simp] theorem State.setTag_injects (k : Nat) (t : BitVec 2) : (s.setTag k t).injects = s.injects := rfl
@[simp] theorem State.setTag_origins (k : Nat) (t : BitVec 2) : (s.setTag k t).origins = s.origins := rfl
@[simp] theorem State.setTag_msgs (k : Nat) (t : BitVec 2) : (s.setTag k t).msgs = s.msgs := rfl
@[simp] theorem State.setTag_tgen (k : Nat) (t : BitVec 2) : (s.setTag k t).tgen = s.tgen := rfl
@[simp] theorem State.setTag_blob (k : Nat) (t : BitVec 2) : (s.setTag k t).blob = s.blob := rfl
@[simp] theorem State.setTag_kiosk (k : Nat) (t : BitVec 2) : (s.setTag k t).kiosk = s.kiosk := rfl
@[simp] theorem State.setTag_host (k : Nat) (t : BitVec 2) : (s.setTag k t).host = s.host := rfl
@[simp] theorem State.setTag_links (k : Nat) (t : BitVec 2) : (s.setTag k t).links = s.links := rfl
@[simp] theorem State.setTag_ns (k : Nat) (t : BitVec 2) : (s.setTag k t).ns = s.ns := rfl
@[simp] theorem State.setTag_cycles (k : Nat) (t : BitVec 2) : (s.setTag k t).cycles = s.cycles := rfl
@[simp] theorem State.setTag_tick (k : Nat) (t : BitVec 2) : (s.setTag k t).tick = s.tick := rfl
@[simp] theorem State.setTag_free (k : Nat) (t : BitVec 2) : (s.setTag k t).free = s.free := rfl
@[simp] theorem State.setTag_cur (k : Nat) (t : BitVec 2) : (s.setTag k t).cur = s.cur := rfl
@[simp] theorem State.setTag_turns (k : Nat) (t : BitVec 2) : (s.setTag k t).turns = s.turns := rfl

/-! ## setPoison -/

@[simp] theorem State.setPoison_mem (k : Nat) (b : Bool) : (s.setPoison k b).mem = s.mem := rfl
@[simp] theorem State.setPoison_tags (k : Nat) (b : Bool) : (s.setPoison k b).tags = s.tags := rfl
@[simp] theorem State.setPoison_parked (k : Nat) (b : Bool) : (s.setPoison k b).parked = s.parked := rfl
@[simp] theorem State.setPoison_cores (k : Nat) (b : Bool) : (s.setPoison k b).cores = s.cores := rfl
@[simp] theorem State.setPoison_clusters (k : Nat) (b : Bool) : (s.setPoison k b).clusters = s.clusters := rfl
@[simp] theorem State.setPoison_routers (k : Nat) (b : Bool) : (s.setPoison k b).routers = s.routers := rfl
@[simp] theorem State.setPoison_dies (k : Nat) (b : Bool) : (s.setPoison k b).dies = s.dies := rfl
@[simp] theorem State.setPoison_stackEngines (k : Nat) (b : Bool) : (s.setPoison k b).stackEngines = s.stackEngines := rfl
@[simp] theorem State.setPoison_parts (k : Nat) (b : Bool) : (s.setPoison k b).parts = s.parts := rfl
@[simp] theorem State.setPoison_launches (k : Nat) (b : Bool) : (s.setPoison k b).launches = s.launches := rfl
@[simp] theorem State.setPoison_nextKey (k : Nat) (b : Bool) : (s.setPoison k b).nextKey = s.nextKey := rfl
@[simp] theorem State.setPoison_stages (k : Nat) (b : Bool) : (s.setPoison k b).stages = s.stages := rfl
@[simp] theorem State.setPoison_puts (k : Nat) (b : Bool) : (s.setPoison k b).puts = s.puts := rfl
@[simp] theorem State.setPoison_slots (k : Nat) (b : Bool) : (s.setPoison k b).slots = s.slots := rfl
@[simp] theorem State.setPoison_tcbLaunch (k : Nat) (b : Bool) : (s.setPoison k b).tcbLaunch = s.tcbLaunch := rfl
@[simp] theorem State.setPoison_tcbStamp (k : Nat) (b : Bool) : (s.setPoison k b).tcbStamp = s.tcbStamp := rfl
@[simp] theorem State.setPoison_injects (k : Nat) (b : Bool) : (s.setPoison k b).injects = s.injects := rfl
@[simp] theorem State.setPoison_origins (k : Nat) (b : Bool) : (s.setPoison k b).origins = s.origins := rfl
@[simp] theorem State.setPoison_msgs (k : Nat) (b : Bool) : (s.setPoison k b).msgs = s.msgs := rfl
@[simp] theorem State.setPoison_tgen (k : Nat) (b : Bool) : (s.setPoison k b).tgen = s.tgen := rfl
@[simp] theorem State.setPoison_blob (k : Nat) (b : Bool) : (s.setPoison k b).blob = s.blob := rfl
@[simp] theorem State.setPoison_kiosk (k : Nat) (b : Bool) : (s.setPoison k b).kiosk = s.kiosk := rfl
@[simp] theorem State.setPoison_host (k : Nat) (b : Bool) : (s.setPoison k b).host = s.host := rfl
@[simp] theorem State.setPoison_links (k : Nat) (b : Bool) : (s.setPoison k b).links = s.links := rfl
@[simp] theorem State.setPoison_ns (k : Nat) (b : Bool) : (s.setPoison k b).ns = s.ns := rfl
@[simp] theorem State.setPoison_cycles (k : Nat) (b : Bool) : (s.setPoison k b).cycles = s.cycles := rfl
@[simp] theorem State.setPoison_tick (k : Nat) (b : Bool) : (s.setPoison k b).tick = s.tick := rfl
@[simp] theorem State.setPoison_free (k : Nat) (b : Bool) : (s.setPoison k b).free = s.free := rfl
@[simp] theorem State.setPoison_cur (k : Nat) (b : Bool) : (s.setPoison k b).cur = s.cur := rfl
@[simp] theorem State.setPoison_turns (k : Nat) (b : Bool) : (s.setPoison k b).turns = s.turns := rfl

/-! ## Parts -/

theorem State.core_updCore (c j : Nat) (f : Core → Core) :
    (s.updCore c f).core j = if j = c then f (s.core c) else s.core j := by
  simp [State.updCore, State.setCore, State.core, SMap.get_put]

@[simp] theorem State.core_updCore_same (c : Nat) (f : Core → Core) : (s.updCore c f).core c = f (s.core c) := by
  simp [State.core_updCore]

@[simp] theorem State.me_updMe (f : Core → Core) : (s.updMe f).me = f s.me := by
  simp [State.updMe, State.me]

theorem State.core_updMe (j : Nat) (f : Core → Core) : (s.updMe f).core j = if j = s.cur then f s.me else s.core j := by
  simp [State.updMe, State.core_updCore, State.me]

@[simp] theorem State.me_updCtx (f : Ctx → Ctx) : (s.updCtx f).me = { s.me with ctx := f s.me.ctx } := by
  simp [State.updCtx]

@[simp] theorem State.ctx_updCtx (f : Ctx → Ctx) : (s.updCtx f).ctx = f s.ctx := by
  simp [State.updCtx, State.ctx]

@[simp] theorem State.ctx_updMe (f : Core → Core) : (s.updMe f).ctx = (f s.me).ctx := by
  simp [State.ctx]

@[simp] theorem State.updMe_updMe (f g : Core → Core) : (s.updMe f).updMe g = s.updMe fun k => g (f k) := by
  simp [State.updMe, State.updCore, State.setCore, State.core]

@[simp] theorem State.me_updCluster (c : Nat) (f : Cluster → Cluster) : (s.updCluster c f).me = s.me := rfl
@[simp] theorem State.core_updCluster (c j : Nat) (f : Cluster → Cluster) : (s.updCluster c f).core j = s.core j := rfl
@[simp] theorem State.ctx_updCluster (c : Nat) (f : Cluster → Cluster) : (s.updCluster c f).ctx = s.ctx := rfl
@[simp] theorem State.me_write (k n : Nat) (v : Word) : (s.write k n v).me = s.me := rfl
@[simp] theorem State.core_write (k n j : Nat) (v : Word) : (s.write k n v).core j = s.core j := rfl
@[simp] theorem State.me_setTag (k : Nat) (t : BitVec 2) : (s.setTag k t).me = s.me := rfl
@[simp] theorem State.core_setTag (k j : Nat) (t : BitVec 2) : (s.setTag k t).core j = s.core j := rfl
@[simp] theorem State.cluster_updMe (j : Nat) (f : Core → Core) : (s.updMe f).cluster j = s.cluster j := rfl
@[simp] theorem State.cluster_updCore (c j : Nat) (f : Core → Core) : (s.updCore c f).cluster j = s.cluster j := rfl

theorem State.cluster_updCluster (c j : Nat) (f : Cluster → Cluster) :
    (s.updCluster c f).cluster j = if j = c then f (s.cluster c) else s.cluster j := by
  simp [State.updCluster, State.cluster, SMap.get_put]

theorem State.die_updDie (d j : Nat) (f : Die → Die) :
    (s.updDie d f).die j = if j = d then f (s.die d) else s.die j := by
  simp [State.updDie, State.die, SMap.get_put]

theorem State.stack_updStack (n j : Nat) (f : Stack → Stack) :
    (s.updStack n f).stack j = if j = n then f (s.stack n) else s.stack j := by
  simp [State.updStack, State.stack, SMap.get_put]

theorem State.router_updRouter (c j : Nat) (f : Router → Router) :
    (s.updRouter c f).router j = if j = c then f (s.router c) else s.router j := by
  simp [State.updRouter, State.router, SMap.get_put]

end Sys2Proof.Machine
end

