-- ==== Sys2Proof/Laws/Memory.lean ====
section
/-! SUPPORT. Memory: every operation on bytes, tags and poison keeps the canonical form; what reading after writing gives. -/

namespace Sys2Proof.Machine

theorem wf_writeByte {m : Memory} (h : Memory.wf m = true) (a : Nat) (b : Byte) : Memory.wf (writeByte m a b) = true :=
  SMap.wf_set h a b

theorem wf_writeBytes {m : Memory} (h : Memory.wf m = true) (a n v : Nat) : Memory.wf (writeBytes m a n v) = true := by
  induction n generalizing m a v with
  | zero => exact h
  | succ n ih => exact ih (wf_writeByte h a _) (a + 1) (v / 256)

theorem wf_filter {m : Memory} (h : Memory.wf m = true) (p : Host.Cell → Bool) : Memory.wf (m.filter p) = true :=
  SMap.wf_filter h p

theorem readByte_writeByte {m : Memory} (h : Memory.wf m = true) (a x : Nat) (b : Byte) :
    readByte (writeByte m a b) x = if x = a then b else readByte m x := SMap.get_set h a x b

/-- One byte read after bytes are written. -/
theorem readByte_writeBytes {m : Memory} (h : Memory.wf m = true) (a n v x : Nat) :
    readByte (writeBytes m a n v) x =
      if a ≤ x ∧ x < a + n then BitVec.ofNat 8 (v / 256 ^ (x - a)) else readByte m x := by
  induction n generalizing m a v with
  | zero => simp only [writeBytes]; rw [if_neg (by omega)]
  | succ n ih =>
    simp only [writeBytes]
    rw [ih (wf_writeByte h a _), readByte_writeByte h]
    by_cases hx : x = a
    · subst hx; rw [if_neg (by omega), if_pos rfl, if_pos (by omega)]; simp
    · by_cases h1 : a + 1 ≤ x ∧ x < a + 1 + n
      · rw [if_pos h1, if_pos (by omega)]
        have : x - a = (x - (a + 1)) + 1 := by omega
        rw [this, Nat.pow_succ, Nat.mul_comm, Nat.div_div_eq_div_mul]
      · rw [if_neg h1, if_neg hx, if_neg (by omega)]

theorem readBytes_congr {m m' : Memory} (a n : Nat) (h : ∀ x, a ≤ x → x < a + n → readByte m' x = readByte m x) :
    readBytes m' a n = readBytes m a n := by
  induction n generalizing a with
  | zero => rfl
  | succ n ih =>
    simp only [readBytes]
    rw [h a (by omega) (by omega), ih (a + 1) (fun x h1 h2 => h x (by omega) (by omega))]

/-- Bytes outside those written read as before. -/
theorem readBytes_writeBytes_other {m : Memory} (h : Memory.wf m = true) (a n v x k : Nat) (hd : x + k ≤ a ∨ a + n ≤ x) :
    readBytes (writeBytes m a n v) x k = readBytes m x k :=
  readBytes_congr x k fun y h1 h2 => by rw [readByte_writeBytes h, if_neg (by omega)]

/-- Bytes read back from where they were written. -/
theorem readBytes_writeBytes {m : Memory} (h : Memory.wf m = true) (a n v : Nat) :
    readBytes (writeBytes m a n v) a n = v % 256 ^ n := by
  induction n generalizing m a v with
  | zero => simp [readBytes, Nat.mod_one]
  | succ n ih =>
    simp only [readBytes, writeBytes]
    rw [ih (wf_writeByte h a _)]
    rw [readByte_writeBytes (wf_writeByte h a _), if_neg (by omega), readByte_writeByte h, if_pos rfl]
    have e : 256 ^ (n + 1) = 256 * 256 ^ n := by rw [Nat.pow_succ, Nat.mul_comm]
    rw [BitVec.toNat_ofNat, e, Nat.mod_mul]

/-! ## The state -/

theorem State.wf_write {s : State} (h : Memory.wf s.mem = true) (k n : Nat) (v : Word) : Memory.wf (s.write k n v).mem = true :=
  wf_writeBytes h k n v.toNat

theorem State.wf_setTag {s : State} (h : SMap.wf tagEmpty s.tags = true) (k : Nat) (t : BitVec 2) :
    SMap.wf tagEmpty (s.setTag k t).tags = true := SMap.wf_set h _ t

theorem State.wf_setPoison {s : State} (h : SMap.wf false s.poison = true) (k : Nat) (b : Bool) :
    SMap.wf false (s.setPoison k b).poison = true := SMap.wf_set h _ b

/-- A word written by the device reads back. -/
theorem State.word_write {s : State} (h : Memory.wf s.mem = true) (k : Nat) (v : Word) (hk : k % 8 = 0) :
    (s.write k 8 v).word k = v := by
  have e : k / 8 * 8 = k := by omega
  simp only [State.word, State.write, e]
  rw [readBytes_writeBytes h]
  have : v.toNat % 256 ^ 8 = v.toNat := Nat.mod_eq_of_lt v.isLt
  rw [this, BitVec.ofNat_toNat, BitVec.setWidth_eq]

theorem State.tagAt_setTag {s : State} (h : SMap.wf tagEmpty s.tags = true) (k x : Nat) (t : BitVec 2) :
    (s.setTag k t).tagAt x = if x / 8 = k / 8 then t else s.tagAt x := by
  simp only [State.tagAt, State.setTag, SMap.get_set h]
  by_cases e : x / 8 = k / 8
  · rw [if_pos (by omega), if_pos e]
  · rw [if_neg (by omega), if_neg e]

end Sys2Proof.Machine
end

