-- ==== Sys2Proof/Laws/Run.lean ====
section
/-! SUPPORT. How an instruction's effect runs: the steps of its body one by one, its retirement, and its answer. -/

namespace Sys2Proof.Machine

variable {α β : Type} {s s1 s2 : State}

/-! ## Bodies, step by step -/

theorem CM.bind_ok {x : CM α} {f : α → CM β} {a : α} (h : x s = .ok (a, s1)) : (x >>= f) s = f a s1 := by
  simp [bind, StateT.bind, Except.bind, h]

theorem CM.bind_error {x : CM α} {f : α → CM β} {e : Stop} (h : x s = .error e) : (x >>= f) s = .error e := by
  simp [bind, StateT.bind, Except.bind, h]

theorem CM.bind_run (x : CM α) (f : α → CM β) (s : State) :
    (x >>= f) s = match x s with
      | .ok (a, s1) => f a s1
      | .error e => .error e := by
  cases h : x s with
  | ok p => exact CM.bind_ok h
  | error e => exact CM.bind_error h

@[simp] theorem CM.pure_run (a : α) : (pure a : CM α) s = .ok (a, s) := rfl
@[simp] theorem CM.get_run : (get : CM State) s = .ok (s, s) := rfl
@[simp] theorem CM.set_run : (set s1 : CM PUnit) s = .ok (⟨⟩, s1) := rfl
@[simp] theorem CM.modify_run (f : State → State) : (modify f : CM PUnit) s = .ok (⟨⟩, f s) := rfl
@[simp] theorem modMe_run (f : Core → Core) : modMe f s = .ok ((), s.updMe f) := rfl
@[simp] theorem modCtx_run (f : Ctx → Ctx) : modCtx f s = .ok ((), s.updCtx f) := rfl
@[simp] theorem ctx_run : ctx s = .ok (s.ctx, s) := rfl
@[simp] theorem raise_run (c : Cause) (a i : Word) : (raise c a i : CM α) s = .error (.trap (causeOf c a i) .nothing) := rfl
@[simp] theorem require_true (c : Cause) (a i : Word) : require true c a i = pure () := rfl
@[simp] theorem require_false (c : Cause) (a i : Word) : require false c a i = raise c a i := rfl
@[simp] theorem wr_run (d : Dst) (v : Word) : wr d v s = .ok ((), s.deliver d v) := rfl
@[simp] theorem wrPair_run (d : Dst) (lo hi : Word) : wrPair d lo hi s = .ok ((), s.deliverPair d lo hi) := rfl
@[simp] theorem popPorts_run (us : List Use) : popPorts us s = .ok ((), s.popped us) := rfl

theorem wrPending_run (d : Dst) (id : Nat) : wrPending d id s = .ok ((), s.awaiting d id) := by
  cases d <;> rfl

theorem issue_run (op : AccOp) (va : Word) (x : Xlated) (l st a f : Bool) :
    issue op va x l st a f s = .ok (s.me.nextId, s.issuing op va x l st a f) := rfl

/-! ## Retirement -/

/-- What a core's own record of misses does not touch. -/
@[simp] theorem State.cur_clearMisses : s.clearMisses.cur = s.cur := by
  simp only [State.clearMisses]; split <;> rfl

@[simp] theorem State.cores_clearMisses : s.clearMisses.cores = s.cores := by
  simp only [State.clearMisses]; split <;> rfl

@[simp] theorem State.me_clearMisses : s.clearMisses.me = s.me := by
  simp [State.me, State.core]

@[simp] theorem State.ctx_clearMisses : s.clearMisses.ctx = s.ctx := by
  simp [State.ctx]

theorem retireWith_run (n : Nat → Nat) (h : s.mayRetire = true) : retireWith n s = .ok ((), s.counted n) := by
  simp only [State.mayRetire, Bool.or_eq_true, bne_iff_ne, ne_eq] at h
  unfold retireWith
  rw [CM.bind_ok CM.get_run]
  cases hi : s.me.inl with
  | none =>
    have hy : s.ctx.ycnt ≠ 0 := by
      rcases h with h | h
      · rw [hi] at h; cases h
      · exact h
    simp only [Option.isNone_none, if_true, hy, if_false, CM.bind_run, modMe_run, CM.modify_run]
    have : (Core.counts n) s.me = { s.me with retired := s.me.retired + 1, wait := none, inlHold := false, ctx := { s.me.ctx with ycnt := n s.ctx.ycnt, latch := none } } := by
      simp [Core.counts, hi, State.ctx]
    simp [State.counted, State.updMe, State.updCore, State.me] at this ⊢
    simp [this]
  | some i =>
    simp only [Option.isNone_some, Bool.false_eq_true, if_false, CM.bind_run, modMe_run, CM.modify_run]
    have : (Core.counts n) s.me = { s.me with retired := s.me.retired + 1, wait := none, ctx := { s.me.ctx with latch := none } } := by
      simp [Core.counts, hi]
    simp [State.counted, State.updMe, State.updCore, State.me] at this ⊢
    simp [this]

theorem retire_run (h : s.mayRetire = true) : retire s = .ok ((), s.retired) := by
  unfold retire
  rw [CM.bind_ok (retireWith_run _ h)]
  rfl

/-- An instruction whose body ends in a state that may retire answers that state, retired. -/
theorem run_ok {d : DestSpec} {body : CM Unit} (hb : body s = .ok ((), s1)) (h : s1.mayRetire = true) :
    run d body s = .next s1.retired := by
  simp only [run, runBody, attempt]
  rw [CM.bind_ok hb, retire_run h]

theorem runSelf_ok {d : DestSpec} {body : CM Unit} (hb : body s = .ok ((), s1)) : runSelf d body s = .next s1 := by
  simp only [runSelf, runBody, attempt, hb]

/-- An instruction whose body waits, or ends in a state of its own, answers that state. -/
theorem run_leave {d : DestSpec} {body : CM Unit} (hb : body s = .error (.leave s1)) : run d body s = .next s1 := by
  simp only [run, runBody, attempt]
  rw [CM.bind_error hb]

/-- An instruction that raises a precise cause which is not ignored takes it in the state in which it began. -/
theorem run_trap {d : DestSpec} {body : CM Unit} {c : CauseRec} (hb : body s = .error (.trap c .nothing))
    (hc : c.cause ≠ .yieldOverrun) (h : (s.take c).2 = false) : run d body s = .next (s.take c).1 := by
  simp only [run, runBody, attempt]
  rw [CM.bind_error hb]
  simp only [State.drop, if_neg hc]
  cases ht : s.take c with
  | mk t b => rw [ht] at h; simp only at h; subst h; rfl

end Sys2Proof.Machine
end

