-- ==== Sys2Proof/Laws/Operands.lean ====
section
/-! SUPPORT. What reading the operands of an instruction does, once for every instruction: if they stand ready, their
words are answered and they are taken; the usual shapes of an instruction answer their results. -/

namespace Sys2Proof.Machine

variable {s s1 : State} {us : List Use} {d : DestSpec}

/-! ## Checks -/

theorem firstCause_none {l : List (Option (Cause × Nat))} (h : ∀ x ∈ l, x = none) : firstCause l = pure () := by
  induction l with
  | nil => rfl
  | cons x xs ih =>
    rw [h x (by simp)]
    exact ih fun y hy => h y (by simp [hy])

theorem checks_run (hb : us.any Use.bad = false ∧ d.bad = false) (ho : (∀ u ∈ us, u.odd = none) ∧ d.odd = none)
    (hu : ∀ u ∈ us, u.unread s.ctx = none) : checks us d s = .ok ((), s) := by
  unfold checks
  rw [CM.bind_ok ctx_run, hb.1, hb.2]
  have h1 : firstCause ((us.map Use.odd ++ [d.odd]).map fun o => o.map fun n => (Cause.pairAlign, n)) = pure () := by
    apply firstCause_none
    simp only [List.mem_map, List.mem_append, List.mem_singleton]
    rintro x ⟨o, ⟨u, hm, rfl⟩ | rfl, rfl⟩
    · rw [ho.1 u hm]; rfl
    · rw [ho.2]; rfl
  have h2 : firstCause (us.map (Use.unread s.ctx)) = pure () := by
    apply firstCause_none
    simp only [List.mem_map]
    rintro x ⟨u, hm, rfl⟩
    exact hu u hm
  rw [h1, h2]
  rfl

/-! ## Wakes and fills -/

@[simp] theorem State.updCtx_updCtx (f g : Ctx → Ctx) : (s.updCtx f).updCtx g = s.updCtx fun c => g (f c) := by
  simp only [State.updCtx, State.updMe, State.updCore, State.setCore, State.core, SMap.get_put_same, SMap.put_put]

/-- What wakes and fills leave of a state: all but the context of the running code, and of that all but its registers,
its gate and its record of a bank that was off. -/
structure State.OnlyBanks (s t : State) : Prop where
  rest : { t with cores := s.cores } = s
  others : ∀ c, c ≠ s.cur → t.core c = s.core c
  mine : t.me = { s.me with ctx := t.ctx }
  context : { t.ctx with regs := s.ctx.regs, gate := s.ctx.gate, bankLost := s.ctx.bankLost, gateloss := s.ctx.gateloss } = s.ctx

theorem State.OnlyBanks.refl (s : State) : s.OnlyBanks s := ⟨rfl, fun _ _ => rfl, rfl, rfl⟩

theorem State.OnlyBanks.cur {t : State} (h : s.OnlyBanks t) : t.cur = s.cur := by
  have := congrArg State.cur h.rest; exact this

theorem State.OnlyBanks.trans {t u : State} (h : s.OnlyBanks t) (g : t.OnlyBanks u) : s.OnlyBanks u where
  rest := by
    have h1 := h.rest
    have g1 := g.rest
    rw [← g1] at h1
    exact h1
  others c hc := by rw [g.others c (by rw [h.cur]; exact hc), h.others c hc]
  mine := by rw [g.mine, h.mine]
  context := by
    have h1 := h.context
    have g1 := g.context
    rw [← g1] at h1
    exact h1

theorem State.OnlyBanks.updCtx {f : Ctx → Ctx}
    (hf : ∀ c, { f c with regs := c.regs, gate := c.gate, bankLost := c.bankLost, gateloss := c.gateloss } = c) :
    s.OnlyBanks (s.updCtx f) where
  rest := rfl
  others c hc := by simp [State.updCtx, State.updMe, State.core_updCore, hc]
  mine := by simp [State.ctx]
  context := by simpa using hf s.ctx

theorem Ctx.wake_rest (c : Ctx) :
    { c.wake with regs := c.regs, gate := c.gate, bankLost := c.bankLost, gateloss := c.gateloss } = c := by
  unfold Ctx.wake
  split
  · rfl
  · split <;> rfl

theorem State.fillOne_banks (s : State) (n : Nat) : s.OnlyBanks (s.fillOne n) := by
  unfold State.fillOne
  split
  · exact .updCtx fun _ => rfl
  · exact .refl s

theorem State.fillAll_banks (ns : List Nat) (s : State) : s.OnlyBanks (ns.foldl State.fillOne s) := by
  induction ns generalizing s with
  | nil => exact .refl s
  | cons n ns ih => exact (s.fillOne_banks n).trans (ih _)

theorem State.readied_banks (s : State) (us : List Use) (d : DestSpec) : s.OnlyBanks (s.readied us d) := by
  unfold State.readied
  split
  · exact State.OnlyBanks.trans (.updCtx Ctx.wake_rest) (State.fillAll_banks _ _)
  · exact State.fillAll_banks _ _

theorem State.OnlyBanks.savedReg {t : State} (h : s.OnlyBanks t) (c n : Nat) : t.savedReg c n = s.savedReg c n := by
  have hm := congrArg State.mem h.rest
  have ht := congrArg State.tags h.rest
  have hw : ∀ a, t.word a = s.word a := fun a => congrArg (fun m => BitVec.ofNat 64 (readBytes m (a / 8 * 8) 8)) hm
  have hg : ∀ a, t.tagAt a = s.tagAt a := fun a => congrArg (fun m => SMap.get tagEmpty m (a / 8 * 8)) ht
  simp only [State.savedReg, hg, hw]

theorem Ctx.wake_cond (c : Ctx) (n : Nat) : (vget Reg.reset c.wake.regs n).cond = (vget Reg.reset c.regs n).cond := by
  unfold Ctx.wake
  split
  · rfl
  · split
    · simp only [vget]
      by_cases hn : n < 16
      · simp [hn]
        split <;> rfl
      · simp [hn]
    · rfl

theorem State.fillOne_cond (s : State) (m n : Nat) (h : (vget Reg.reset (s.fillOne m).ctx.regs n).cond = .absent) :
    (vget Reg.reset s.ctx.regs n).cond = .absent := by
  unfold State.fillOne at h
  split at h
  · rename_i hm
    simp only [State.ctx_updCtx] at h
    by_cases hlt : m < 16
    · rw [vget_vset _ _ _ _ _ hlt] at h
      split at h
      · cases h
      · exact h
    · rw [vset_beyond _ _ _ hlt] at h
      exact h
  · exact h

theorem fillRegs_run (ns : List Nat) (s : State)
    (h : ∀ n ∈ ns, (vget Reg.reset s.ctx.regs n).cond = .absent → (s.savedReg s.cur n).isSome = true) :
    fillRegs ns s = .ok ((), ns.foldl State.fillOne s) := by
  induction ns generalizing s with
  | nil => rfl
  | cons n ns ih =>
    have hb := s.fillOne_banks n
    have hr : fillRegs ns (s.fillOne n) = .ok ((), ns.foldl State.fillOne (s.fillOne n)) := by
      apply ih
      intro m hm hc
      rw [hb.savedReg, hb.cur]
      exact h m (by simp [hm]) (s.fillOne_cond _ _ hc)
    unfold fillRegs
    rw [CM.bind_ok ctx_run]
    unfold State.fillOne at hr ⊢
    by_cases hc : (vget Reg.reset s.ctx.regs n).cond = .absent
    · have hs := h n (by simp) hc
      obtain ⟨v, hv⟩ := Option.isSome_iff_exists.mp hs
      simp only [hc, if_true, hv, Option.getD_some, List.foldl_cons] at hr ⊢
      simp only [CM.bind_run, CM.get_run, hv, modCtx_run]
      exact hr
    · simp only [hc, if_false, List.foldl_cons] at hr ⊢
      exact hr

/-- The checks pass, and banks wake and registers fill. -/
theorem prepare_run (h : ∀ n ∈ filledRegs us d, (vget Reg.reset s.ctx.regs n).cond = .absent → (s.savedReg s.cur n).isSome = true) :
    prepare us d s = .ok ((), s.readied us d) := by
  unfold prepare State.readied
  by_cases hn : (namedRegs us d).any fun n => decide (8 ≤ n)
  · simp only [namedRegs] at hn
    simp only [namedRegs, hn, if_true, CM.bind_run, modCtx_run]
    apply fillRegs_run
    intro n hm hc
    have hb : s.OnlyBanks (s.updCtx Ctx.wake) := .updCtx Ctx.wake_rest
    rw [hb.savedReg, hb.cur]
    refine h n hm ?_
    simpa [Ctx.wake_cond] using hc
  · simp only [namedRegs] at hn
    simp only [namedRegs, hn]
    exact fillRegs_run _ _ h

/-! ## Waits -/

theorem State.OnlyBanks.pid {t : State} (h : s.OnlyBanks t) (c : Nat) : (t.core c).pid = (s.core c).pid := by
  by_cases hc : c = s.cur
  · subst hc
    have := congrArg Core.pid h.mine
    rw [State.me, h.cur] at this
    exact this
  · rw [h.others c hc]

theorem State.OnlyBanks.portPeer {t : State} (h : s.OnlyBanks t) (p : Port) : t.portPeer t.cur p = s.portPeer s.cur p := by
  have hb := congrArg State.blob h.rest
  have hp := congrArg State.parts h.rest
  simp only at hb hp
  have hi : ∀ a b, t.inPart a b = s.inPart a b := fun a b => by
    simp only [State.inPart, State.coreLive, State.clusterLive, State.part, h.pid, hb, hp]
  simp only [State.portPeer, h.cur, h.pid]
  cases neighbour s.cur p with
  | none => rfl
  | some c => simp [hi]

theorem awaitPorts_run {t : State} (hb : s.OnlyBanks t)
    (hp : ∀ p ∈ portsOf us, (s.portPeer s.cur p).isSome = true ∧ (portsOf us).count p ≤ (s.me.fifo p).length)
    (hd : ∀ p n, d.port? = some (p, n) → ∃ c, s.portPeer s.cur p = some c ∧ ((s.core c).fifo (oppositePort p)).length + n ≤ 8) :
    awaitPorts us d t = .ok ((), t) := by
  have hf : ∀ p, t.me.fifo p = s.me.fifo p := fun p => by rw [hb.mine]; rfl
  unfold awaitPorts
  rw [CM.bind_ok CM.get_run]
  have h1 : ((portsOf us ++ d.port?.toList.map Prod.fst).find? fun p => (t.portPeer t.cur p).isNone) = none := by
    rw [List.find?_eq_none]
    intro p hm
    rw [hb.portPeer]
    rcases List.mem_append.mp hm with hm | hm
    · simpa [Option.isSome_iff_ne_none] using (hp p hm).1
    · obtain ⟨⟨q, n⟩, hq, rfl⟩ := List.mem_map.mp hm
      obtain ⟨c, hc, -⟩ := hd q n (by simpa using hq)
      simp [hc]
  have h2 : ((portsOf us).find? fun p => decide ((t.me.fifo p).length < (portsOf us).count p)) = none := by
    rw [List.find?_eq_none]
    intro p hm
    rw [hf]
    simpa using (hp p hm).2
  simp only [h1, h2]
  cases ho : d.port? with
  | none => rfl
  | some q =>
    obtain ⟨p, n⟩ := q
    obtain ⟨c, hc, hl⟩ := hd p n ho
    have hcc : ((t.core c).fifo (oppositePort p)).length = ((s.core c).fifo (oppositePort p)).length := by
      by_cases hcu : c = s.cur
      · subst hcu
        have := hf (oppositePort p)
        rw [State.me, hb.cur] at this
        rw [this]; rfl
      · rw [hb.others c hcu]
    simp only [Option.toList, hb.portPeer, hc]
    rw [hcc, if_neg (by omega)]
    rfl

/-! ## Operands -/

/-- No deferred cause stands among those that a test selects. -/
theorem raiseDeferred_run {p : Access → Bool} (h : ∀ a ∈ s.me.mine, p a = true → a.failed? = false) :
    raiseDeferred p s = .ok ((), s) := by
  have : (s.me.mine.find? fun a => a.failed? && p a) = none := by
    rw [List.find?_eq_none]
    intro a ha
    cases hp : p a with
    | true => simp [h a ha hp]
    | false => simp
  simp only [raiseDeferred, this]

theorem raisePending_run (h : s.Ready us d) : raisePending us s = .ok ((), s) := by
  unfold raisePending
  rw [CM.bind_ok ctx_run]
  split
  · rfl
  · apply raiseDeferred_run
    intro a ha hp
    obtain ⟨l, hl, hm⟩ := List.mem_flatten.mp (List.contains_iff_mem.mp hp)
    obtain ⟨u, hu, rfl⟩ := List.mem_map.mp hl
    exact h.sound u hu a.id hm a ha rfl

/-- Operands that stand ready are answered; ports are not popped yet. -/
theorem peek_run {fmt : CM Unit} (h : s.Ready us d) (hf : fmt s = .ok ((), s)) :
    peek us d fmt s = .ok ((s.readied us d).me.vals [] us, s.readied us d) := by
  unfold peek
  rw [CM.bind_ok (checks_run h.formed h.even h.live), CM.bind_ok hf, CM.bind_ok (raisePending_run h), CM.bind_ok (prepare_run h.saved), CM.bind_ok ctx_run]
  have hh : (us.map (Use.pends (s.readied us d).ctx)).flatten = [] := by
    rw [List.flatten_eq_nil_iff]
    intro l hl
    obtain ⟨u, hu, rfl⟩ := List.mem_map.mp hl
    exact h.held u hu
  rw [hh]
  have hw : awaitValues [] = pure () := rfl
  rw [hw, CM.bind_ok (CM.pure_run _), CM.bind_ok (awaitPorts_run (s.readied_banks us d) h.ports h.room)]
  rfl

theorem opsFmt_run {fmt : CM Unit} (h : s.Ready us d) (hf : fmt s = .ok ((), s)) :
    opsFmt us d fmt s = .ok ((s.readied us d).me.vals [] us, s.took us d) := by
  unfold opsFmt
  rw [CM.bind_ok (peek_run h hf), CM.bind_ok (popPorts_run us)]
  rfl

theorem ops_run (h : s.Ready us d) : ops us d s = .ok ((s.readied us d).me.vals [] us, s.took us d) := opsFmt_run h rfl

/-- A port never faces its own core. -/
theorem neighbour_ne {core c : Nat} {p : Port} (h : neighbour core p = some c) : c ≠ core := by
  cases p <;> simp only [neighbour] at h <;> (repeat' split at h) <;> cases h <;> omega

theorem State.portPeer_ne {core c : Nat} {p : Port} (h : s.portPeer core p = some c) : c ≠ core := by
  unfold State.portPeer at h
  split at h
  · rename_i x hx
    split at h
    · cases h; exact neighbour_ne hx
    · cases h
  · cases h

/-! ## What stays while operands are taken and results delivered -/

@[simp] theorem Core.setFifo_inl (k : Core) (p : Port) (l : List Word) : (k.setFifo p l).inl = k.inl := by cases p <;> rfl
@[simp] theorem Core.setFifo_ctx (k : Core) (p : Port) (l : List Word) : (k.setFifo p l).ctx = k.ctx := by cases p <;> rfl

theorem foldl_keeps {α β γ : Type} (g : α → γ) (f : α → β → α) (hf : ∀ a b, g (f a b) = g a) (l : List β) (a : α) :
    g (l.foldl f a) = g a := by
  induction l generalizing a with
  | nil => rfl
  | cons b bs ih => rw [List.foldl_cons, ih, hf]

@[simp] theorem State.popped_ctx (s : State) (us : List Use) : (s.popped us).ctx = s.ctx := by
  simp only [State.popped, State.ctx, State.me_updMe]
  exact foldl_keeps Core.ctx _ (fun _ _ => by simp) _ _

@[simp] theorem State.popped_inl (s : State) (us : List Use) : (s.popped us).me.inl = s.me.inl := by
  simp only [State.popped, State.me_updMe]
  exact foldl_keeps Core.inl _ (fun _ _ => by simp) _ _

theorem State.OnlyBanks.inl {t : State} (h : s.OnlyBanks t) : t.me.inl = s.me.inl := by rw [h.mine]

theorem State.OnlyBanks.ycnt {t : State} (h : s.OnlyBanks t) : t.ctx.ycnt = s.ctx.ycnt := by
  have := congrArg Ctx.ycnt h.context
  exact this

/-- May a state retire? Only its inline record and its yield count say so. -/
theorem State.mayRetire_congr {t : State} (hi : t.me.inl = s.me.inl) (hy : t.ctx.ycnt = s.ctx.ycnt) :
    t.mayRetire = s.mayRetire := by
  simp only [State.mayRetire, hi, hy]

@[simp] theorem State.took_mayRetire : (s.took us d).mayRetire = s.mayRetire := by
  apply State.mayRetire_congr
  · simp only [State.took, State.popped_inl, (s.readied_banks us d).inl]
  · simp only [State.took, State.popped_ctx, (s.readied_banks us d).ycnt]

theorem State.updCore_inl (c : Nat) (f : Core → Core) (hf : ∀ k, (f k).inl = k.inl) : (s.updCore c f).me.inl = s.me.inl := by
  simp only [State.me, State.updCore_cur, State.core_updCore]
  split
  · rename_i h; rw [hf, h]
  · rfl

theorem State.updCore_ctx (c : Nat) (f : Core → Core) (hf : ∀ k, (f k).ctx = k.ctx) : (s.updCore c f).ctx = s.ctx := by
  simp only [State.ctx, State.me, State.updCore_cur, State.core_updCore]
  split
  · rename_i h; rw [hf, h]
  · rfl

@[simp] theorem State.send_mayRetire (p : Port) (v : Word) : (s.send p v).mayRetire = s.mayRetire := by
  unfold State.send
  split
  · apply State.mayRetire_congr
    · exact State.updCore_inl _ _ fun _ => by simp
    · rw [State.updCore_ctx _ _ fun _ => by simp]
  · rfl

theorem State.updCtx_mayRetire (f : Ctx → Ctx) (hf : (f s.ctx).ycnt = s.ctx.ycnt) : (s.updCtx f).mayRetire = s.mayRetire := by
  apply State.mayRetire_congr
  · simp
  · simpa using hf

@[simp] theorem State.deliver_mayRetire (d : Dst) (v : Word) : (s.deliver d v).mayRetire = s.mayRetire := by
  cases d with
  | h n => exact State.updCtx_mayRetire _ rfl
  | push => exact State.updCtx_mayRetire _ rfl
  | port p => exact State.send_mayRetire p v
  | bad n => rfl

@[simp] theorem State.deliverPair_mayRetire (d : Dst) (lo hi : Word) : (s.deliverPair d lo hi).mayRetire = s.mayRetire := by
  cases d with
  | h n => exact State.updCtx_mayRetire _ rfl
  | push => exact State.updCtx_mayRetire _ rfl
  | port p => simp only [State.deliverPair, State.send_mayRetire]
  | bad n => rfl

@[simp] theorem State.awaiting_mayRetire (d : Dst) (id : Nat) : (s.awaiting d id).mayRetire = s.mayRetire := by
  cases d with
  | h n => exact State.updCtx_mayRetire _ rfl
  | push => exact State.updCtx_mayRetire _ rfl
  | port p => rfl
  | bad n => rfl

@[simp] theorem State.issuing_mayRetire (op : AccOp) (va : Word) (x : Xlated) (l st a f : Bool) :
    (s.issuing op va x l st a f).mayRetire = s.mayRetire := by
  apply State.mayRetire_congr
  · exact State.updCore_inl _ _ fun _ => rfl
  · exact congrArg Ctx.ycnt (State.updCore_ctx _ _ fun _ => rfl)

/-! ## The usual shapes -/

/-- An instruction that reads its operands, then does the rest of its work, then retires. -/
theorem run_ops {body : List Word → CM Unit} (h : s.Ready us d)
    (hb : body ((s.readied us d).me.vals [] us) (s.took us d) = .ok ((), s1)) (hr : s1.mayRetire = true) :
    run d (do let vs ← ops us d; body vs) s = .next s1.retired :=
  run_ok (by rw [CM.bind_ok (ops_run h), hb]) hr

theorem unary_run {a : Src} {d : Dst} {f : Word → Word} (h : s.Ready [.one a] (.one d)) (hr : s.mayRetire = true) :
    unary a d f s = .next ((s.took [.one a] (.one d)).deliver d (f (s.first [.one a] (.one d)))).retired :=
  run_ops h rfl (by simpa using hr)

theorem binary_run {a b : Src} {d : Dst} {f : Word → Word → Word} (h : s.Ready [.one a, .one b] (.one d))
    (hr : s.mayRetire = true) :
    binary a b d f s = .next ((s.took [.one a, .one b] (.one d)).deliver d
      (f (s.first [.one a, .one b] (.one d)) (s.second [.one a, .one b] (.one d)))).retired :=
  run_ops h rfl (by simpa using hr)

theorem ternary_run {a b c : Src} {d : Dst} {f : Word → Word → Word → Word} (h : s.Ready [.one a, .one b, .one c] (.one d))
    (hr : s.mayRetire = true) :
    ternary a b c d f s = .next ((s.took [.one a, .one b, .one c] (.one d)).deliver d
      (f (s.first [.one a, .one b, .one c] (.one d)) (s.second [.one a, .one b, .one c] (.one d))
        (s.third [.one a, .one b, .one c] (.one d)))).retired :=
  run_ops h rfl (by simpa using hr)

end Sys2Proof.Machine
end

