-- ==== Sys2Proof/Laws/Access.lean ====
section
/-! SUPPORT. What checking, issuing and answering accesses does, once for every memory instruction. -/

namespace Sys2Proof.Machine

variable {s s1 s2 : State} {us : List Use} {d : Dst}

/-! ## Checks -/

theorem aligned_run {va : Word} {n : Nat} (h : va.toNat % n = 0) : aligned va n = pure () := by
  simp [aligned, h]

theorem xlate_run {va : Word} {n : Nat} {g : Right} {x : Xlated} (h : s.accepts va n g x) : xlate va g s = .ok (x, s) := by
  obtain ⟨-, hi, ht⟩ := h
  unfold xlate
  rw [CM.bind_ok CM.get_run]
  cases hin : s.me.inl with
  | none =>
    simp only [ht]
    rfl
  | some i =>
    have : isAliasRegion va.toNat = true := hi (by simp [hin])
    simp only [this, Bool.not_true, Bool.false_eq_true, if_false, ht]
    rfl

theorem checked_run {va : Word} {n : Nat} {g : Right} {x : Xlated} (h : s.accepts va n g x) :
    checked va n g s = .ok (x, s) := by
  unfold checked
  rw [aligned_run h.1, CM.bind_ok (CM.pure_run _), xlate_run h]

theorem needRoom_run {pls : List Place} (h : s.takes pls) : needRoom pls s = .ok ((), s) := by
  unfold needRoom
  rw [CM.bind_ok CM.get_run]
  have : ¬(0 < (pls.filter fun p => !bypasses s.cur p).length ∧
      32 < s.me.ringCount + (pls.filter fun p => !bypasses s.cur p).length) := by
    rcases h with h | h <;> omega
  simp only [this, if_false]
  rfl

theorem budget_run {ws : List (Word × Place × Nat)} (h : s.spendAll (clusterOf s.cur) ws = .ok s1) :
    budget ws s = .ok ((), s1) := by
  simp only [budget, meter]
  rw [CM.bind_ok CM.get_run]
  simp only [h]
  rfl

/-! ## Issue -/

theorem Core.injected_none {k : Core} (h : ∀ x, k.act = some x → x.inject = false) (id : Nat) (va : Word) :
    k.injected id va = k := by
  unfold Core.injected
  split
  · rename_i a ha; simp [h a ha]
  · rfl

theorem State.updMe_same {f : Core → Core} (h : f (s.updMe f).me = (s.updMe f).me) :
    (s.updMe f).updMe f = s.updMe f := by
  simp only [State.updMe, State.updCore, State.setCore, State.core, SMap.get_put_same, SMap.put_put] at h ⊢
  simp only [State.me, State.core, SMap.get_put_same] at h
  rw [h]

theorem State.issuing_uninjected (h : s.uninjected) (op : AccOp) (va : Word) (x : Xlated) (l st a f : Bool) :
    (s.issuing op va x l st a f).uninjected := by
  intro y hy
  exact h y (by simpa [State.issuing] using hy)

theorem State.updMe_injected {t : State} (h : t.uninjected) (ht : ∃ f, t = s.updMe f) (id : Nat) (va : Word) :
    t.updMe (fun k => k.injected id va) = t := by
  obtain ⟨f, rfl⟩ := ht
  have hk := Core.injected_none h id va
  simp only [State.updMe, State.updCore, State.setCore, State.core, SMap.get_put_same, SMap.put_put] at hk ⊢
  simp only [State.me, State.core, SMap.get_put_same] at hk
  rw [hk]

theorem issueRead_run (h : s.uninjected) (op : AccOp) (va : Word) (x : Xlated) (acq : Bool) :
    issueRead op va x acq s = .ok (s.me.nextId, s.issuing op va x true false acq acq) := by
  unfold issueRead
  rw [CM.bind_ok (issue_run ..)]
  cases op
  case load n =>
    simp only [CM.bind_run, modMe_run]
    rw [State.updMe_injected (State.issuing_uninjected h _ _ _ _ _ _ _) ⟨_, rfl⟩]
    rfl
  all_goals rfl

@[simp] theorem State.issuing_nextId (op : AccOp) (va : Word) (x : Xlated) (l st a f : Bool) :
    (s.issuing op va x l st a f).me.nextId = s.me.nextId + 1 := by
  simp [State.issuing]

theorem issueReads_run (h : s.uninjected) (acq : Bool) (xs : List (AccOp × Word × Xlated)) :
    issueReads acq xs s = .ok ((List.range xs.length).map fun i => s.me.nextId + i, s.loading acq xs) := by
  induction xs generalizing s with
  | nil => rfl
  | cons p ps ih =>
    obtain ⟨op, va, x⟩ := p
    unfold issueReads
    rw [CM.bind_ok (issueRead_run h op va x acq), CM.bind_ok (ih (State.issuing_uninjected h _ _ _ _ _ _ _))]
    simp only [CM.pure_run, State.loading, List.foldl_cons, List.length_cons, List.range_succ_eq_map, List.map_cons, List.map_map,
      State.issuing_nextId]
    congr 3
    apply List.map_congr_left
    intro i _
    simp; omega

theorem storeAll_go_run (untagged : Bool) (xs : List (Nat × Word × Word × Xlated)) :
    storeAll.go untagged xs s = .ok ((), s.storing untagged xs) := by
  induction xs generalizing s with
  | nil => rfl
  | cons p ps ih =>
    obtain ⟨n, va, v, x⟩ := p
    unfold storeAll.go
    rw [CM.bind_ok (issue_run ..), ih]
    rfl

/-- Stores that the ring and the budget take. -/
theorem storeAll_run {untagged : Bool} {xs : List (Nat × Word × Word × Xlated)} (hr : s.takes (xs.map fun x => x.2.2.2.place))
    (hb : s.spendAll (clusterOf s.cur) (xs.map fun x => (x.2.1, x.2.2.2.place, x.1)) = .ok s2) :
    storeAll us untagged xs s = .ok ((), (s2.popped us).storing untagged xs) := by
  unfold storeAll
  rw [CM.bind_ok (needRoom_run hr), CM.bind_ok (budget_run hb), CM.bind_ok (popPorts_run us), storeAll_go_run]

@[simp] theorem State.loading_mayRetire (acq : Bool) (xs : List (AccOp × Word × Xlated)) :
    (s.loading acq xs).mayRetire = s.mayRetire := by
  unfold State.loading
  exact foldl_keeps State.mayRetire _ (fun _ _ => by simp) _ _

@[simp] theorem State.storing_mayRetire (untagged : Bool) (xs : List (Nat × Word × Word × Xlated)) :
    (s.storing untagged xs).mayRetire = s.mayRetire := by
  unfold State.storing
  exact foldl_keeps State.mayRetire _ (fun _ _ => by simp) _ _

/-! ## Words where nothing is parked -/

theorem State.firstServable_quiet {k : Nat} (l : List Parked) (i : Nat) (h : ∀ p ∈ l, p.pa / 8 ≠ k / 8) :
    s.firstServable k l i = none := by
  induction l generalizing i with
  | nil => rfl
  | cons p ps ih =>
    simp only [State.firstServable]
    rw [if_neg (h p (by simp))]
    exact ih _ fun q hq => h q (by simp [hq])

/-- A change of a word at which nothing is parked serves nothing. -/
theorem State.changed_quiet {k : Nat} (h : s.quietAt k) : s.changed k = s := by
  unfold State.changed
  cases hn : s.parked.length with
  | zero => rfl
  | succ n => simp [State.serveWord, State.firstServable_quiet _ _ h]

end Sys2Proof.Machine
end

