-- ==== Sys2Proof/Laws/Integer.lean ====
section
/-! SUPPORT. The operations of the integer instructions, written on numbers in the model, as operations on bit vectors. -/

namespace Sys2Proof.Machine

theorem lowBits_eq (n : Nat) (x : Word) : lowBits n x = (x.setWidth n).toNat := by
  simp [lowBits]

theorem sextInt_toNat {n : Nat} (h : 0 < n) (p : BitVec n) : sextInt p.toNat n = p.toInt := by
  have hp := p.isLt
  have h2 : 2 ^ n = 2 * 2 ^ (n - 1) := by
    rw [← Nat.pow_succ']; congr 1; omega
  simp only [sextInt, Nat.mod_eq_of_lt hp, BitVec.toInt_eq_toNat_cond]
  split <;> split <;> omega

theorem wordOfInt_toInt (p : Word) : wordOfInt p.toInt = p := BitVec.ofInt_toInt

theorem sext64 (p : BitVec 64) : sext p.toNat 64 = p := by
  rw [sext, sextInt_toNat (by decide), wordOfInt_toInt]

theorem sext32 (p : BitVec 32) : sext p.toNat 32 = p.signExtend 64 := by
  rw [sext, sextInt_toNat (by decide), wordOfInt, BitVec.signExtend]

theorem wrapInt_ofInt {n : Nat} (i : Int) : wrapInt n i = (BitVec.ofInt n i).toNat := by
  simp [wrapInt, BitVec.toNat_ofInt]

/-- An operation on numbers that agrees with one on bit vectors at both widths gives the same words. -/
theorem alu_atWidth {f : Nat → Nat → Nat → Nat} {g : (n : Nat) → BitVec n → BitVec n → BitVec n}
    (h : ∀ n, 1 < n → ∀ p q : BitVec n, f n p.toNat q.toNat = (g n p q).toNat) (w : Bool) (x y : Word) :
    alu f w x y = atWidth g w x y := by
  cases w
  · simp only [alu, atWidth, aluWidth, lowBits_eq, Bool.false_eq_true, if_false, h 64 (by decide), sext64, BitVec.setWidth_eq]
  · simp only [alu, atWidth, aluWidth, lowBits_eq, if_true, h 32 (by decide), sext32]

end Sys2Proof.Machine
end

