-- ==== Sys2Proof/Laws/PerInstr.lean ====
section
/-! SUPPORT. Encoding and decoding agree, instruction by instruction: the word of a well-formed instruction decodes to
that instruction. -/

set_option Elab.async false

namespace Sys2Proof

/-! ## Fields of a word made of parts -/

theorem ex_low {n m : Nat} (x : BitVec n) (y : BitVec m) (lo len : Nat) (h : lo + len ≤ m) :
    (x ++ y).extractLsb' lo len = y.extractLsb' lo len := BitVec.extractLsb'_append_eq_of_add_le h

theorem ex_high {n m : Nat} (x : BitVec n) (y : BitVec m) (lo len : Nat) (h : m ≤ lo) :
    (x ++ y).extractLsb' lo len = x.extractLsb' (lo - m) len := BitVec.extractLsb'_append_eq_of_le h

theorem ex_all {n : Nat} (x : BitVec n) : x.extractLsb' 0 n = x := BitVec.extractLsb'_eq_self

theorem srcOf_srcBits (a : Src) (h : a.wf = true) : srcOf (srcBits a) = a := by
  cases a with
  | q n => revert n; decide
  | h n => revert n; decide
  | z => rfl
  | port p => cases p <;> rfl
  | bad v =>
    simp only [Src.wf, decide_eq_true_eq] at h
    revert v
    decide

theorem dstOf_dstBits (d : Dst) (h : d.wf = true) : dstOf (dstBits d) = d := by
  cases d with
  | h n => revert n; decide
  | push => rfl
  | port p => cases p <;> rfl
  | bad v =>
    simp only [Dst.wf, decide_eq_true_eq] at h
    revert v
    decide

@[simp] theorem bitOf_ofBool (b : Bool) : bitOf (BitVec.ofBool b) = b := by cases b <;> rfl

theorem layout_8_5_19 {w : BitVec 32} (op : BitVec 8) (x1 : BitVec 5) (x2 : BitVec 19)
    (h : op ++ x1 ++ x2 = w) :
    ex 28 4 w = op.extractLsb' 4 4 ∧
    ex 24 4 w = op.extractLsb' 0 4 ∧
    ex 19 5 w = x1 ∧
    ex 0 19 w = x2 := by
  subst h
  exact ⟨(ex_high (op ++ x1) x2 28 4 (by decide)).trans (ex_high op x1 9 4 (by decide)),
    (ex_high (op ++ x1) x2 24 4 (by decide)).trans (ex_high op x1 5 4 (by decide)),
    (ex_high (op ++ x1) x2 19 5 (by decide)).trans ((ex_low op x1 0 5 (by decide)).trans (ex_all x1)),
    (ex_low (op ++ x1) x2 0 19 (by decide)).trans (ex_all x2)⟩

theorem layout_8_6_1_5_2_2_8 {w : BitVec 32} (op : BitVec 8) (x1 : BitVec 6) (x2 : BitVec 1) (x3 : BitVec 5) (x4 : BitVec 2) (x5 : BitVec 2) (x6 : BitVec 8)
    (h : op ++ x1 ++ x2 ++ x3 ++ x4 ++ x5 ++ x6 = w) :
    ex 28 4 w = op.extractLsb' 4 4 ∧
    ex 24 4 w = op.extractLsb' 0 4 ∧
    ex 18 6 w = x1 ∧
    ex 17 1 w = x2 ∧
    ex 12 5 w = x3 ∧
    ex 10 2 w = x4 ∧
    ex 8 2 w = x5 ∧
    ex 0 8 w = x6 := by
  subst h
  exact ⟨(ex_high (op ++ x1 ++ x2 ++ x3 ++ x4 ++ x5) x6 28 4 (by decide)).trans ((ex_high (op ++ x1 ++ x2 ++ x3 ++ x4) x5 20 4 (by decide)).trans ((ex_high (op ++ x1 ++ x2 ++ x3) x4 18 4 (by decide)).trans ((ex_high (op ++ x1 ++ x2) x3 16 4 (by decide)).trans ((ex_high (op ++ x1) x2 11 4 (by decide)).trans (ex_high op x1 10 4 (by decide)))))),
    (ex_high (op ++ x1 ++ x2 ++ x3 ++ x4 ++ x5) x6 24 4 (by decide)).trans ((ex_high (op ++ x1 ++ x2 ++ x3 ++ x4) x5 16 4 (by decide)).trans ((ex_high (op ++ x1 ++ x2 ++ x3) x4 14 4 (by decide)).trans ((ex_high (op ++ x1 ++ x2) x3 12 4 (by decide)).trans ((ex_high (op ++ x1) x2 7 4 (by decide)).trans (ex_high op x1 6 4 (by decide)))))),
    (ex_high (op ++ x1 ++ x2 ++ x3 ++ x4 ++ x5) x6 18 6 (by decide)).trans ((ex_high (op ++ x1 ++ x2 ++ x3 ++ x4) x5 10 6 (by decide)).trans ((ex_high (op ++ x1 ++ x2 ++ x3) x4 8 6 (by decide)).trans ((ex_high (op ++ x1 ++ x2) x3 6 6 (by decide)).trans ((ex_high (op ++ x1) x2 1 6 (by decide)).trans ((ex_low op x1 0 6 (by decide)).trans (ex_all x1)))))),
    (ex_high (op ++ x1 ++ x2 ++ x3 ++ x4 ++ x5) x6 17 1 (by decide)).trans ((ex_high (op ++ x1 ++ x2 ++ x3 ++ x4) x5 9 1 (by decide)).trans ((ex_high (op ++ x1 ++ x2 ++ x3) x4 7 1 (by decide)).trans ((ex_high (op ++ x1 ++ x2) x3 5 1 (by decide)).trans ((ex_low (op ++ x1) x2 0 1 (by decide)).trans (ex_all x2))))),
    (ex_high (op ++ x1 ++ x2 ++ x3 ++ x4 ++ x5) x6 12 5 (by decide)).trans ((ex_high (op ++ x1 ++ x2 ++ x3 ++ x4) x5 4 5 (by decide)).trans ((ex_high (op ++ x1 ++ x2 ++ x3) x4 2 5 (by decide)).trans ((ex_low (op ++ x1 ++ x2) x3 0 5 (by decide)).trans (ex_all x3)))),
    (ex_high (op ++ x1 ++ x2 ++ x3 ++ x4 ++ x5) x6 10 2 (by decide)).trans ((ex_high (op ++ x1 ++ x2 ++ x3 ++ x4) x5 2 2 (by decide)).trans ((ex_low (op ++ x1 ++ x2 ++ x3) x4 0 2 (by decide)).trans (ex_all x4))),
    (ex_high (op ++ x1 ++ x2 ++ x3 ++ x4 ++ x5) x6 8 2 (by decide)).trans ((ex_low (op ++ x1 ++ x2 ++ x3 ++ x4) x5 0 2 (by decide)).trans (ex_all x5)),
    (ex_low (op ++ x1 ++ x2 ++ x3 ++ x4 ++ x5) x6 0 8 (by decide)).trans (ex_all x6)⟩

theorem layout_8_6_1_5_4_8 {w : BitVec 32} (op : BitVec 8) (x1 : BitVec 6) (x2 : BitVec 1) (x3 : BitVec 5) (x4 : BitVec 4) (x5 : BitVec 8)
    (h : op ++ x1 ++ x2 ++ x3 ++ x4 ++ x5 = w) :
    ex 28 4 w = op.extractLsb' 4 4 ∧
    ex 24 4 w = op.extractLsb' 0 4 ∧
    ex 18 6 w = x1 ∧
    ex 17 1 w = x2 ∧
    ex 12 5 w = x3 ∧
    ex 8 4 w = x4 ∧
    ex 0 8 w = x5 := by
  subst h
  exact ⟨(ex_high (op ++ x1 ++ x2 ++ x3 ++ x4) x5 28 4 (by decide)).trans ((ex_high (op ++ x1 ++ x2 ++ x3) x4 20 4 (by decide)).trans ((ex_high (op ++ x1 ++ x2) x3 16 4 (by decide)).trans ((ex_high (op ++ x1) x2 11 4 (by decide)).trans (ex_high op x1 10 4 (by decide))))),
    (ex_high (op ++ x1 ++ x2 ++ x3 ++ x4) x5 24 4 (by decide)).trans ((ex_high (op ++ x1 ++ x2 ++ x3) x4 16 4 (by decide)).trans ((ex_high (op ++ x1 ++ x2) x3 12 4 (by decide)).trans ((ex_high (op ++ x1) x2 7 4 (by decide)).trans (ex_high op x1 6 4 (by decide))))),
    (ex_high (op ++ x1 ++ x2 ++ x3 ++ x4) x5 18 6 (by decide)).trans ((ex_high (op ++ x1 ++ x2 ++ x3) x4 10 6 (by decide)).trans ((ex_high (op ++ x1 ++ x2) x3 6 6 (by decide)).trans ((ex_high (op ++ x1) x2 1 6 (by decide)).trans ((ex_low op x1 0 6 (by decide)).trans (ex_all x1))))),
    (ex_high (op ++ x1 ++ x2 ++ x3 ++ x4) x5 17 1 (by decide)).trans ((ex_high (op ++ x1 ++ x2 ++ x3) x4 9 1 (by decide)).trans ((ex_high (op ++ x1 ++ x2) x3 5 1 (by decide)).trans ((ex_low (op ++ x1) x2 0 1 (by decide)).trans (ex_all x2)))),
    (ex_high (op ++ x1 ++ x2 ++ x3 ++ x4) x5 12 5 (by decide)).trans ((ex_high (op ++ x1 ++ x2 ++ x3) x4 4 5 (by decide)).trans ((ex_low (op ++ x1 ++ x2) x3 0 5 (by decide)).trans (ex_all x3))),
    (ex_high (op ++ x1 ++ x2 ++ x3 ++ x4) x5 8 4 (by decide)).trans ((ex_low (op ++ x1 ++ x2 ++ x3) x4 0 4 (by decide)).trans (ex_all x4)),
    (ex_low (op ++ x1 ++ x2 ++ x3 ++ x4) x5 0 8 (by decide)).trans (ex_all x5)⟩

theorem layout_8_6_3_1_2_5_7 {w : BitVec 32} (op : BitVec 8) (x1 : BitVec 6) (x2 : BitVec 3) (x3 : BitVec 1) (x4 : BitVec 2) (x5 : BitVec 5) (x6 : BitVec 7)
    (h : op ++ x1 ++ x2 ++ x3 ++ x4 ++ x5 ++ x6 = w) :
    ex 28 4 w = op.extractLsb' 4 4 ∧
    ex 24 4 w = op.extractLsb' 0 4 ∧
    ex 18 6 w = x1 ∧
    ex 15 3 w = x2 ∧
    ex 14 1 w = x3 ∧
    ex 12 2 w = x4 ∧
    ex 7 5 w = x5 ∧
    ex 0 7 w = x6 := by
  subst h
  exact ⟨(ex_high (op ++ x1 ++ x2 ++ x3 ++ x4 ++ x5) x6 28 4 (by decide)).trans ((ex_high (op ++ x1 ++ x2 ++ x3 ++ x4) x5 21 4 (by decide)).trans ((ex_high (op ++ x1 ++ x2 ++ x3) x4 16 4 (by decide)).trans ((ex_high (op ++ x1 ++ x2) x3 14 4 (by decide)).trans ((ex_high (op ++ x1) x2 13 4 (by decide)).trans (ex_high op x1 10 4 (by decide)))))),
    (ex_high (op ++ x1 ++ x2 ++ x3 ++ x4 ++ x5) x6 24 4 (by decide)).trans ((ex_high (op ++ x1 ++ x2 ++ x3 ++ x4) x5 17 4 (by decide)).trans ((ex_high (op ++ x1 ++ x2 ++ x3) x4 12 4 (by decide)).trans ((ex_high (op ++ x1 ++ x2) x3 10 4 (by decide)).trans ((ex_high (op ++ x1) x2 9 4 (by decide)).trans (ex_high op x1 6 4 (by decide)))))),
    (ex_high (op ++ x1 ++ x2 ++ x3 ++ x4 ++ x5) x6 18 6 (by decide)).trans ((ex_high (op ++ x1 ++ x2 ++ x3 ++ x4) x5 11 6 (by decide)).trans ((ex_high (op ++ x1 ++ x2 ++ x3) x4 6 6 (by decide)).trans ((ex_high (op ++ x1 ++ x2) x3 4 6 (by decide)).trans ((ex_high (op ++ x1) x2 3 6 (by decide)).trans ((ex_low op x1 0 6 (by decide)).trans (ex_all x1)))))),
    (ex_high (op ++ x1 ++ x2 ++ x3 ++ x4 ++ x5) x6 15 3 (by decide)).trans ((ex_high (op ++ x1 ++ x2 ++ x3 ++ x4) x5 8 3 (by decide)).trans ((ex_high (op ++ x1 ++ x2 ++ x3) x4 3 3 (by decide)).trans ((ex_high (op ++ x1 ++ x2) x3 1 3 (by decide)).trans ((ex_low (op ++ x1) x2 0 3 (by decide)).trans (ex_all x2))))),
    (ex_high (op ++ x1 ++ x2 ++ x3 ++ x4 ++ x5) x6 14 1 (by decide)).trans ((ex_high (op ++ x1 ++ x2 ++ x3 ++ x4) x5 7 1 (by decide)).trans ((ex_high (op ++ x1 ++ x2 ++ x3) x4 2 1 (by decide)).trans ((ex_low (op ++ x1 ++ x2) x3 0 1 (by decide)).trans (ex_all x3)))),
    (ex_high (op ++ x1 ++ x2 ++ x3 ++ x4 ++ x5) x6 12 2 (by decide)).trans ((ex_high (op ++ x1 ++ x2 ++ x3 ++ x4) x5 5 2 (by decide)).trans ((ex_low (op ++ x1 ++ x2 ++ x3) x4 0 2 (by decide)).trans (ex_all x4))),
    (ex_high (op ++ x1 ++ x2 ++ x3 ++ x4 ++ x5) x6 7 5 (by decide)).trans ((ex_low (op ++ x1 ++ x2 ++ x3 ++ x4) x5 0 5 (by decide)).trans (ex_all x5)),
    (ex_low (op ++ x1 ++ x2 ++ x3 ++ x4 ++ x5) x6 0 7 (by decide)).trans (ex_all x6)⟩

theorem layout_8_6_3_3_5_3_2_1_1 {w : BitVec 32} (op : BitVec 8) (x1 : BitVec 6) (x2 : BitVec 3) (x3 : BitVec 3) (x4 : BitVec 5) (x5 : BitVec 3) (x6 : BitVec 2) (x7 : BitVec 1) (x8 : BitVec 1)
    (h : op ++ x1 ++ x2 ++ x3 ++ x4 ++ x5 ++ x6 ++ x7 ++ x8 = w) :
    ex 28 4 w = op.extractLsb' 4 4 ∧
    ex 24 4 w = op.extractLsb' 0 4 ∧
    ex 18 6 w = x1 ∧
    ex 15 3 w = x2 ∧
    ex 12 3 w = x3 ∧
    ex 7 5 w = x4 ∧
    ex 4 3 w = x5 ∧
    ex 2 2 w = x6 ∧
    ex 1 1 w = x7 ∧
    ex 0 1 w = x8 := by
  subst h
  exact ⟨(ex_high (op ++ x1 ++ x2 ++ x3 ++ x4 ++ x5 ++ x6 ++ x7) x8 28 4 (by decide)).trans ((ex_high (op ++ x1 ++ x2 ++ x3 ++ x4 ++ x5 ++ x6) x7 27 4 (by decide)).trans ((ex_high (op ++ x1 ++ x2 ++ x3 ++ x4 ++ x5) x6 26 4 (by decide)).trans ((ex_high (op ++ x1 ++ x2 ++ x3 ++ x4) x5 24 4 (by decide)).trans ((ex_high (op ++ x1 ++ x2 ++ x3) x4 21 4 (by decide)).trans ((ex_high (op ++ x1 ++ x2) x3 16 4 (by decide)).trans ((ex_high (op ++ x1) x2 13 4 (by decide)).trans (ex_high op x1 10 4 (by decide)))))))),
    (ex_high (op ++ x1 ++ x2 ++ x3 ++ x4 ++ x5 ++ x6 ++ x7) x8 24 4 (by decide)).trans ((ex_high (op ++ x1 ++ x2 ++ x3 ++ x4 ++ x5 ++ x6) x7 23 4 (by decide)).trans ((ex_high (op ++ x1 ++ x2 ++ x3 ++ x4 ++ x5) x6 22 4 (by decide)).trans ((ex_high (op ++ x1 ++ x2 ++ x3 ++ x4) x5 20 4 (by decide)).trans ((ex_high (op ++ x1 ++ x2 ++ x3) x4 17 4 (by decide)).trans ((ex_high (op ++ x1 ++ x2) x3 12 4 (by decide)).trans ((ex_high (op ++ x1) x2 9 4 (by decide)).trans (ex_high op x1 6 4 (by decide)))))))),
    (ex_high (op ++ x1 ++ x2 ++ x3 ++ x4 ++ x5 ++ x6 ++ x7) x8 18 6 (by decide)).trans ((ex_high (op ++ x1 ++ x2 ++ x3 ++ x4 ++ x5 ++ x6) x7 17 6 (by decide)).trans ((ex_high (op ++ x1 ++ x2 ++ x3 ++ x4 ++ x5) x6 16 6 (by decide)).trans ((ex_high (op ++ x1 ++ x2 ++ x3 ++ x4) x5 14 6 (by decide)).trans ((ex_high (op ++ x1 ++ x2 ++ x3) x4 11 6 (by decide)).trans ((ex_high (op ++ x1 ++ x2) x3 6 6 (by decide)).trans ((ex_high (op ++ x1) x2 3 6 (by decide)).trans ((ex_low op x1 0 6 (by decide)).trans (ex_all x1)))))))),
    (ex_high (op ++ x1 ++ x2 ++ x3 ++ x4 ++ x5 ++ x6 ++ x7) x8 15 3 (by decide)).trans ((ex_high (op ++ x1 ++ x2 ++ x3 ++ x4 ++ x5 ++ x6) x7 14 3 (by decide)).trans ((ex_high (op ++ x1 ++ x2 ++ x3 ++ x4 ++ x5) x6 13 3 (by decide)).trans ((ex_high (op ++ x1 ++ x2 ++ x3 ++ x4) x5 11 3 (by decide)).trans ((ex_high (op ++ x1 ++ x2 ++ x3) x4 8 3 (by decide)).trans ((ex_high (op ++ x1 ++ x2) x3 3 3 (by decide)).trans ((ex_low (op ++ x1) x2 0 3 (by decide)).trans (ex_all x2))))))),
    (ex_high (op ++ x1 ++ x2 ++ x3 ++ x4 ++ x5 ++ x6 ++ x7) x8 12 3 (by decide)).trans ((ex_high (op ++ x1 ++ x2 ++ x3 ++ x4 ++ x5 ++ x6) x7 11 3 (by decide)).trans ((ex_high (op ++ x1 ++ x2 ++ x3 ++ x4 ++ x5) x6 10 3 (by decide)).trans ((ex_high (op ++ x1 ++ x2 ++ x3 ++ x4) x5 8 3 (by decide)).trans ((ex_high (op ++ x1 ++ x2 ++ x3) x4 5 3 (by decide)).trans ((ex_low (op ++ x1 ++ x2) x3 0 3 (by decide)).trans (ex_all x3)))))),
    (ex_high (op ++ x1 ++ x2 ++ x3 ++ x4 ++ x5 ++ x6 ++ x7) x8 7 5 (by decide)).trans ((ex_high (op ++ x1 ++ x2 ++ x3 ++ x4 ++ x5 ++ x6) x7 6 5 (by decide)).trans ((ex_high (op ++ x1 ++ x2 ++ x3 ++ x4 ++ x5) x6 5 5 (by decide)).trans ((ex_high (op ++ x1 ++ x2 ++ x3 ++ x4) x5 3 5 (by decide)).trans ((ex_low (op ++ x1 ++ x2 ++ x3) x4 0 5 (by decide)).trans (ex_all x4))))),
    (ex_high (op ++ x1 ++ x2 ++ x3 ++ x4 ++ x5 ++ x6 ++ x7) x8 4 3 (by decide)).trans ((ex_high (op ++ x1 ++ x2 ++ x3 ++ x4 ++ x5 ++ x6) x7 3 3 (by decide)).trans ((ex_high (op ++ x1 ++ x2 ++ x3 ++ x4 ++ x5) x6 2 3 (by decide)).trans ((ex_low (op ++ x1 ++ x2 ++ x3 ++ x4) x5 0 3 (by decide)).trans (ex_all x5)))),
    (ex_high (op ++ x1 ++ x2 ++ x3 ++ x4 ++ x5 ++ x6 ++ x7) x8 2 2 (by decide)).trans ((ex_high (op ++ x1 ++ x2 ++ x3 ++ x4 ++ x5 ++ x6) x7 1 2 (by decide)).trans ((ex_low (op ++ x1 ++ x2 ++ x3 ++ x4 ++ x5) x6 0 2 (by decide)).trans (ex_all x6))),
    (ex_high (op ++ x1 ++ x2 ++ x3 ++ x4 ++ x5 ++ x6 ++ x7) x8 1 1 (by decide)).trans ((ex_low (op ++ x1 ++ x2 ++ x3 ++ x4 ++ x5 ++ x6) x7 0 1 (by decide)).trans (ex_all x7)),
    (ex_low (op ++ x1 ++ x2 ++ x3 ++ x4 ++ x5 ++ x6 ++ x7) x8 0 1 (by decide)).trans (ex_all x8)⟩

theorem layout_8_6_5_1_5_3_2_2 {w : BitVec 32} (op : BitVec 8) (x1 : BitVec 6) (x2 : BitVec 5) (x3 : BitVec 1) (x4 : BitVec 5) (x5 : BitVec 3) (x6 : BitVec 2) (x7 : BitVec 2)
    (h : op ++ x1 ++ x2 ++ x3 ++ x4 ++ x5 ++ x6 ++ x7 = w) :
    ex 28 4 w = op.extractLsb' 4 4 ∧
    ex 24 4 w = op.extractLsb' 0 4 ∧
    ex 18 6 w = x1 ∧
    ex 13 5 w = x2 ∧
    ex 12 1 w = x3 ∧
    ex 7 5 w = x4 ∧
    ex 4 3 w = x5 ∧
    ex 2 2 w = x6 ∧
    ex 0 2 w = x7 := by
  subst h
  exact ⟨(ex_high (op ++ x1 ++ x2 ++ x3 ++ x4 ++ x5 ++ x6) x7 28 4 (by decide)).trans ((ex_high (op ++ x1 ++ x2 ++ x3 ++ x4 ++ x5) x6 26 4 (by decide)).trans ((ex_high (op ++ x1 ++ x2 ++ x3 ++ x4) x5 24 4 (by decide)).trans ((ex_high (op ++ x1 ++ x2 ++ x3) x4 21 4 (by decide)).trans ((ex_high (op ++ x1 ++ x2) x3 16 4 (by decide)).trans ((ex_high (op ++ x1) x2 15 4 (by decide)).trans (ex_high op x1 10 4 (by decide))))))),
    (ex_high (op ++ x1 ++ x2 ++ x3 ++ x4 ++ x5 ++ x6) x7 24 4 (by decide)).trans ((ex_high (op ++ x1 ++ x2 ++ x3 ++ x4 ++ x5) x6 22 4 (by decide)).trans ((ex_high (op ++ x1 ++ x2 ++ x3 ++ x4) x5 20 4 (by decide)).trans ((ex_high (op ++ x1 ++ x2 ++ x3) x4 17 4 (by decide)).trans ((ex_high (op ++ x1 ++ x2) x3 12 4 (by decide)).trans ((ex_high (op ++ x1) x2 11 4 (by decide)).trans (ex_high op x1 6 4 (by decide))))))),
    (ex_high (op ++ x1 ++ x2 ++ x3 ++ x4 ++ x5 ++ x6) x7 18 6 (by decide)).trans ((ex_high (op ++ x1 ++ x2 ++ x3 ++ x4 ++ x5) x6 16 6 (by decide)).trans ((ex_high (op ++ x1 ++ x2 ++ x3 ++ x4) x5 14 6 (by decide)).trans ((ex_high (op ++ x1 ++ x2 ++ x3) x4 11 6 (by decide)).trans ((ex_high (op ++ x1 ++ x2) x3 6 6 (by decide)).trans ((ex_high (op ++ x1) x2 5 6 (by decide)).trans ((ex_low op x1 0 6 (by decide)).trans (ex_all x1))))))),
    (ex_high (op ++ x1 ++ x2 ++ x3 ++ x4 ++ x5 ++ x6) x7 13 5 (by decide)).trans ((ex_high (op ++ x1 ++ x2 ++ x3 ++ x4 ++ x5) x6 11 5 (by decide)).trans ((ex_high (op ++ x1 ++ x2 ++ x3 ++ x4) x5 9 5 (by decide)).trans ((ex_high (op ++ x1 ++ x2 ++ x3) x4 6 5 (by decide)).trans ((ex_high (op ++ x1 ++ x2) x3 1 5 (by decide)).trans ((ex_low (op ++ x1) x2 0 5 (by decide)).trans (ex_all x2)))))),
    (ex_high (op ++ x1 ++ x2 ++ x3 ++ x4 ++ x5 ++ x6) x7 12 1 (by decide)).trans ((ex_high (op ++ x1 ++ x2 ++ x3 ++ x4 ++ x5) x6 10 1 (by decide)).trans ((ex_high (op ++ x1 ++ x2 ++ x3 ++ x4) x5 8 1 (by decide)).trans ((ex_high (op ++ x1 ++ x2 ++ x3) x4 5 1 (by decide)).trans ((ex_low (op ++ x1 ++ x2) x3 0 1 (by decide)).trans (ex_all x3))))),
    (ex_high (op ++ x1 ++ x2 ++ x3 ++ x4 ++ x5 ++ x6) x7 7 5 (by decide)).trans ((ex_high (op ++ x1 ++ x2 ++ x3 ++ x4 ++ x5) x6 5 5 (by decide)).trans ((ex_high (op ++ x1 ++ x2 ++ x3 ++ x4) x5 3 5 (by decide)).trans ((ex_low (op ++ x1 ++ x2 ++ x3) x4 0 5 (by decide)).trans (ex_all x4)))),
    (ex_high (op ++ x1 ++ x2 ++ x3 ++ x4 ++ x5 ++ x6) x7 4 3 (by decide)).trans ((ex_high (op ++ x1 ++ x2 ++ x3 ++ x4 ++ x5) x6 2 3 (by decide)).trans ((ex_low (op ++ x1 ++ x2 ++ x3 ++ x4) x5 0 3 (by decide)).trans (ex_all x5))),
    (ex_high (op ++ x1 ++ x2 ++ x3 ++ x4 ++ x5 ++ x6) x7 2 2 (by decide)).trans ((ex_low (op ++ x1 ++ x2 ++ x3 ++ x4 ++ x5) x6 0 2 (by decide)).trans (ex_all x6)),
    (ex_low (op ++ x1 ++ x2 ++ x3 ++ x4 ++ x5 ++ x6) x7 0 2 (by decide)).trans (ex_all x7)⟩

theorem layout_8_6_5_1_12 {w : BitVec 32} (op : BitVec 8) (x1 : BitVec 6) (x2 : BitVec 5) (x3 : BitVec 1) (x4 : BitVec 12)
    (h : op ++ x1 ++ x2 ++ x3 ++ x4 = w) :
    ex 28 4 w = op.extractLsb' 4 4 ∧
    ex 24 4 w = op.extractLsb' 0 4 ∧
    ex 18 6 w = x1 ∧
    ex 13 5 w = x2 ∧
    ex 12 1 w = x3 ∧
    ex 0 12 w = x4 := by
  subst h
  exact ⟨(ex_high (op ++ x1 ++ x2 ++ x3) x4 28 4 (by decide)).trans ((ex_high (op ++ x1 ++ x2) x3 16 4 (by decide)).trans ((ex_high (op ++ x1) x2 15 4 (by decide)).trans (ex_high op x1 10 4 (by decide)))),
    (ex_high (op ++ x1 ++ x2 ++ x3) x4 24 4 (by decide)).trans ((ex_high (op ++ x1 ++ x2) x3 12 4 (by decide)).trans ((ex_high (op ++ x1) x2 11 4 (by decide)).trans (ex_high op x1 6 4 (by decide)))),
    (ex_high (op ++ x1 ++ x2 ++ x3) x4 18 6 (by decide)).trans ((ex_high (op ++ x1 ++ x2) x3 6 6 (by decide)).trans ((ex_high (op ++ x1) x2 5 6 (by decide)).trans ((ex_low op x1 0 6 (by decide)).trans (ex_all x1)))),
    (ex_high (op ++ x1 ++ x2 ++ x3) x4 13 5 (by decide)).trans ((ex_high (op ++ x1 ++ x2) x3 1 5 (by decide)).trans ((ex_low (op ++ x1) x2 0 5 (by decide)).trans (ex_all x2))),
    (ex_high (op ++ x1 ++ x2 ++ x3) x4 12 1 (by decide)).trans ((ex_low (op ++ x1 ++ x2) x3 0 1 (by decide)).trans (ex_all x3)),
    (ex_low (op ++ x1 ++ x2 ++ x3) x4 0 12 (by decide)).trans (ex_all x4)⟩

theorem layout_8_6_5_7_6 {w : BitVec 32} (op : BitVec 8) (x1 : BitVec 6) (x2 : BitVec 5) (x3 : BitVec 7) (x4 : BitVec 6)
    (h : op ++ x1 ++ x2 ++ x3 ++ x4 = w) :
    ex 28 4 w = op.extractLsb' 4 4 ∧
    ex 24 4 w = op.extractLsb' 0 4 ∧
    ex 18 6 w = x1 ∧
    ex 13 5 w = x2 ∧
    ex 6 7 w = x3 ∧
    ex 0 6 w = x4 := by
  subst h
  exact ⟨(ex_high (op ++ x1 ++ x2 ++ x3) x4 28 4 (by decide)).trans ((ex_high (op ++ x1 ++ x2) x3 22 4 (by decide)).trans ((ex_high (op ++ x1) x2 15 4 (by decide)).trans (ex_high op x1 10 4 (by decide)))),
    (ex_high (op ++ x1 ++ x2 ++ x3) x4 24 4 (by decide)).trans ((ex_high (op ++ x1 ++ x2) x3 18 4 (by decide)).trans ((ex_high (op ++ x1) x2 11 4 (by decide)).trans (ex_high op x1 6 4 (by decide)))),
    (ex_high (op ++ x1 ++ x2 ++ x3) x4 18 6 (by decide)).trans ((ex_high (op ++ x1 ++ x2) x3 12 6 (by decide)).trans ((ex_high (op ++ x1) x2 5 6 (by decide)).trans ((ex_low op x1 0 6 (by decide)).trans (ex_all x1)))),
    (ex_high (op ++ x1 ++ x2 ++ x3) x4 13 5 (by decide)).trans ((ex_high (op ++ x1 ++ x2) x3 7 5 (by decide)).trans ((ex_low (op ++ x1) x2 0 5 (by decide)).trans (ex_all x2))),
    (ex_high (op ++ x1 ++ x2 ++ x3) x4 6 7 (by decide)).trans ((ex_low (op ++ x1 ++ x2) x3 0 7 (by decide)).trans (ex_all x3)),
    (ex_low (op ++ x1 ++ x2 ++ x3) x4 0 6 (by decide)).trans (ex_all x4)⟩

theorem layout_8_6_5_13 {w : BitVec 32} (op : BitVec 8) (x1 : BitVec 6) (x2 : BitVec 5) (x3 : BitVec 13)
    (h : op ++ x1 ++ x2 ++ x3 = w) :
    ex 28 4 w = op.extractLsb' 4 4 ∧
    ex 24 4 w = op.extractLsb' 0 4 ∧
    ex 18 6 w = x1 ∧
    ex 13 5 w = x2 ∧
    ex 0 13 w = x3 := by
  subst h
  exact ⟨(ex_high (op ++ x1 ++ x2) x3 28 4 (by decide)).trans ((ex_high (op ++ x1) x2 15 4 (by decide)).trans (ex_high op x1 10 4 (by decide))),
    (ex_high (op ++ x1 ++ x2) x3 24 4 (by decide)).trans ((ex_high (op ++ x1) x2 11 4 (by decide)).trans (ex_high op x1 6 4 (by decide))),
    (ex_high (op ++ x1 ++ x2) x3 18 6 (by decide)).trans ((ex_high (op ++ x1) x2 5 6 (by decide)).trans ((ex_low op x1 0 6 (by decide)).trans (ex_all x1))),
    (ex_high (op ++ x1 ++ x2) x3 13 5 (by decide)).trans ((ex_low (op ++ x1) x2 0 5 (by decide)).trans (ex_all x2)),
    (ex_low (op ++ x1 ++ x2) x3 0 13 (by decide)).trans (ex_all x3)⟩

theorem layout_8_6_6_2_2_8 {w : BitVec 32} (op : BitVec 8) (x1 : BitVec 6) (x2 : BitVec 6) (x3 : BitVec 2) (x4 : BitVec 2) (x5 : BitVec 8)
    (h : op ++ x1 ++ x2 ++ x3 ++ x4 ++ x5 = w) :
    ex 28 4 w = op.extractLsb' 4 4 ∧
    ex 24 4 w = op.extractLsb' 0 4 ∧
    ex 18 6 w = x1 ∧
    ex 12 6 w = x2 ∧
    ex 10 2 w = x3 ∧
    ex 8 2 w = x4 ∧
    ex 0 8 w = x5 := by
  subst h
  exact ⟨(ex_high (op ++ x1 ++ x2 ++ x3 ++ x4) x5 28 4 (by decide)).trans ((ex_high (op ++ x1 ++ x2 ++ x3) x4 20 4 (by decide)).trans ((ex_high (op ++ x1 ++ x2) x3 18 4 (by decide)).trans ((ex_high (op ++ x1) x2 16 4 (by decide)).trans (ex_high op x1 10 4 (by decide))))),
    (ex_high (op ++ x1 ++ x2 ++ x3 ++ x4) x5 24 4 (by decide)).trans ((ex_high (op ++ x1 ++ x2 ++ x3) x4 16 4 (by decide)).trans ((ex_high (op ++ x1 ++ x2) x3 14 4 (by decide)).trans ((ex_high (op ++ x1) x2 12 4 (by decide)).trans (ex_high op x1 6 4 (by decide))))),
    (ex_high (op ++ x1 ++ x2 ++ x3 ++ x4) x5 18 6 (by decide)).trans ((ex_high (op ++ x1 ++ x2 ++ x3) x4 10 6 (by decide)).trans ((ex_high (op ++ x1 ++ x2) x3 8 6 (by decide)).trans ((ex_high (op ++ x1) x2 6 6 (by decide)).trans ((ex_low op x1 0 6 (by decide)).trans (ex_all x1))))),
    (ex_high (op ++ x1 ++ x2 ++ x3 ++ x4) x5 12 6 (by decide)).trans ((ex_high (op ++ x1 ++ x2 ++ x3) x4 4 6 (by decide)).trans ((ex_high (op ++ x1 ++ x2) x3 2 6 (by decide)).trans ((ex_low (op ++ x1) x2 0 6 (by decide)).trans (ex_all x2)))),
    (ex_high (op ++ x1 ++ x2 ++ x3 ++ x4) x5 10 2 (by decide)).trans ((ex_high (op ++ x1 ++ x2 ++ x3) x4 2 2 (by decide)).trans ((ex_low (op ++ x1 ++ x2) x3 0 2 (by decide)).trans (ex_all x3))),
    (ex_high (op ++ x1 ++ x2 ++ x3 ++ x4) x5 8 2 (by decide)).trans ((ex_low (op ++ x1 ++ x2 ++ x3) x4 0 2 (by decide)).trans (ex_all x4)),
    (ex_low (op ++ x1 ++ x2 ++ x3 ++ x4) x5 0 8 (by decide)).trans (ex_all x5)⟩

theorem layout_8_6_6_3_9 {w : BitVec 32} (op : BitVec 8) (x1 : BitVec 6) (x2 : BitVec 6) (x3 : BitVec 3) (x4 : BitVec 9)
    (h : op ++ x1 ++ x2 ++ x3 ++ x4 = w) :
    ex 28 4 w = op.extractLsb' 4 4 ∧
    ex 24 4 w = op.extractLsb' 0 4 ∧
    ex 18 6 w = x1 ∧
    ex 12 6 w = x2 ∧
    ex 9 3 w = x3 ∧
    ex 0 9 w = x4 := by
  subst h
  exact ⟨(ex_high (op ++ x1 ++ x2 ++ x3) x4 28 4 (by decide)).trans ((ex_high (op ++ x1 ++ x2) x3 19 4 (by decide)).trans ((ex_high (op ++ x1) x2 16 4 (by decide)).trans (ex_high op x1 10 4 (by decide)))),
    (ex_high (op ++ x1 ++ x2 ++ x3) x4 24 4 (by decide)).trans ((ex_high (op ++ x1 ++ x2) x3 15 4 (by decide)).trans ((ex_high (op ++ x1) x2 12 4 (by decide)).trans (ex_high op x1 6 4 (by decide)))),
    (ex_high (op ++ x1 ++ x2 ++ x3) x4 18 6 (by decide)).trans ((ex_high (op ++ x1 ++ x2) x3 9 6 (by decide)).trans ((ex_high (op ++ x1) x2 6 6 (by decide)).trans ((ex_low op x1 0 6 (by decide)).trans (ex_all x1)))),
    (ex_high (op ++ x1 ++ x2 ++ x3) x4 12 6 (by decide)).trans ((ex_high (op ++ x1 ++ x2) x3 3 6 (by decide)).trans ((ex_low (op ++ x1) x2 0 6 (by decide)).trans (ex_all x2))),
    (ex_high (op ++ x1 ++ x2 ++ x3) x4 9 3 (by decide)).trans ((ex_low (op ++ x1 ++ x2) x3 0 3 (by decide)).trans (ex_all x3)),
    (ex_low (op ++ x1 ++ x2 ++ x3) x4 0 9 (by decide)).trans (ex_all x4)⟩

theorem layout_8_6_6_4_8 {w : BitVec 32} (op : BitVec 8) (x1 : BitVec 6) (x2 : BitVec 6) (x3 : BitVec 4) (x4 : BitVec 8)
    (h : op ++ x1 ++ x2 ++ x3 ++ x4 = w) :
    ex 28 4 w = op.extractLsb' 4 4 ∧
    ex 24 4 w = op.extractLsb' 0 4 ∧
    ex 18 6 w = x1 ∧
    ex 12 6 w = x2 ∧
    ex 8 4 w = x3 ∧
    ex 0 8 w = x4 := by
  subst h
  exact ⟨(ex_high (op ++ x1 ++ x2 ++ x3) x4 28 4 (by decide)).trans ((ex_high (op ++ x1 ++ x2) x3 20 4 (by decide)).trans ((ex_high (op ++ x1) x2 16 4 (by decide)).trans (ex_high op x1 10 4 (by decide)))),
    (ex_high (op ++ x1 ++ x2 ++ x3) x4 24 4 (by decide)).trans ((ex_high (op ++ x1 ++ x2) x3 16 4 (by decide)).trans ((ex_high (op ++ x1) x2 12 4 (by decide)).trans (ex_high op x1 6 4 (by decide)))),
    (ex_high (op ++ x1 ++ x2 ++ x3) x4 18 6 (by decide)).trans ((ex_high (op ++ x1 ++ x2) x3 10 6 (by decide)).trans ((ex_high (op ++ x1) x2 6 6 (by decide)).trans ((ex_low op x1 0 6 (by decide)).trans (ex_all x1)))),
    (ex_high (op ++ x1 ++ x2 ++ x3) x4 12 6 (by decide)).trans ((ex_high (op ++ x1 ++ x2) x3 4 6 (by decide)).trans ((ex_low (op ++ x1) x2 0 6 (by decide)).trans (ex_all x2))),
    (ex_high (op ++ x1 ++ x2 ++ x3) x4 8 4 (by decide)).trans ((ex_low (op ++ x1 ++ x2) x3 0 4 (by decide)).trans (ex_all x3)),
    (ex_low (op ++ x1 ++ x2 ++ x3) x4 0 8 (by decide)).trans (ex_all x4)⟩

theorem layout_8_6_6_5_1_1_1_1_3 {w : BitVec 32} (op : BitVec 8) (x1 : BitVec 6) (x2 : BitVec 6) (x3 : BitVec 5) (x4 : BitVec 1) (x5 : BitVec 1) (x6 : BitVec 1) (x7 : BitVec 1) (x8 : BitVec 3)
    (h : op ++ x1 ++ x2 ++ x3 ++ x4 ++ x5 ++ x6 ++ x7 ++ x8 = w) :
    ex 28 4 w = op.extractLsb' 4 4 ∧
    ex 24 4 w = op.extractLsb' 0 4 ∧
    ex 18 6 w = x1 ∧
    ex 12 6 w = x2 ∧
    ex 7 5 w = x3 ∧
    ex 6 1 w = x4 ∧
    ex 5 1 w = x5 ∧
    ex 4 1 w = x6 ∧
    ex 3 1 w = x7 ∧
    ex 0 3 w = x8 := by
  subst h
  exact ⟨(ex_high (op ++ x1 ++ x2 ++ x3 ++ x4 ++ x5 ++ x6 ++ x7) x8 28 4 (by decide)).trans ((ex_high (op ++ x1 ++ x2 ++ x3 ++ x4 ++ x5 ++ x6) x7 25 4 (by decide)).trans ((ex_high (op ++ x1 ++ x2 ++ x3 ++ x4 ++ x5) x6 24 4 (by decide)).trans ((ex_high (op ++ x1 ++ x2 ++ x3 ++ x4) x5 23 4 (by decide)).trans ((ex_high (op ++ x1 ++ x2 ++ x3) x4 22 4 (by decide)).trans ((ex_high (op ++ x1 ++ x2) x3 21 4 (by decide)).trans ((ex_high (op ++ x1) x2 16 4 (by decide)).trans (ex_high op x1 10 4 (by decide)))))))),
    (ex_high (op ++ x1 ++ x2 ++ x3 ++ x4 ++ x5 ++ x6 ++ x7) x8 24 4 (by decide)).trans ((ex_high (op ++ x1 ++ x2 ++ x3 ++ x4 ++ x5 ++ x6) x7 21 4 (by decide)).trans ((ex_high (op ++ x1 ++ x2 ++ x3 ++ x4 ++ x5) x6 20 4 (by decide)).trans ((ex_high (op ++ x1 ++ x2 ++ x3 ++ x4) x5 19 4 (by decide)).trans ((ex_high (op ++ x1 ++ x2 ++ x3) x4 18 4 (by decide)).trans ((ex_high (op ++ x1 ++ x2) x3 17 4 (by decide)).trans ((ex_high (op ++ x1) x2 12 4 (by decide)).trans (ex_high op x1 6 4 (by decide)))))))),
    (ex_high (op ++ x1 ++ x2 ++ x3 ++ x4 ++ x5 ++ x6 ++ x7) x8 18 6 (by decide)).trans ((ex_high (op ++ x1 ++ x2 ++ x3 ++ x4 ++ x5 ++ x6) x7 15 6 (by decide)).trans ((ex_high (op ++ x1 ++ x2 ++ x3 ++ x4 ++ x5) x6 14 6 (by decide)).trans ((ex_high (op ++ x1 ++ x2 ++ x3 ++ x4) x5 13 6 (by decide)).trans ((ex_high (op ++ x1 ++ x2 ++ x3) x4 12 6 (by decide)).trans ((ex_high (op ++ x1 ++ x2) x3 11 6 (by decide)).trans ((ex_high (op ++ x1) x2 6 6 (by decide)).trans ((ex_low op x1 0 6 (by decide)).trans (ex_all x1)))))))),
    (ex_high (op ++ x1 ++ x2 ++ x3 ++ x4 ++ x5 ++ x6 ++ x7) x8 12 6 (by decide)).trans ((ex_high (op ++ x1 ++ x2 ++ x3 ++ x4 ++ x5 ++ x6) x7 9 6 (by decide)).trans ((ex_high (op ++ x1 ++ x2 ++ x3 ++ x4 ++ x5) x6 8 6 (by decide)).trans ((ex_high (op ++ x1 ++ x2 ++ x3 ++ x4) x5 7 6 (by decide)).trans ((ex_high (op ++ x1 ++ x2 ++ x3) x4 6 6 (by decide)).trans ((ex_high (op ++ x1 ++ x2) x3 5 6 (by decide)).trans ((ex_low (op ++ x1) x2 0 6 (by decide)).trans (ex_all x2))))))),
    (ex_high (op ++ x1 ++ x2 ++ x3 ++ x4 ++ x5 ++ x6 ++ x7) x8 7 5 (by decide)).trans ((ex_high (op ++ x1 ++ x2 ++ x3 ++ x4 ++ x5 ++ x6) x7 4 5 (by decide)).trans ((ex_high (op ++ x1 ++ x2 ++ x3 ++ x4 ++ x5) x6 3 5 (by decide)).trans ((ex_high (op ++ x1 ++ x2 ++ x3 ++ x4) x5 2 5 (by decide)).trans ((ex_high (op ++ x1 ++ x2 ++ x3) x4 1 5 (by decide)).trans ((ex_low (op ++ x1 ++ x2) x3 0 5 (by decide)).trans (ex_all x3)))))),
    (ex_high (op ++ x1 ++ x2 ++ x3 ++ x4 ++ x5 ++ x6 ++ x7) x8 6 1 (by decide)).trans ((ex_high (op ++ x1 ++ x2 ++ x3 ++ x4 ++ x5 ++ x6) x7 3 1 (by decide)).trans ((ex_high (op ++ x1 ++ x2 ++ x3 ++ x4 ++ x5) x6 2 1 (by decide)).trans ((ex_high (op ++ x1 ++ x2 ++ x3 ++ x4) x5 1 1 (by decide)).trans ((ex_low (op ++ x1 ++ x2 ++ x3) x4 0 1 (by decide)).trans (ex_all x4))))),
    (ex_high (op ++ x1 ++ x2 ++ x3 ++ x4 ++ x5 ++ x6 ++ x7) x8 5 1 (by decide)).trans ((ex_high (op ++ x1 ++ x2 ++ x3 ++ x4 ++ x5 ++ x6) x7 2 1 (by decide)).trans ((ex_high (op ++ x1 ++ x2 ++ x3 ++ x4 ++ x5) x6 1 1 (by decide)).trans ((ex_low (op ++ x1 ++ x2 ++ x3 ++ x4) x5 0 1 (by decide)).trans (ex_all x5)))),
    (ex_high (op ++ x1 ++ x2 ++ x3 ++ x4 ++ x5 ++ x6 ++ x7) x8 4 1 (by decide)).trans ((ex_high (op ++ x1 ++ x2 ++ x3 ++ x4 ++ x5 ++ x6) x7 1 1 (by decide)).trans ((ex_low (op ++ x1 ++ x2 ++ x3 ++ x4 ++ x5) x6 0 1 (by decide)).trans (ex_all x6))),
    (ex_high (op ++ x1 ++ x2 ++ x3 ++ x4 ++ x5 ++ x6 ++ x7) x8 3 1 (by decide)).trans ((ex_low (op ++ x1 ++ x2 ++ x3 ++ x4 ++ x5 ++ x6) x7 0 1 (by decide)).trans (ex_all x7)),
    (ex_low (op ++ x1 ++ x2 ++ x3 ++ x4 ++ x5 ++ x6 ++ x7) x8 0 3 (by decide)).trans (ex_all x8)⟩

theorem layout_8_6_6_5_2_1_1_1_1_1 {w : BitVec 32} (op : BitVec 8) (x1 : BitVec 6) (x2 : BitVec 6) (x3 : BitVec 5) (x4 : BitVec 2) (x5 : BitVec 1) (x6 : BitVec 1) (x7 : BitVec 1) (x8 : BitVec 1) (x9 : BitVec 1)
    (h : op ++ x1 ++ x2 ++ x3 ++ x4 ++ x5 ++ x6 ++ x7 ++ x8 ++ x9 = w) :
    ex 28 4 w = op.extractLsb' 4 4 ∧
    ex 24 4 w = op.extractLsb' 0 4 ∧
    ex 18 6 w = x1 ∧
    ex 12 6 w = x2 ∧
    ex 7 5 w = x3 ∧
    ex 5 2 w = x4 ∧
    ex 4 1 w = x5 ∧
    ex 3 1 w = x6 ∧
    ex 2 1 w = x7 ∧
    ex 1 1 w = x8 ∧
    ex 0 1 w = x9 := by
  subst h
  exact ⟨(ex_high (op ++ x1 ++ x2 ++ x3 ++ x4 ++ x5 ++ x6 ++ x7 ++ x8) x9 28 4 (by decide)).trans ((ex_high (op ++ x1 ++ x2 ++ x3 ++ x4 ++ x5 ++ x6 ++ x7) x8 27 4 (by decide)).trans ((ex_high (op ++ x1 ++ x2 ++ x3 ++ x4 ++ x5 ++ x6) x7 26 4 (by decide)).trans ((ex_high (op ++ x1 ++ x2 ++ x3 ++ x4 ++ x5) x6 25 4 (by decide)).trans ((ex_high (op ++ x1 ++ x2 ++ x3 ++ x4) x5 24 4 (by decide)).trans ((ex_high (op ++ x1 ++ x2 ++ x3) x4 23 4 (by decide)).trans ((ex_high (op ++ x1 ++ x2) x3 21 4 (by decide)).trans ((ex_high (op ++ x1) x2 16 4 (by decide)).trans (ex_high op x1 10 4 (by decide))))))))),
    (ex_high (op ++ x1 ++ x2 ++ x3 ++ x4 ++ x5 ++ x6 ++ x7 ++ x8) x9 24 4 (by decide)).trans ((ex_high (op ++ x1 ++ x2 ++ x3 ++ x4 ++ x5 ++ x6 ++ x7) x8 23 4 (by decide)).trans ((ex_high (op ++ x1 ++ x2 ++ x3 ++ x4 ++ x5 ++ x6) x7 22 4 (by decide)).trans ((ex_high (op ++ x1 ++ x2 ++ x3 ++ x4 ++ x5) x6 21 4 (by decide)).trans ((ex_high (op ++ x1 ++ x2 ++ x3 ++ x4) x5 20 4 (by decide)).trans ((ex_high (op ++ x1 ++ x2 ++ x3) x4 19 4 (by decide)).trans ((ex_high (op ++ x1 ++ x2) x3 17 4 (by decide)).trans ((ex_high (op ++ x1) x2 12 4 (by decide)).trans (ex_high op x1 6 4 (by decide))))))))),
    (ex_high (op ++ x1 ++ x2 ++ x3 ++ x4 ++ x5 ++ x6 ++ x7 ++ x8) x9 18 6 (by decide)).trans ((ex_high (op ++ x1 ++ x2 ++ x3 ++ x4 ++ x5 ++ x6 ++ x7) x8 17 6 (by decide)).trans ((ex_high (op ++ x1 ++ x2 ++ x3 ++ x4 ++ x5 ++ x6) x7 16 6 (by decide)).trans ((ex_high (op ++ x1 ++ x2 ++ x3 ++ x4 ++ x5) x6 15 6 (by decide)).trans ((ex_high (op ++ x1 ++ x2 ++ x3 ++ x4) x5 14 6 (by decide)).trans ((ex_high (op ++ x1 ++ x2 ++ x3) x4 13 6 (by decide)).trans ((ex_high (op ++ x1 ++ x2) x3 11 6 (by decide)).trans ((ex_high (op ++ x1) x2 6 6 (by decide)).trans ((ex_low op x1 0 6 (by decide)).trans (ex_all x1))))))))),
    (ex_high (op ++ x1 ++ x2 ++ x3 ++ x4 ++ x5 ++ x6 ++ x7 ++ x8) x9 12 6 (by decide)).trans ((ex_high (op ++ x1 ++ x2 ++ x3 ++ x4 ++ x5 ++ x6 ++ x7) x8 11 6 (by decide)).trans ((ex_high (op ++ x1 ++ x2 ++ x3 ++ x4 ++ x5 ++ x6) x7 10 6 (by decide)).trans ((ex_high (op ++ x1 ++ x2 ++ x3 ++ x4 ++ x5) x6 9 6 (by decide)).trans ((ex_high (op ++ x1 ++ x2 ++ x3 ++ x4) x5 8 6 (by decide)).trans ((ex_high (op ++ x1 ++ x2 ++ x3) x4 7 6 (by decide)).trans ((ex_high (op ++ x1 ++ x2) x3 5 6 (by decide)).trans ((ex_low (op ++ x1) x2 0 6 (by decide)).trans (ex_all x2)))))))),
    (ex_high (op ++ x1 ++ x2 ++ x3 ++ x4 ++ x5 ++ x6 ++ x7 ++ x8) x9 7 5 (by decide)).trans ((ex_high (op ++ x1 ++ x2 ++ x3 ++ x4 ++ x5 ++ x6 ++ x7) x8 6 5 (by decide)).trans ((ex_high (op ++ x1 ++ x2 ++ x3 ++ x4 ++ x5 ++ x6) x7 5 5 (by decide)).trans ((ex_high (op ++ x1 ++ x2 ++ x3 ++ x4 ++ x5) x6 4 5 (by decide)).trans ((ex_high (op ++ x1 ++ x2 ++ x3 ++ x4) x5 3 5 (by decide)).trans ((ex_high (op ++ x1 ++ x2 ++ x3) x4 2 5 (by decide)).trans ((ex_low (op ++ x1 ++ x2) x3 0 5 (by decide)).trans (ex_all x3))))))),
    (ex_high (op ++ x1 ++ x2 ++ x3 ++ x4 ++ x5 ++ x6 ++ x7 ++ x8) x9 5 2 (by decide)).trans ((ex_high (op ++ x1 ++ x2 ++ x3 ++ x4 ++ x5 ++ x6 ++ x7) x8 4 2 (by decide)).trans ((ex_high (op ++ x1 ++ x2 ++ x3 ++ x4 ++ x5 ++ x6) x7 3 2 (by decide)).trans ((ex_high (op ++ x1 ++ x2 ++ x3 ++ x4 ++ x5) x6 2 2 (by decide)).trans ((ex_high (op ++ x1 ++ x2 ++ x3 ++ x4) x5 1 2 (by decide)).trans ((ex_low (op ++ x1 ++ x2 ++ x3) x4 0 2 (by decide)).trans (ex_all x4)))))),
    (ex_high (op ++ x1 ++ x2 ++ x3 ++ x4 ++ x5 ++ x6 ++ x7 ++ x8) x9 4 1 (by decide)).trans ((ex_high (op ++ x1 ++ x2 ++ x3 ++ x4 ++ x5 ++ x6 ++ x7) x8 3 1 (by decide)).trans ((ex_high (op ++ x1 ++ x2 ++ x3 ++ x4 ++ x5 ++ x6) x7 2 1 (by decide)).trans ((ex_high (op ++ x1 ++ x2 ++ x3 ++ x4 ++ x5) x6 1 1 (by decide)).trans ((ex_low (op ++ x1 ++ x2 ++ x3 ++ x4) x5 0 1 (by decide)).trans (ex_all x5))))),
    (ex_high (op ++ x1 ++ x2 ++ x3 ++ x4 ++ x5 ++ x6 ++ x7 ++ x8) x9 3 1 (by decide)).trans ((ex_high (op ++ x1 ++ x2 ++ x3 ++ x4 ++ x5 ++ x6 ++ x7) x8 2 1 (by decide)).trans ((ex_high (op ++ x1 ++ x2 ++ x3 ++ x4 ++ x5 ++ x6) x7 1 1 (by decide)).trans ((ex_low (op ++ x1 ++ x2 ++ x3 ++ x4 ++ x5) x6 0 1 (by decide)).trans (ex_all x6)))),
    (ex_high (op ++ x1 ++ x2 ++ x3 ++ x4 ++ x5 ++ x6 ++ x7 ++ x8) x9 2 1 (by decide)).trans ((ex_high (op ++ x1 ++ x2 ++ x3 ++ x4 ++ x5 ++ x6 ++ x7) x8 1 1 (by decide)).trans ((ex_low (op ++ x1 ++ x2 ++ x3 ++ x4 ++ x5 ++ x6) x7 0 1 (by decide)).trans (ex_all x7))),
    (ex_high (op ++ x1 ++ x2 ++ x3 ++ x4 ++ x5 ++ x6 ++ x7 ++ x8) x9 1 1 (by decide)).trans ((ex_low (op ++ x1 ++ x2 ++ x3 ++ x4 ++ x5 ++ x6 ++ x7) x8 0 1 (by decide)).trans (ex_all x8)),
    (ex_low (op ++ x1 ++ x2 ++ x3 ++ x4 ++ x5 ++ x6 ++ x7 ++ x8) x9 0 1 (by decide)).trans (ex_all x9)⟩

theorem layout_8_6_6_5_3_2_1_1 {w : BitVec 32} (op : BitVec 8) (x1 : BitVec 6) (x2 : BitVec 6) (x3 : BitVec 5) (x4 : BitVec 3) (x5 : BitVec 2) (x6 : BitVec 1) (x7 : BitVec 1)
    (h : op ++ x1 ++ x2 ++ x3 ++ x4 ++ x5 ++ x6 ++ x7 = w) :
    ex 28 4 w = op.extractLsb' 4 4 ∧
    ex 24 4 w = op.extractLsb' 0 4 ∧
    ex 18 6 w = x1 ∧
    ex 12 6 w = x2 ∧
    ex 7 5 w = x3 ∧
    ex 4 3 w = x4 ∧
    ex 2 2 w = x5 ∧
    ex 1 1 w = x6 ∧
    ex 0 1 w = x7 := by
  subst h
  exact ⟨(ex_high (op ++ x1 ++ x2 ++ x3 ++ x4 ++ x5 ++ x6) x7 28 4 (by decide)).trans ((ex_high (op ++ x1 ++ x2 ++ x3 ++ x4 ++ x5) x6 27 4 (by decide)).trans ((ex_high (op ++ x1 ++ x2 ++ x3 ++ x4) x5 26 4 (by decide)).trans ((ex_high (op ++ x1 ++ x2 ++ x3) x4 24 4 (by decide)).trans ((ex_high (op ++ x1 ++ x2) x3 21 4 (by decide)).trans ((ex_high (op ++ x1) x2 16 4 (by decide)).trans (ex_high op x1 10 4 (by decide))))))),
    (ex_high (op ++ x1 ++ x2 ++ x3 ++ x4 ++ x5 ++ x6) x7 24 4 (by decide)).trans ((ex_high (op ++ x1 ++ x2 ++ x3 ++ x4 ++ x5) x6 23 4 (by decide)).trans ((ex_high (op ++ x1 ++ x2 ++ x3 ++ x4) x5 22 4 (by decide)).trans ((ex_high (op ++ x1 ++ x2 ++ x3) x4 20 4 (by decide)).trans ((ex_high (op ++ x1 ++ x2) x3 17 4 (by decide)).trans ((ex_high (op ++ x1) x2 12 4 (by decide)).trans (ex_high op x1 6 4 (by decide))))))),
    (ex_high (op ++ x1 ++ x2 ++ x3 ++ x4 ++ x5 ++ x6) x7 18 6 (by decide)).trans ((ex_high (op ++ x1 ++ x2 ++ x3 ++ x4 ++ x5) x6 17 6 (by decide)).trans ((ex_high (op ++ x1 ++ x2 ++ x3 ++ x4) x5 16 6 (by decide)).trans ((ex_high (op ++ x1 ++ x2 ++ x3) x4 14 6 (by decide)).trans ((ex_high (op ++ x1 ++ x2) x3 11 6 (by decide)).trans ((ex_high (op ++ x1) x2 6 6 (by decide)).trans ((ex_low op x1 0 6 (by decide)).trans (ex_all x1))))))),
    (ex_high (op ++ x1 ++ x2 ++ x3 ++ x4 ++ x5 ++ x6) x7 12 6 (by decide)).trans ((ex_high (op ++ x1 ++ x2 ++ x3 ++ x4 ++ x5) x6 11 6 (by decide)).trans ((ex_high (op ++ x1 ++ x2 ++ x3 ++ x4) x5 10 6 (by decide)).trans ((ex_high (op ++ x1 ++ x2 ++ x3) x4 8 6 (by decide)).trans ((ex_high (op ++ x1 ++ x2) x3 5 6 (by decide)).trans ((ex_low (op ++ x1) x2 0 6 (by decide)).trans (ex_all x2)))))),
    (ex_high (op ++ x1 ++ x2 ++ x3 ++ x4 ++ x5 ++ x6) x7 7 5 (by decide)).trans ((ex_high (op ++ x1 ++ x2 ++ x3 ++ x4 ++ x5) x6 6 5 (by decide)).trans ((ex_high (op ++ x1 ++ x2 ++ x3 ++ x4) x5 5 5 (by decide)).trans ((ex_high (op ++ x1 ++ x2 ++ x3) x4 3 5 (by decide)).trans ((ex_low (op ++ x1 ++ x2) x3 0 5 (by decide)).trans (ex_all x3))))),
    (ex_high (op ++ x1 ++ x2 ++ x3 ++ x4 ++ x5 ++ x6) x7 4 3 (by decide)).trans ((ex_high (op ++ x1 ++ x2 ++ x3 ++ x4 ++ x5) x6 3 3 (by decide)).trans ((ex_high (op ++ x1 ++ x2 ++ x3 ++ x4) x5 2 3 (by decide)).trans ((ex_low (op ++ x1 ++ x2 ++ x3) x4 0 3 (by decide)).trans (ex_all x4)))),
    (ex_high (op ++ x1 ++ x2 ++ x3 ++ x4 ++ x5 ++ x6) x7 2 2 (by decide)).trans ((ex_high (op ++ x1 ++ x2 ++ x3 ++ x4 ++ x5) x6 1 2 (by decide)).trans ((ex_low (op ++ x1 ++ x2 ++ x3 ++ x4) x5 0 2 (by decide)).trans (ex_all x5))),
    (ex_high (op ++ x1 ++ x2 ++ x3 ++ x4 ++ x5 ++ x6) x7 1 1 (by decide)).trans ((ex_low (op ++ x1 ++ x2 ++ x3 ++ x4 ++ x5) x6 0 1 (by decide)).trans (ex_all x6)),
    (ex_low (op ++ x1 ++ x2 ++ x3 ++ x4 ++ x5 ++ x6) x7 0 1 (by decide)).trans (ex_all x7)⟩

theorem layout_8_6_6_5_3_2_2 {w : BitVec 32} (op : BitVec 8) (x1 : BitVec 6) (x2 : BitVec 6) (x3 : BitVec 5) (x4 : BitVec 3) (x5 : BitVec 2) (x6 : BitVec 2)
    (h : op ++ x1 ++ x2 ++ x3 ++ x4 ++ x5 ++ x6 = w) :
    ex 28 4 w = op.extractLsb' 4 4 ∧
    ex 24 4 w = op.extractLsb' 0 4 ∧
    ex 18 6 w = x1 ∧
    ex 12 6 w = x2 ∧
    ex 7 5 w = x3 ∧
    ex 4 3 w = x4 ∧
    ex 2 2 w = x5 ∧
    ex 0 2 w = x6 := by
  subst h
  exact ⟨(ex_high (op ++ x1 ++ x2 ++ x3 ++ x4 ++ x5) x6 28 4 (by decide)).trans ((ex_high (op ++ x1 ++ x2 ++ x3 ++ x4) x5 26 4 (by decide)).trans ((ex_high (op ++ x1 ++ x2 ++ x3) x4 24 4 (by decide)).trans ((ex_high (op ++ x1 ++ x2) x3 21 4 (by decide)).trans ((ex_high (op ++ x1) x2 16 4 (by decide)).trans (ex_high op x1 10 4 (by decide)))))),
    (ex_high (op ++ x1 ++ x2 ++ x3 ++ x4 ++ x5) x6 24 4 (by decide)).trans ((ex_high (op ++ x1 ++ x2 ++ x3 ++ x4) x5 22 4 (by decide)).trans ((ex_high (op ++ x1 ++ x2 ++ x3) x4 20 4 (by decide)).trans ((ex_high (op ++ x1 ++ x2) x3 17 4 (by decide)).trans ((ex_high (op ++ x1) x2 12 4 (by decide)).trans (ex_high op x1 6 4 (by decide)))))),
    (ex_high (op ++ x1 ++ x2 ++ x3 ++ x4 ++ x5) x6 18 6 (by decide)).trans ((ex_high (op ++ x1 ++ x2 ++ x3 ++ x4) x5 16 6 (by decide)).trans ((ex_high (op ++ x1 ++ x2 ++ x3) x4 14 6 (by decide)).trans ((ex_high (op ++ x1 ++ x2) x3 11 6 (by decide)).trans ((ex_high (op ++ x1) x2 6 6 (by decide)).trans ((ex_low op x1 0 6 (by decide)).trans (ex_all x1)))))),
    (ex_high (op ++ x1 ++ x2 ++ x3 ++ x4 ++ x5) x6 12 6 (by decide)).trans ((ex_high (op ++ x1 ++ x2 ++ x3 ++ x4) x5 10 6 (by decide)).trans ((ex_high (op ++ x1 ++ x2 ++ x3) x4 8 6 (by decide)).trans ((ex_high (op ++ x1 ++ x2) x3 5 6 (by decide)).trans ((ex_low (op ++ x1) x2 0 6 (by decide)).trans (ex_all x2))))),
    (ex_high (op ++ x1 ++ x2 ++ x3 ++ x4 ++ x5) x6 7 5 (by decide)).trans ((ex_high (op ++ x1 ++ x2 ++ x3 ++ x4) x5 5 5 (by decide)).trans ((ex_high (op ++ x1 ++ x2 ++ x3) x4 3 5 (by decide)).trans ((ex_low (op ++ x1 ++ x2) x3 0 5 (by decide)).trans (ex_all x3)))),
    (ex_high (op ++ x1 ++ x2 ++ x3 ++ x4 ++ x5) x6 4 3 (by decide)).trans ((ex_high (op ++ x1 ++ x2 ++ x3 ++ x4) x5 2 3 (by decide)).trans ((ex_low (op ++ x1 ++ x2 ++ x3) x4 0 3 (by decide)).trans (ex_all x4))),
    (ex_high (op ++ x1 ++ x2 ++ x3 ++ x4 ++ x5) x6 2 2 (by decide)).trans ((ex_low (op ++ x1 ++ x2 ++ x3 ++ x4) x5 0 2 (by decide)).trans (ex_all x5)),
    (ex_low (op ++ x1 ++ x2 ++ x3 ++ x4 ++ x5) x6 0 2 (by decide)).trans (ex_all x6)⟩

theorem layout_8_6_6_5_3_3_1 {w : BitVec 32} (op : BitVec 8) (x1 : BitVec 6) (x2 : BitVec 6) (x3 : BitVec 5) (x4 : BitVec 3) (x5 : BitVec 3) (x6 : BitVec 1)
    (h : op ++ x1 ++ x2 ++ x3 ++ x4 ++ x5 ++ x6 = w) :
    ex 28 4 w = op.extractLsb' 4 4 ∧
    ex 24 4 w = op.extractLsb' 0 4 ∧
    ex 18 6 w = x1 ∧
    ex 12 6 w = x2 ∧
    ex 7 5 w = x3 ∧
    ex 4 3 w = x4 ∧
    ex 1 3 w = x5 ∧
    ex 0 1 w = x6 := by
  subst h
  exact ⟨(ex_high (op ++ x1 ++ x2 ++ x3 ++ x4 ++ x5) x6 28 4 (by decide)).trans ((ex_high (op ++ x1 ++ x2 ++ x3 ++ x4) x5 27 4 (by decide)).trans ((ex_high (op ++ x1 ++ x2 ++ x3) x4 24 4 (by decide)).trans ((ex_high (op ++ x1 ++ x2) x3 21 4 (by decide)).trans ((ex_high (op ++ x1) x2 16 4 (by decide)).trans (ex_high op x1 10 4 (by decide)))))),
    (ex_high (op ++ x1 ++ x2 ++ x3 ++ x4 ++ x5) x6 24 4 (by decide)).trans ((ex_high (op ++ x1 ++ x2 ++ x3 ++ x4) x5 23 4 (by decide)).trans ((ex_high (op ++ x1 ++ x2 ++ x3) x4 20 4 (by decide)).trans ((ex_high (op ++ x1 ++ x2) x3 17 4 (by decide)).trans ((ex_high (op ++ x1) x2 12 4 (by decide)).trans (ex_high op x1 6 4 (by decide)))))),
    (ex_high (op ++ x1 ++ x2 ++ x3 ++ x4 ++ x5) x6 18 6 (by decide)).trans ((ex_high (op ++ x1 ++ x2 ++ x3 ++ x4) x5 17 6 (by decide)).trans ((ex_high (op ++ x1 ++ x2 ++ x3) x4 14 6 (by decide)).trans ((ex_high (op ++ x1 ++ x2) x3 11 6 (by decide)).trans ((ex_high (op ++ x1) x2 6 6 (by decide)).trans ((ex_low op x1 0 6 (by decide)).trans (ex_all x1)))))),
    (ex_high (op ++ x1 ++ x2 ++ x3 ++ x4 ++ x5) x6 12 6 (by decide)).trans ((ex_high (op ++ x1 ++ x2 ++ x3 ++ x4) x5 11 6 (by decide)).trans ((ex_high (op ++ x1 ++ x2 ++ x3) x4 8 6 (by decide)).trans ((ex_high (op ++ x1 ++ x2) x3 5 6 (by decide)).trans ((ex_low (op ++ x1) x2 0 6 (by decide)).trans (ex_all x2))))),
    (ex_high (op ++ x1 ++ x2 ++ x3 ++ x4 ++ x5) x6 7 5 (by decide)).trans ((ex_high (op ++ x1 ++ x2 ++ x3 ++ x4) x5 6 5 (by decide)).trans ((ex_high (op ++ x1 ++ x2 ++ x3) x4 3 5 (by decide)).trans ((ex_low (op ++ x1 ++ x2) x3 0 5 (by decide)).trans (ex_all x3)))),
    (ex_high (op ++ x1 ++ x2 ++ x3 ++ x4 ++ x5) x6 4 3 (by decide)).trans ((ex_high (op ++ x1 ++ x2 ++ x3 ++ x4) x5 3 3 (by decide)).trans ((ex_low (op ++ x1 ++ x2 ++ x3) x4 0 3 (by decide)).trans (ex_all x4))),
    (ex_high (op ++ x1 ++ x2 ++ x3 ++ x4 ++ x5) x6 1 3 (by decide)).trans ((ex_low (op ++ x1 ++ x2 ++ x3 ++ x4) x5 0 3 (by decide)).trans (ex_all x5)),
    (ex_low (op ++ x1 ++ x2 ++ x3 ++ x4 ++ x5) x6 0 1 (by decide)).trans (ex_all x6)⟩

theorem layout_8_6_6_5_3_4 {w : BitVec 32} (op : BitVec 8) (x1 : BitVec 6) (x2 : BitVec 6) (x3 : BitVec 5) (x4 : BitVec 3) (x5 : BitVec 4)
    (h : op ++ x1 ++ x2 ++ x3 ++ x4 ++ x5 = w) :
    ex 28 4 w = op.extractLsb' 4 4 ∧
    ex 24 4 w = op.extractLsb' 0 4 ∧
    ex 18 6 w = x1 ∧
    ex 12 6 w = x2 ∧
    ex 7 5 w = x3 ∧
    ex 4 3 w = x4 ∧
    ex 0 4 w = x5 := by
  subst h
  exact ⟨(ex_high (op ++ x1 ++ x2 ++ x3 ++ x4) x5 28 4 (by decide)).trans ((ex_high (op ++ x1 ++ x2 ++ x3) x4 24 4 (by decide)).trans ((ex_high (op ++ x1 ++ x2) x3 21 4 (by decide)).trans ((ex_high (op ++ x1) x2 16 4 (by decide)).trans (ex_high op x1 10 4 (by decide))))),
    (ex_high (op ++ x1 ++ x2 ++ x3 ++ x4) x5 24 4 (by decide)).trans ((ex_high (op ++ x1 ++ x2 ++ x3) x4 20 4 (by decide)).trans ((ex_high (op ++ x1 ++ x2) x3 17 4 (by decide)).trans ((ex_high (op ++ x1) x2 12 4 (by decide)).trans (ex_high op x1 6 4 (by decide))))),
    (ex_high (op ++ x1 ++ x2 ++ x3 ++ x4) x5 18 6 (by decide)).trans ((ex_high (op ++ x1 ++ x2 ++ x3) x4 14 6 (by decide)).trans ((ex_high (op ++ x1 ++ x2) x3 11 6 (by decide)).trans ((ex_high (op ++ x1) x2 6 6 (by decide)).trans ((ex_low op x1 0 6 (by decide)).trans (ex_all x1))))),
    (ex_high (op ++ x1 ++ x2 ++ x3 ++ x4) x5 12 6 (by decide)).trans ((ex_high (op ++ x1 ++ x2 ++ x3) x4 8 6 (by decide)).trans ((ex_high (op ++ x1 ++ x2) x3 5 6 (by decide)).trans ((ex_low (op ++ x1) x2 0 6 (by decide)).trans (ex_all x2)))),
    (ex_high (op ++ x1 ++ x2 ++ x3 ++ x4) x5 7 5 (by decide)).trans ((ex_high (op ++ x1 ++ x2 ++ x3) x4 3 5 (by decide)).trans ((ex_low (op ++ x1 ++ x2) x3 0 5 (by decide)).trans (ex_all x3))),
    (ex_high (op ++ x1 ++ x2 ++ x3 ++ x4) x5 4 3 (by decide)).trans ((ex_low (op ++ x1 ++ x2 ++ x3) x4 0 3 (by decide)).trans (ex_all x4)),
    (ex_low (op ++ x1 ++ x2 ++ x3 ++ x4) x5 0 4 (by decide)).trans (ex_all x5)⟩

theorem layout_8_6_6_5_4_1_1_1 {w : BitVec 32} (op : BitVec 8) (x1 : BitVec 6) (x2 : BitVec 6) (x3 : BitVec 5) (x4 : BitVec 4) (x5 : BitVec 1) (x6 : BitVec 1) (x7 : BitVec 1)
    (h : op ++ x1 ++ x2 ++ x3 ++ x4 ++ x5 ++ x6 ++ x7 = w) :
    ex 28 4 w = op.extractLsb' 4 4 ∧
    ex 24 4 w = op.extractLsb' 0 4 ∧
    ex 18 6 w = x1 ∧
    ex 12 6 w = x2 ∧
    ex 7 5 w = x3 ∧
    ex 3 4 w = x4 ∧
    ex 2 1 w = x5 ∧
    ex 1 1 w = x6 ∧
    ex 0 1 w = x7 := by
  subst h
  exact ⟨(ex_high (op ++ x1 ++ x2 ++ x3 ++ x4 ++ x5 ++ x6) x7 28 4 (by decide)).trans ((ex_high (op ++ x1 ++ x2 ++ x3 ++ x4 ++ x5) x6 27 4 (by decide)).trans ((ex_high (op ++ x1 ++ x2 ++ x3 ++ x4) x5 26 4 (by decide)).trans ((ex_high (op ++ x1 ++ x2 ++ x3) x4 25 4 (by decide)).trans ((ex_high (op ++ x1 ++ x2) x3 21 4 (by decide)).trans ((ex_high (op ++ x1) x2 16 4 (by decide)).trans (ex_high op x1 10 4 (by decide))))))),
    (ex_high (op ++ x1 ++ x2 ++ x3 ++ x4 ++ x5 ++ x6) x7 24 4 (by decide)).trans ((ex_high (op ++ x1 ++ x2 ++ x3 ++ x4 ++ x5) x6 23 4 (by decide)).trans ((ex_high (op ++ x1 ++ x2 ++ x3 ++ x4) x5 22 4 (by decide)).trans ((ex_high (op ++ x1 ++ x2 ++ x3) x4 21 4 (by decide)).trans ((ex_high (op ++ x1 ++ x2) x3 17 4 (by decide)).trans ((ex_high (op ++ x1) x2 12 4 (by decide)).trans (ex_high op x1 6 4 (by decide))))))),
    (ex_high (op ++ x1 ++ x2 ++ x3 ++ x4 ++ x5 ++ x6) x7 18 6 (by decide)).trans ((ex_high (op ++ x1 ++ x2 ++ x3 ++ x4 ++ x5) x6 17 6 (by decide)).trans ((ex_high (op ++ x1 ++ x2 ++ x3 ++ x4) x5 16 6 (by decide)).trans ((ex_high (op ++ x1 ++ x2 ++ x3) x4 15 6 (by decide)).trans ((ex_high (op ++ x1 ++ x2) x3 11 6 (by decide)).trans ((ex_high (op ++ x1) x2 6 6 (by decide)).trans ((ex_low op x1 0 6 (by decide)).trans (ex_all x1))))))),
    (ex_high (op ++ x1 ++ x2 ++ x3 ++ x4 ++ x5 ++ x6) x7 12 6 (by decide)).trans ((ex_high (op ++ x1 ++ x2 ++ x3 ++ x4 ++ x5) x6 11 6 (by decide)).trans ((ex_high (op ++ x1 ++ x2 ++ x3 ++ x4) x5 10 6 (by decide)).trans ((ex_high (op ++ x1 ++ x2 ++ x3) x4 9 6 (by decide)).trans ((ex_high (op ++ x1 ++ x2) x3 5 6 (by decide)).trans ((ex_low (op ++ x1) x2 0 6 (by decide)).trans (ex_all x2)))))),
    (ex_high (op ++ x1 ++ x2 ++ x3 ++ x4 ++ x5 ++ x6) x7 7 5 (by decide)).trans ((ex_high (op ++ x1 ++ x2 ++ x3 ++ x4 ++ x5) x6 6 5 (by decide)).trans ((ex_high (op ++ x1 ++ x2 ++ x3 ++ x4) x5 5 5 (by decide)).trans ((ex_high (op ++ x1 ++ x2 ++ x3) x4 4 5 (by decide)).trans ((ex_low (op ++ x1 ++ x2) x3 0 5 (by decide)).trans (ex_all x3))))),
    (ex_high (op ++ x1 ++ x2 ++ x3 ++ x4 ++ x5 ++ x6) x7 3 4 (by decide)).trans ((ex_high (op ++ x1 ++ x2 ++ x3 ++ x4 ++ x5) x6 2 4 (by decide)).trans ((ex_high (op ++ x1 ++ x2 ++ x3 ++ x4) x5 1 4 (by decide)).trans ((ex_low (op ++ x1 ++ x2 ++ x3) x4 0 4 (by decide)).trans (ex_all x4)))),
    (ex_high (op ++ x1 ++ x2 ++ x3 ++ x4 ++ x5 ++ x6) x7 2 1 (by decide)).trans ((ex_high (op ++ x1 ++ x2 ++ x3 ++ x4 ++ x5) x6 1 1 (by decide)).trans ((ex_low (op ++ x1 ++ x2 ++ x3 ++ x4) x5 0 1 (by decide)).trans (ex_all x5))),
    (ex_high (op ++ x1 ++ x2 ++ x3 ++ x4 ++ x5 ++ x6) x7 1 1 (by decide)).trans ((ex_low (op ++ x1 ++ x2 ++ x3 ++ x4 ++ x5) x6 0 1 (by decide)).trans (ex_all x6)),
    (ex_low (op ++ x1 ++ x2 ++ x3 ++ x4 ++ x5 ++ x6) x7 0 1 (by decide)).trans (ex_all x7)⟩

theorem layout_8_6_6_5_4_1_2 {w : BitVec 32} (op : BitVec 8) (x1 : BitVec 6) (x2 : BitVec 6) (x3 : BitVec 5) (x4 : BitVec 4) (x5 : BitVec 1) (x6 : BitVec 2)
    (h : op ++ x1 ++ x2 ++ x3 ++ x4 ++ x5 ++ x6 = w) :
    ex 28 4 w = op.extractLsb' 4 4 ∧
    ex 24 4 w = op.extractLsb' 0 4 ∧
    ex 18 6 w = x1 ∧
    ex 12 6 w = x2 ∧
    ex 7 5 w = x3 ∧
    ex 3 4 w = x4 ∧
    ex 2 1 w = x5 ∧
    ex 0 2 w = x6 := by
  subst h
  exact ⟨(ex_high (op ++ x1 ++ x2 ++ x3 ++ x4 ++ x5) x6 28 4 (by decide)).trans ((ex_high (op ++ x1 ++ x2 ++ x3 ++ x4) x5 26 4 (by decide)).trans ((ex_high (op ++ x1 ++ x2 ++ x3) x4 25 4 (by decide)).trans ((ex_high (op ++ x1 ++ x2) x3 21 4 (by decide)).trans ((ex_high (op ++ x1) x2 16 4 (by decide)).trans (ex_high op x1 10 4 (by decide)))))),
    (ex_high (op ++ x1 ++ x2 ++ x3 ++ x4 ++ x5) x6 24 4 (by decide)).trans ((ex_high (op ++ x1 ++ x2 ++ x3 ++ x4) x5 22 4 (by decide)).trans ((ex_high (op ++ x1 ++ x2 ++ x3) x4 21 4 (by decide)).trans ((ex_high (op ++ x1 ++ x2) x3 17 4 (by decide)).trans ((ex_high (op ++ x1) x2 12 4 (by decide)).trans (ex_high op x1 6 4 (by decide)))))),
    (ex_high (op ++ x1 ++ x2 ++ x3 ++ x4 ++ x5) x6 18 6 (by decide)).trans ((ex_high (op ++ x1 ++ x2 ++ x3 ++ x4) x5 16 6 (by decide)).trans ((ex_high (op ++ x1 ++ x2 ++ x3) x4 15 6 (by decide)).trans ((ex_high (op ++ x1 ++ x2) x3 11 6 (by decide)).trans ((ex_high (op ++ x1) x2 6 6 (by decide)).trans ((ex_low op x1 0 6 (by decide)).trans (ex_all x1)))))),
    (ex_high (op ++ x1 ++ x2 ++ x3 ++ x4 ++ x5) x6 12 6 (by decide)).trans ((ex_high (op ++ x1 ++ x2 ++ x3 ++ x4) x5 10 6 (by decide)).trans ((ex_high (op ++ x1 ++ x2 ++ x3) x4 9 6 (by decide)).trans ((ex_high (op ++ x1 ++ x2) x3 5 6 (by decide)).trans ((ex_low (op ++ x1) x2 0 6 (by decide)).trans (ex_all x2))))),
    (ex_high (op ++ x1 ++ x2 ++ x3 ++ x4 ++ x5) x6 7 5 (by decide)).trans ((ex_high (op ++ x1 ++ x2 ++ x3 ++ x4) x5 5 5 (by decide)).trans ((ex_high (op ++ x1 ++ x2 ++ x3) x4 4 5 (by decide)).trans ((ex_low (op ++ x1 ++ x2) x3 0 5 (by decide)).trans (ex_all x3)))),
    (ex_high (op ++ x1 ++ x2 ++ x3 ++ x4 ++ x5) x6 3 4 (by decide)).trans ((ex_high (op ++ x1 ++ x2 ++ x3 ++ x4) x5 1 4 (by decide)).trans ((ex_low (op ++ x1 ++ x2 ++ x3) x4 0 4 (by decide)).trans (ex_all x4))),
    (ex_high (op ++ x1 ++ x2 ++ x3 ++ x4 ++ x5) x6 2 1 (by decide)).trans ((ex_low (op ++ x1 ++ x2 ++ x3 ++ x4) x5 0 1 (by decide)).trans (ex_all x5)),
    (ex_low (op ++ x1 ++ x2 ++ x3 ++ x4 ++ x5) x6 0 2 (by decide)).trans (ex_all x6)⟩

theorem layout_8_6_6_5_5_2 {w : BitVec 32} (op : BitVec 8) (x1 : BitVec 6) (x2 : BitVec 6) (x3 : BitVec 5) (x4 : BitVec 5) (x5 : BitVec 2)
    (h : op ++ x1 ++ x2 ++ x3 ++ x4 ++ x5 = w) :
    ex 28 4 w = op.extractLsb' 4 4 ∧
    ex 24 4 w = op.extractLsb' 0 4 ∧
    ex 18 6 w = x1 ∧
    ex 12 6 w = x2 ∧
    ex 7 5 w = x3 ∧
    ex 2 5 w = x4 ∧
    ex 0 2 w = x5 := by
  subst h
  exact ⟨(ex_high (op ++ x1 ++ x2 ++ x3 ++ x4) x5 28 4 (by decide)).trans ((ex_high (op ++ x1 ++ x2 ++ x3) x4 26 4 (by decide)).trans ((ex_high (op ++ x1 ++ x2) x3 21 4 (by decide)).trans ((ex_high (op ++ x1) x2 16 4 (by decide)).trans (ex_high op x1 10 4 (by decide))))),
    (ex_high (op ++ x1 ++ x2 ++ x3 ++ x4) x5 24 4 (by decide)).trans ((ex_high (op ++ x1 ++ x2 ++ x3) x4 22 4 (by decide)).trans ((ex_high (op ++ x1 ++ x2) x3 17 4 (by decide)).trans ((ex_high (op ++ x1) x2 12 4 (by decide)).trans (ex_high op x1 6 4 (by decide))))),
    (ex_high (op ++ x1 ++ x2 ++ x3 ++ x4) x5 18 6 (by decide)).trans ((ex_high (op ++ x1 ++ x2 ++ x3) x4 16 6 (by decide)).trans ((ex_high (op ++ x1 ++ x2) x3 11 6 (by decide)).trans ((ex_high (op ++ x1) x2 6 6 (by decide)).trans ((ex_low op x1 0 6 (by decide)).trans (ex_all x1))))),
    (ex_high (op ++ x1 ++ x2 ++ x3 ++ x4) x5 12 6 (by decide)).trans ((ex_high (op ++ x1 ++ x2 ++ x3) x4 10 6 (by decide)).trans ((ex_high (op ++ x1 ++ x2) x3 5 6 (by decide)).trans ((ex_low (op ++ x1) x2 0 6 (by decide)).trans (ex_all x2)))),
    (ex_high (op ++ x1 ++ x2 ++ x3 ++ x4) x5 7 5 (by decide)).trans ((ex_high (op ++ x1 ++ x2 ++ x3) x4 5 5 (by decide)).trans ((ex_low (op ++ x1 ++ x2) x3 0 5 (by decide)).trans (ex_all x3))),
    (ex_high (op ++ x1 ++ x2 ++ x3 ++ x4) x5 2 5 (by decide)).trans ((ex_low (op ++ x1 ++ x2 ++ x3) x4 0 5 (by decide)).trans (ex_all x4)),
    (ex_low (op ++ x1 ++ x2 ++ x3 ++ x4) x5 0 2 (by decide)).trans (ex_all x5)⟩

theorem layout_8_6_6_5_6_1 {w : BitVec 32} (op : BitVec 8) (x1 : BitVec 6) (x2 : BitVec 6) (x3 : BitVec 5) (x4 : BitVec 6) (x5 : BitVec 1)
    (h : op ++ x1 ++ x2 ++ x3 ++ x4 ++ x5 = w) :
    ex 28 4 w = op.extractLsb' 4 4 ∧
    ex 24 4 w = op.extractLsb' 0 4 ∧
    ex 18 6 w = x1 ∧
    ex 12 6 w = x2 ∧
    ex 7 5 w = x3 ∧
    ex 1 6 w = x4 ∧
    ex 0 1 w = x5 := by
  subst h
  exact ⟨(ex_high (op ++ x1 ++ x2 ++ x3 ++ x4) x5 28 4 (by decide)).trans ((ex_high (op ++ x1 ++ x2 ++ x3) x4 27 4 (by decide)).trans ((ex_high (op ++ x1 ++ x2) x3 21 4 (by decide)).trans ((ex_high (op ++ x1) x2 16 4 (by decide)).trans (ex_high op x1 10 4 (by decide))))),
    (ex_high (op ++ x1 ++ x2 ++ x3 ++ x4) x5 24 4 (by decide)).trans ((ex_high (op ++ x1 ++ x2 ++ x3) x4 23 4 (by decide)).trans ((ex_high (op ++ x1 ++ x2) x3 17 4 (by decide)).trans ((ex_high (op ++ x1) x2 12 4 (by decide)).trans (ex_high op x1 6 4 (by decide))))),
    (ex_high (op ++ x1 ++ x2 ++ x3 ++ x4) x5 18 6 (by decide)).trans ((ex_high (op ++ x1 ++ x2 ++ x3) x4 17 6 (by decide)).trans ((ex_high (op ++ x1 ++ x2) x3 11 6 (by decide)).trans ((ex_high (op ++ x1) x2 6 6 (by decide)).trans ((ex_low op x1 0 6 (by decide)).trans (ex_all x1))))),
    (ex_high (op ++ x1 ++ x2 ++ x3 ++ x4) x5 12 6 (by decide)).trans ((ex_high (op ++ x1 ++ x2 ++ x3) x4 11 6 (by decide)).trans ((ex_high (op ++ x1 ++ x2) x3 5 6 (by decide)).trans ((ex_low (op ++ x1) x2 0 6 (by decide)).trans (ex_all x2)))),
    (ex_high (op ++ x1 ++ x2 ++ x3 ++ x4) x5 7 5 (by decide)).trans ((ex_high (op ++ x1 ++ x2 ++ x3) x4 6 5 (by decide)).trans ((ex_low (op ++ x1 ++ x2) x3 0 5 (by decide)).trans (ex_all x3))),
    (ex_high (op ++ x1 ++ x2 ++ x3 ++ x4) x5 1 6 (by decide)).trans ((ex_low (op ++ x1 ++ x2 ++ x3) x4 0 6 (by decide)).trans (ex_all x4)),
    (ex_low (op ++ x1 ++ x2 ++ x3 ++ x4) x5 0 1 (by decide)).trans (ex_all x5)⟩

theorem layout_8_6_6_5_7 {w : BitVec 32} (op : BitVec 8) (x1 : BitVec 6) (x2 : BitVec 6) (x3 : BitVec 5) (x4 : BitVec 7)
    (h : op ++ x1 ++ x2 ++ x3 ++ x4 = w) :
    ex 28 4 w = op.extractLsb' 4 4 ∧
    ex 24 4 w = op.extractLsb' 0 4 ∧
    ex 18 6 w = x1 ∧
    ex 12 6 w = x2 ∧
    ex 7 5 w = x3 ∧
    ex 3 4 w = x4.extractLsb' 3 4 ∧
    ex 0 7 w = x4 ∧
    ex 0 3 w = x4.extractLsb' 0 3 := by
  subst h
  exact ⟨(ex_high (op ++ x1 ++ x2 ++ x3) x4 28 4 (by decide)).trans ((ex_high (op ++ x1 ++ x2) x3 21 4 (by decide)).trans ((ex_high (op ++ x1) x2 16 4 (by decide)).trans (ex_high op x1 10 4 (by decide)))),
    (ex_high (op ++ x1 ++ x2 ++ x3) x4 24 4 (by decide)).trans ((ex_high (op ++ x1 ++ x2) x3 17 4 (by decide)).trans ((ex_high (op ++ x1) x2 12 4 (by decide)).trans (ex_high op x1 6 4 (by decide)))),
    (ex_high (op ++ x1 ++ x2 ++ x3) x4 18 6 (by decide)).trans ((ex_high (op ++ x1 ++ x2) x3 11 6 (by decide)).trans ((ex_high (op ++ x1) x2 6 6 (by decide)).trans ((ex_low op x1 0 6 (by decide)).trans (ex_all x1)))),
    (ex_high (op ++ x1 ++ x2 ++ x3) x4 12 6 (by decide)).trans ((ex_high (op ++ x1 ++ x2) x3 5 6 (by decide)).trans ((ex_low (op ++ x1) x2 0 6 (by decide)).trans (ex_all x2))),
    (ex_high (op ++ x1 ++ x2 ++ x3) x4 7 5 (by decide)).trans ((ex_low (op ++ x1 ++ x2) x3 0 5 (by decide)).trans (ex_all x3)),
    ex_low (op ++ x1 ++ x2 ++ x3) x4 3 4 (by decide),
    (ex_low (op ++ x1 ++ x2 ++ x3) x4 0 7 (by decide)).trans (ex_all x4),
    ex_low (op ++ x1 ++ x2 ++ x3) x4 0 3 (by decide)⟩

theorem layout_8_6_6_6_6 {w : BitVec 32} (op : BitVec 8) (x1 : BitVec 6) (x2 : BitVec 6) (x3 : BitVec 6) (x4 : BitVec 6)
    (h : op ++ x1 ++ x2 ++ x3 ++ x4 = w) :
    ex 28 4 w = op.extractLsb' 4 4 ∧
    ex 24 4 w = op.extractLsb' 0 4 ∧
    ex 18 6 w = x1 ∧
    ex 12 6 w = x2 ∧
    ex 6 6 w = x3 ∧
    ex 0 6 w = x4 := by
  subst h
  exact ⟨(ex_high (op ++ x1 ++ x2 ++ x3) x4 28 4 (by decide)).trans ((ex_high (op ++ x1 ++ x2) x3 22 4 (by decide)).trans ((ex_high (op ++ x1) x2 16 4 (by decide)).trans (ex_high op x1 10 4 (by decide)))),
    (ex_high (op ++ x1 ++ x2 ++ x3) x4 24 4 (by decide)).trans ((ex_high (op ++ x1 ++ x2) x3 18 4 (by decide)).trans ((ex_high (op ++ x1) x2 12 4 (by decide)).trans (ex_high op x1 6 4 (by decide)))),
    (ex_high (op ++ x1 ++ x2 ++ x3) x4 18 6 (by decide)).trans ((ex_high (op ++ x1 ++ x2) x3 12 6 (by decide)).trans ((ex_high (op ++ x1) x2 6 6 (by decide)).trans ((ex_low op x1 0 6 (by decide)).trans (ex_all x1)))),
    (ex_high (op ++ x1 ++ x2 ++ x3) x4 12 6 (by decide)).trans ((ex_high (op ++ x1 ++ x2) x3 6 6 (by decide)).trans ((ex_low (op ++ x1) x2 0 6 (by decide)).trans (ex_all x2))),
    (ex_high (op ++ x1 ++ x2 ++ x3) x4 6 6 (by decide)).trans ((ex_low (op ++ x1 ++ x2) x3 0 6 (by decide)).trans (ex_all x3)),
    (ex_low (op ++ x1 ++ x2 ++ x3) x4 0 6 (by decide)).trans (ex_all x4)⟩

theorem layout_8_6_6_12 {w : BitVec 32} (op : BitVec 8) (x1 : BitVec 6) (x2 : BitVec 6) (x3 : BitVec 12)
    (h : op ++ x1 ++ x2 ++ x3 = w) :
    ex 28 4 w = op.extractLsb' 4 4 ∧
    ex 24 4 w = op.extractLsb' 0 4 ∧
    ex 18 6 w = x1 ∧
    ex 12 6 w = x2 ∧
    ex 0 12 w = x3 := by
  subst h
  exact ⟨(ex_high (op ++ x1 ++ x2) x3 28 4 (by decide)).trans ((ex_high (op ++ x1) x2 16 4 (by decide)).trans (ex_high op x1 10 4 (by decide))),
    (ex_high (op ++ x1 ++ x2) x3 24 4 (by decide)).trans ((ex_high (op ++ x1) x2 12 4 (by decide)).trans (ex_high op x1 6 4 (by decide))),
    (ex_high (op ++ x1 ++ x2) x3 18 6 (by decide)).trans ((ex_high (op ++ x1) x2 6 6 (by decide)).trans ((ex_low op x1 0 6 (by decide)).trans (ex_all x1))),
    (ex_high (op ++ x1 ++ x2) x3 12 6 (by decide)).trans ((ex_low (op ++ x1) x2 0 6 (by decide)).trans (ex_all x2)),
    (ex_low (op ++ x1 ++ x2) x3 0 12 (by decide)).trans (ex_all x3)⟩

theorem layout_8_6_9_9 {w : BitVec 32} (op : BitVec 8) (x1 : BitVec 6) (x2 : BitVec 9) (x3 : BitVec 9)
    (h : op ++ x1 ++ x2 ++ x3 = w) :
    ex 28 4 w = op.extractLsb' 4 4 ∧
    ex 24 4 w = op.extractLsb' 0 4 ∧
    ex 18 6 w = x1 ∧
    ex 9 9 w = x2 ∧
    ex 0 9 w = x3 := by
  subst h
  exact ⟨(ex_high (op ++ x1 ++ x2) x3 28 4 (by decide)).trans ((ex_high (op ++ x1) x2 19 4 (by decide)).trans (ex_high op x1 10 4 (by decide))),
    (ex_high (op ++ x1 ++ x2) x3 24 4 (by decide)).trans ((ex_high (op ++ x1) x2 15 4 (by decide)).trans (ex_high op x1 6 4 (by decide))),
    (ex_high (op ++ x1 ++ x2) x3 18 6 (by decide)).trans ((ex_high (op ++ x1) x2 9 6 (by decide)).trans ((ex_low op x1 0 6 (by decide)).trans (ex_all x1))),
    (ex_high (op ++ x1 ++ x2) x3 9 9 (by decide)).trans ((ex_low (op ++ x1) x2 0 9 (by decide)).trans (ex_all x2)),
    (ex_low (op ++ x1 ++ x2) x3 0 9 (by decide)).trans (ex_all x3)⟩

theorem layout_8_6_11_7 {w : BitVec 32} (op : BitVec 8) (x1 : BitVec 6) (x2 : BitVec 11) (x3 : BitVec 7)
    (h : op ++ x1 ++ x2 ++ x3 = w) :
    ex 28 4 w = op.extractLsb' 4 4 ∧
    ex 24 4 w = op.extractLsb' 0 4 ∧
    ex 18 6 w = x1 ∧
    ex 7 11 w = x2 ∧
    ex 0 7 w = x3 := by
  subst h
  exact ⟨(ex_high (op ++ x1 ++ x2) x3 28 4 (by decide)).trans ((ex_high (op ++ x1) x2 21 4 (by decide)).trans (ex_high op x1 10 4 (by decide))),
    (ex_high (op ++ x1 ++ x2) x3 24 4 (by decide)).trans ((ex_high (op ++ x1) x2 17 4 (by decide)).trans (ex_high op x1 6 4 (by decide))),
    (ex_high (op ++ x1 ++ x2) x3 18 6 (by decide)).trans ((ex_high (op ++ x1) x2 11 6 (by decide)).trans ((ex_low op x1 0 6 (by decide)).trans (ex_all x1))),
    (ex_high (op ++ x1 ++ x2) x3 7 11 (by decide)).trans ((ex_low (op ++ x1) x2 0 11 (by decide)).trans (ex_all x2)),
    (ex_low (op ++ x1 ++ x2) x3 0 7 (by decide)).trans (ex_all x3)⟩

theorem layout_8_6_18 {w : BitVec 32} (op : BitVec 8) (x1 : BitVec 6) (x2 : BitVec 18)
    (h : op ++ x1 ++ x2 = w) :
    ex 28 4 w = op.extractLsb' 4 4 ∧
    ex 24 4 w = op.extractLsb' 0 4 ∧
    ex 18 6 w = x1 ∧
    ex 7 11 w = x2.extractLsb' 7 11 ∧
    ex 3 4 w = x2.extractLsb' 3 4 ∧
    ex 0 18 w = x2 ∧
    ex 0 3 w = x2.extractLsb' 0 3 := by
  subst h
  exact ⟨(ex_high (op ++ x1) x2 28 4 (by decide)).trans (ex_high op x1 10 4 (by decide)),
    (ex_high (op ++ x1) x2 24 4 (by decide)).trans (ex_high op x1 6 4 (by decide)),
    (ex_high (op ++ x1) x2 18 6 (by decide)).trans ((ex_low op x1 0 6 (by decide)).trans (ex_all x1)),
    ex_low (op ++ x1) x2 7 11 (by decide),
    ex_low (op ++ x1) x2 3 4 (by decide),
    (ex_low (op ++ x1) x2 0 18 (by decide)).trans (ex_all x2),
    ex_low (op ++ x1) x2 0 3 (by decide)⟩

theorem layout_8_11_13 {w : BitVec 32} (op : BitVec 8) (x1 : BitVec 11) (x2 : BitVec 13)
    (h : op ++ x1 ++ x2 = w) :
    ex 28 4 w = op.extractLsb' 4 4 ∧
    ex 24 4 w = op.extractLsb' 0 4 ∧
    ex 13 11 w = x1 ∧
    ex 0 13 w = x2 := by
  subst h
  exact ⟨(ex_high (op ++ x1) x2 28 4 (by decide)).trans (ex_high op x1 15 4 (by decide)),
    (ex_high (op ++ x1) x2 24 4 (by decide)).trans (ex_high op x1 11 4 (by decide)),
    (ex_high (op ++ x1) x2 13 11 (by decide)).trans ((ex_low op x1 0 11 (by decide)).trans (ex_all x1)),
    (ex_low (op ++ x1) x2 0 13 (by decide)).trans (ex_all x2)⟩

theorem layout_8_12_3_9 {w : BitVec 32} (op : BitVec 8) (x1 : BitVec 12) (x2 : BitVec 3) (x3 : BitVec 9)
    (h : op ++ x1 ++ x2 ++ x3 = w) :
    ex 28 4 w = op.extractLsb' 4 4 ∧
    ex 24 4 w = op.extractLsb' 0 4 ∧
    ex 12 12 w = x1 ∧
    ex 9 3 w = x2 ∧
    ex 0 9 w = x3 := by
  subst h
  exact ⟨(ex_high (op ++ x1 ++ x2) x3 28 4 (by decide)).trans ((ex_high (op ++ x1) x2 19 4 (by decide)).trans (ex_high op x1 16 4 (by decide))),
    (ex_high (op ++ x1 ++ x2) x3 24 4 (by decide)).trans ((ex_high (op ++ x1) x2 15 4 (by decide)).trans (ex_high op x1 12 4 (by decide))),
    (ex_high (op ++ x1 ++ x2) x3 12 12 (by decide)).trans ((ex_high (op ++ x1) x2 3 12 (by decide)).trans ((ex_low op x1 0 12 (by decide)).trans (ex_all x1))),
    (ex_high (op ++ x1 ++ x2) x3 9 3 (by decide)).trans ((ex_low (op ++ x1) x2 0 3 (by decide)).trans (ex_all x2)),
    (ex_low (op ++ x1 ++ x2) x3 0 9 (by decide)).trans (ex_all x3)⟩

theorem layout_8_12_5_4_3 {w : BitVec 32} (op : BitVec 8) (x1 : BitVec 12) (x2 : BitVec 5) (x3 : BitVec 4) (x4 : BitVec 3)
    (h : op ++ x1 ++ x2 ++ x3 ++ x4 = w) :
    ex 28 4 w = op.extractLsb' 4 4 ∧
    ex 24 4 w = op.extractLsb' 0 4 ∧
    ex 12 12 w = x1 ∧
    ex 7 5 w = x2 ∧
    ex 3 4 w = x3 ∧
    ex 0 3 w = x4 := by
  subst h
  exact ⟨(ex_high (op ++ x1 ++ x2 ++ x3) x4 28 4 (by decide)).trans ((ex_high (op ++ x1 ++ x2) x3 25 4 (by decide)).trans ((ex_high (op ++ x1) x2 21 4 (by decide)).trans (ex_high op x1 16 4 (by decide)))),
    (ex_high (op ++ x1 ++ x2 ++ x3) x4 24 4 (by decide)).trans ((ex_high (op ++ x1 ++ x2) x3 21 4 (by decide)).trans ((ex_high (op ++ x1) x2 17 4 (by decide)).trans (ex_high op x1 12 4 (by decide)))),
    (ex_high (op ++ x1 ++ x2 ++ x3) x4 12 12 (by decide)).trans ((ex_high (op ++ x1 ++ x2) x3 9 12 (by decide)).trans ((ex_high (op ++ x1) x2 5 12 (by decide)).trans ((ex_low op x1 0 12 (by decide)).trans (ex_all x1)))),
    (ex_high (op ++ x1 ++ x2 ++ x3) x4 7 5 (by decide)).trans ((ex_high (op ++ x1 ++ x2) x3 4 5 (by decide)).trans ((ex_low (op ++ x1) x2 0 5 (by decide)).trans (ex_all x2))),
    (ex_high (op ++ x1 ++ x2 ++ x3) x4 3 4 (by decide)).trans ((ex_low (op ++ x1 ++ x2) x3 0 4 (by decide)).trans (ex_all x3)),
    (ex_low (op ++ x1 ++ x2 ++ x3) x4 0 3 (by decide)).trans (ex_all x4)⟩

theorem layout_8_12_5_6_1 {w : BitVec 32} (op : BitVec 8) (x1 : BitVec 12) (x2 : BitVec 5) (x3 : BitVec 6) (x4 : BitVec 1)
    (h : op ++ x1 ++ x2 ++ x3 ++ x4 = w) :
    ex 28 4 w = op.extractLsb' 4 4 ∧
    ex 24 4 w = op.extractLsb' 0 4 ∧
    ex 12 12 w = x1 ∧
    ex 7 5 w = x2 ∧
    ex 1 6 w = x3 ∧
    ex 0 1 w = x4 := by
  subst h
  exact ⟨(ex_high (op ++ x1 ++ x2 ++ x3) x4 28 4 (by decide)).trans ((ex_high (op ++ x1 ++ x2) x3 27 4 (by decide)).trans ((ex_high (op ++ x1) x2 21 4 (by decide)).trans (ex_high op x1 16 4 (by decide)))),
    (ex_high (op ++ x1 ++ x2 ++ x3) x4 24 4 (by decide)).trans ((ex_high (op ++ x1 ++ x2) x3 23 4 (by decide)).trans ((ex_high (op ++ x1) x2 17 4 (by decide)).trans (ex_high op x1 12 4 (by decide)))),
    (ex_high (op ++ x1 ++ x2 ++ x3) x4 12 12 (by decide)).trans ((ex_high (op ++ x1 ++ x2) x3 11 12 (by decide)).trans ((ex_high (op ++ x1) x2 5 12 (by decide)).trans ((ex_low op x1 0 12 (by decide)).trans (ex_all x1)))),
    (ex_high (op ++ x1 ++ x2 ++ x3) x4 7 5 (by decide)).trans ((ex_high (op ++ x1 ++ x2) x3 6 5 (by decide)).trans ((ex_low (op ++ x1) x2 0 5 (by decide)).trans (ex_all x2))),
    (ex_high (op ++ x1 ++ x2 ++ x3) x4 1 6 (by decide)).trans ((ex_low (op ++ x1 ++ x2) x3 0 6 (by decide)).trans (ex_all x3)),
    (ex_low (op ++ x1 ++ x2 ++ x3) x4 0 1 (by decide)).trans (ex_all x4)⟩

theorem layout_8_12_5_7 {w : BitVec 32} (op : BitVec 8) (x1 : BitVec 12) (x2 : BitVec 5) (x3 : BitVec 7)
    (h : op ++ x1 ++ x2 ++ x3 = w) :
    ex 28 4 w = op.extractLsb' 4 4 ∧
    ex 24 4 w = op.extractLsb' 0 4 ∧
    ex 12 12 w = x1 ∧
    ex 7 5 w = x2 ∧
    ex 0 7 w = x3 := by
  subst h
  exact ⟨(ex_high (op ++ x1 ++ x2) x3 28 4 (by decide)).trans ((ex_high (op ++ x1) x2 21 4 (by decide)).trans (ex_high op x1 16 4 (by decide))),
    (ex_high (op ++ x1 ++ x2) x3 24 4 (by decide)).trans ((ex_high (op ++ x1) x2 17 4 (by decide)).trans (ex_high op x1 12 4 (by decide))),
    (ex_high (op ++ x1 ++ x2) x3 12 12 (by decide)).trans ((ex_high (op ++ x1) x2 5 12 (by decide)).trans ((ex_low op x1 0 12 (by decide)).trans (ex_all x1))),
    (ex_high (op ++ x1 ++ x2) x3 7 5 (by decide)).trans ((ex_low (op ++ x1) x2 0 5 (by decide)).trans (ex_all x2)),
    (ex_low (op ++ x1 ++ x2) x3 0 7 (by decide)).trans (ex_all x3)⟩

theorem layout_8_22_2 {w : BitVec 32} (op : BitVec 8) (x1 : BitVec 22) (x2 : BitVec 2)
    (h : op ++ x1 ++ x2 = w) :
    ex 28 4 w = op.extractLsb' 4 4 ∧
    ex 24 4 w = op.extractLsb' 0 4 ∧
    ex 2 22 w = x1 ∧
    ex 0 2 w = x2 := by
  subst h
  exact ⟨(ex_high (op ++ x1) x2 28 4 (by decide)).trans (ex_high op x1 26 4 (by decide)),
    (ex_high (op ++ x1) x2 24 4 (by decide)).trans (ex_high op x1 22 4 (by decide)),
    (ex_high (op ++ x1) x2 2 22 (by decide)).trans ((ex_low op x1 0 22 (by decide)).trans (ex_all x1)),
    (ex_low (op ++ x1) x2 0 2 (by decide)).trans (ex_all x2)⟩

theorem layout_8_23_1 {w : BitVec 32} (op : BitVec 8) (x1 : BitVec 23) (x2 : BitVec 1)
    (h : op ++ x1 ++ x2 = w) :
    ex 28 4 w = op.extractLsb' 4 4 ∧
    ex 24 4 w = op.extractLsb' 0 4 ∧
    ex 1 23 w = x1 ∧
    ex 0 1 w = x2 := by
  subst h
  exact ⟨(ex_high (op ++ x1) x2 28 4 (by decide)).trans (ex_high op x1 27 4 (by decide)),
    (ex_high (op ++ x1) x2 24 4 (by decide)).trans (ex_high op x1 23 4 (by decide)),
    (ex_high (op ++ x1) x2 1 23 (by decide)).trans ((ex_low op x1 0 23 (by decide)).trans (ex_all x1)),
    (ex_low (op ++ x1) x2 0 1 (by decide)).trans (ex_all x2)⟩

theorem layout_8_24 {w : BitVec 32} (op : BitVec 8) (x1 : BitVec 24)
    (h : op ++ x1 = w) :
    ex 28 4 w = op.extractLsb' 4 4 ∧
    ex 24 4 w = op.extractLsb' 0 4 ∧
    ex 0 24 w = x1 := by
  subst h
  exact ⟨ex_high op x1 28 4 (by decide),
    ex_high op x1 24 4 (by decide),
    (ex_low op x1 0 24 (by decide)).trans (ex_all x1)⟩

/-- The low bits of a `sys` word are not those of RESUME_TEAM (R218, R414). -/
theorem ex_sys {w : BitVec 32} (x : BitVec 14) (n : BitVec 12) (h : x ++ 0#6 ++ n = w) (hn : ¬n = 0xF01#12) :
    ¬ex 0 18 w = 0x00F01#18 := by
  intro he
  apply hn
  subst h
  have h := congrArg (BitVec.extractLsb' 0 12) he
  simp at h
  exact (ex_low (x ++ 0#6) n 0 12 (by decide)).symm.trans h |> (ex_all n).symm.trans

/-! ## The round trip, for one instruction -/

/-- Decoding the word of a well-formed instruction gives the instruction. -/
def Laws.RoundTrip.Statement (i : Instr) : Prop := ∀ w, encodeWord i = some w → i.wf = true → decodeWord w = i


theorem Laws.RoundTrip.add (x0 : Src) (x1 : Src) (x2 : Dst) (x3 : Bool) : Laws.RoundTrip.Statement (Instr.add x0 x1 x2 x3) := by
  intro w he hw
  have hl := layout_8_6_6_5_6_1 _ _ _ _ _ _ (Option.some.inj he)
  simp [Instr.wf, Instr.srcs, Instr.dsts, Instr.fieldsWf] at hw
  simp [decodeWord, decode0, hl, ifFields, srcOf_srcBits, dstOf_dstBits, hw]

theorem Laws.RoundTrip.sub (x0 : Src) (x1 : Src) (x2 : Dst) (x3 : Bool) : Laws.RoundTrip.Statement (Instr.sub x0 x1 x2 x3) := by
  intro w he hw
  have hl := layout_8_6_6_5_6_1 _ _ _ _ _ _ (Option.some.inj he)
  simp [Instr.wf, Instr.srcs, Instr.dsts, Instr.fieldsWf] at hw
  simp [decodeWord, decode0, hl, ifFields, srcOf_srcBits, dstOf_dstBits, hw]

theorem Laws.RoundTrip.and (x0 : Src) (x1 : Src) (x2 : Dst) (x3 : Bool) : Laws.RoundTrip.Statement (Instr.and x0 x1 x2 x3) := by
  intro w he hw
  have hl := layout_8_6_6_5_6_1 _ _ _ _ _ _ (Option.some.inj he)
  simp [Instr.wf, Instr.srcs, Instr.dsts, Instr.fieldsWf] at hw
  simp [decodeWord, decode0, hl, ifFields, srcOf_srcBits, dstOf_dstBits, hw]

theorem Laws.RoundTrip.or (x0 : Src) (x1 : Src) (x2 : Dst) (x3 : Bool) : Laws.RoundTrip.Statement (Instr.or x0 x1 x2 x3) := by
  intro w he hw
  have hl := layout_8_6_6_5_6_1 _ _ _ _ _ _ (Option.some.inj he)
  simp [Instr.wf, Instr.srcs, Instr.dsts, Instr.fieldsWf] at hw
  simp [decodeWord, decode0, hl, ifFields, srcOf_srcBits, dstOf_dstBits, hw]

theorem Laws.RoundTrip.xor (x0 : Src) (x1 : Src) (x2 : Dst) (x3 : Bool) : Laws.RoundTrip.Statement (Instr.xor x0 x1 x2 x3) := by
  intro w he hw
  have hl := layout_8_6_6_5_6_1 _ _ _ _ _ _ (Option.some.inj he)
  simp [Instr.wf, Instr.srcs, Instr.dsts, Instr.fieldsWf] at hw
  simp [decodeWord, decode0, hl, ifFields, srcOf_srcBits, dstOf_dstBits, hw]

theorem Laws.RoundTrip.andn (x0 : Src) (x1 : Src) (x2 : Dst) (x3 : Bool) : Laws.RoundTrip.Statement (Instr.andn x0 x1 x2 x3) := by
  intro w he hw
  have hl := layout_8_6_6_5_6_1 _ _ _ _ _ _ (Option.some.inj he)
  simp [Instr.wf, Instr.srcs, Instr.dsts, Instr.fieldsWf] at hw
  simp [decodeWord, decode0, hl, ifFields, srcOf_srcBits, dstOf_dstBits, hw]

theorem Laws.RoundTrip.sll (x0 : Src) (x1 : Src) (x2 : Dst) (x3 : Bool) : Laws.RoundTrip.Statement (Instr.sll x0 x1 x2 x3) := by
  intro w he hw
  have hl := layout_8_6_6_5_6_1 _ _ _ _ _ _ (Option.some.inj he)
  simp [Instr.wf, Instr.srcs, Instr.dsts, Instr.fieldsWf] at hw
  simp [decodeWord, decode0, hl, ifFields, srcOf_srcBits, dstOf_dstBits, hw]

theorem Laws.RoundTrip.srl (x0 : Src) (x1 : Src) (x2 : Dst) (x3 : Bool) : Laws.RoundTrip.Statement (Instr.srl x0 x1 x2 x3) := by
  intro w he hw
  have hl := layout_8_6_6_5_6_1 _ _ _ _ _ _ (Option.some.inj he)
  simp [Instr.wf, Instr.srcs, Instr.dsts, Instr.fieldsWf] at hw
  simp [decodeWord, decode0, hl, ifFields, srcOf_srcBits, dstOf_dstBits, hw]

theorem Laws.RoundTrip.sra (x0 : Src) (x1 : Src) (x2 : Dst) (x3 : Bool) : Laws.RoundTrip.Statement (Instr.sra x0 x1 x2 x3) := by
  intro w he hw
  have hl := layout_8_6_6_5_6_1 _ _ _ _ _ _ (Option.some.inj he)
  simp [Instr.wf, Instr.srcs, Instr.dsts, Instr.fieldsWf] at hw
  simp [decodeWord, decode0, hl, ifFields, srcOf_srcBits, dstOf_dstBits, hw]

theorem Laws.RoundTrip.rol (x0 : Src) (x1 : Src) (x2 : Dst) (x3 : Bool) : Laws.RoundTrip.Statement (Instr.rol x0 x1 x2 x3) := by
  intro w he hw
  have hl := layout_8_6_6_5_6_1 _ _ _ _ _ _ (Option.some.inj he)
  simp [Instr.wf, Instr.srcs, Instr.dsts, Instr.fieldsWf] at hw
  simp [decodeWord, decode0, hl, ifFields, srcOf_srcBits, dstOf_dstBits, hw]

theorem Laws.RoundTrip.min (x0 : Src) (x1 : Src) (x2 : Dst) (x3 : Bool) : Laws.RoundTrip.Statement (Instr.min x0 x1 x2 x3) := by
  intro w he hw
  have hl := layout_8_6_6_5_6_1 _ _ _ _ _ _ (Option.some.inj he)
  simp [Instr.wf, Instr.srcs, Instr.dsts, Instr.fieldsWf] at hw
  simp [decodeWord, decode0, hl, ifFields, srcOf_srcBits, dstOf_dstBits, hw]

theorem Laws.RoundTrip.max (x0 : Src) (x1 : Src) (x2 : Dst) (x3 : Bool) : Laws.RoundTrip.Statement (Instr.max x0 x1 x2 x3) := by
  intro w he hw
  have hl := layout_8_6_6_5_6_1 _ _ _ _ _ _ (Option.some.inj he)
  simp [Instr.wf, Instr.srcs, Instr.dsts, Instr.fieldsWf] at hw
  simp [decodeWord, decode0, hl, ifFields, srcOf_srcBits, dstOf_dstBits, hw]

theorem Laws.RoundTrip.minu (x0 : Src) (x1 : Src) (x2 : Dst) (x3 : Bool) : Laws.RoundTrip.Statement (Instr.minu x0 x1 x2 x3) := by
  intro w he hw
  have hl := layout_8_6_6_5_6_1 _ _ _ _ _ _ (Option.some.inj he)
  simp [Instr.wf, Instr.srcs, Instr.dsts, Instr.fieldsWf] at hw
  simp [decodeWord, decode0, hl, ifFields, srcOf_srcBits, dstOf_dstBits, hw]

theorem Laws.RoundTrip.maxu (x0 : Src) (x1 : Src) (x2 : Dst) (x3 : Bool) : Laws.RoundTrip.Statement (Instr.maxu x0 x1 x2 x3) := by
  intro w he hw
  have hl := layout_8_6_6_5_6_1 _ _ _ _ _ _ (Option.some.inj he)
  simp [Instr.wf, Instr.srcs, Instr.dsts, Instr.fieldsWf] at hw
  simp [decodeWord, decode0, hl, ifFields, srcOf_srcBits, dstOf_dstBits, hw]

theorem Laws.RoundTrip.slt (x0 : Src) (x1 : Src) (x2 : Dst) (x3 : Bool) : Laws.RoundTrip.Statement (Instr.slt x0 x1 x2 x3) := by
  intro w he hw
  have hl := layout_8_6_6_5_6_1 _ _ _ _ _ _ (Option.some.inj he)
  simp [Instr.wf, Instr.srcs, Instr.dsts, Instr.fieldsWf] at hw
  simp [decodeWord, decode0, hl, ifFields, srcOf_srcBits, dstOf_dstBits, hw]

theorem Laws.RoundTrip.sltu (x0 : Src) (x1 : Src) (x2 : Dst) (x3 : Bool) : Laws.RoundTrip.Statement (Instr.sltu x0 x1 x2 x3) := by
  intro w he hw
  have hl := layout_8_6_6_5_6_1 _ _ _ _ _ _ (Option.some.inj he)
  simp [Instr.wf, Instr.srcs, Instr.dsts, Instr.fieldsWf] at hw
  simp [decodeWord, decode0, hl, ifFields, srcOf_srcBits, dstOf_dstBits, hw]

theorem Laws.RoundTrip.mul (x0 : Src) (x1 : Src) (x2 : Dst) (x3 : Bool) : Laws.RoundTrip.Statement (Instr.mul x0 x1 x2 x3) := by
  intro w he hw
  have hl := layout_8_6_6_5_6_1 _ _ _ _ _ _ (Option.some.inj he)
  simp [Instr.wf, Instr.srcs, Instr.dsts, Instr.fieldsWf] at hw
  simp [decodeWord, decode1, hl, ifFields, srcOf_srcBits, dstOf_dstBits, hw]

theorem Laws.RoundTrip.mulh (x0 : Src) (x1 : Src) (x2 : Dst) (x3 : Bool) : Laws.RoundTrip.Statement (Instr.mulh x0 x1 x2 x3) := by
  intro w he hw
  have hl := layout_8_6_6_5_6_1 _ _ _ _ _ _ (Option.some.inj he)
  simp [Instr.wf, Instr.srcs, Instr.dsts, Instr.fieldsWf] at hw
  simp [decodeWord, decode1, hl, ifFields, srcOf_srcBits, dstOf_dstBits, hw]

theorem Laws.RoundTrip.mulhu (x0 : Src) (x1 : Src) (x2 : Dst) (x3 : Bool) : Laws.RoundTrip.Statement (Instr.mulhu x0 x1 x2 x3) := by
  intro w he hw
  have hl := layout_8_6_6_5_6_1 _ _ _ _ _ _ (Option.some.inj he)
  simp [Instr.wf, Instr.srcs, Instr.dsts, Instr.fieldsWf] at hw
  simp [decodeWord, decode1, hl, ifFields, srcOf_srcBits, dstOf_dstBits, hw]

theorem Laws.RoundTrip.div (x0 : Src) (x1 : Src) (x2 : Dst) (x3 : Bool) : Laws.RoundTrip.Statement (Instr.div x0 x1 x2 x3) := by
  intro w he hw
  have hl := layout_8_6_6_5_6_1 _ _ _ _ _ _ (Option.some.inj he)
  simp [Instr.wf, Instr.srcs, Instr.dsts, Instr.fieldsWf] at hw
  simp [decodeWord, decode1, hl, ifFields, srcOf_srcBits, dstOf_dstBits, hw]

theorem Laws.RoundTrip.divu (x0 : Src) (x1 : Src) (x2 : Dst) (x3 : Bool) : Laws.RoundTrip.Statement (Instr.divu x0 x1 x2 x3) := by
  intro w he hw
  have hl := layout_8_6_6_5_6_1 _ _ _ _ _ _ (Option.some.inj he)
  simp [Instr.wf, Instr.srcs, Instr.dsts, Instr.fieldsWf] at hw
  simp [decodeWord, decode1, hl, ifFields, srcOf_srcBits, dstOf_dstBits, hw]

theorem Laws.RoundTrip.rem (x0 : Src) (x1 : Src) (x2 : Dst) (x3 : Bool) : Laws.RoundTrip.Statement (Instr.rem x0 x1 x2 x3) := by
  intro w he hw
  have hl := layout_8_6_6_5_6_1 _ _ _ _ _ _ (Option.some.inj he)
  simp [Instr.wf, Instr.srcs, Instr.dsts, Instr.fieldsWf] at hw
  simp [decodeWord, decode1, hl, ifFields, srcOf_srcBits, dstOf_dstBits, hw]

theorem Laws.RoundTrip.remu (x0 : Src) (x1 : Src) (x2 : Dst) (x3 : Bool) : Laws.RoundTrip.Statement (Instr.remu x0 x1 x2 x3) := by
  intro w he hw
  have hl := layout_8_6_6_5_6_1 _ _ _ _ _ _ (Option.some.inj he)
  simp [Instr.wf, Instr.srcs, Instr.dsts, Instr.fieldsWf] at hw
  simp [decodeWord, decode1, hl, ifFields, srcOf_srcBits, dstOf_dstBits, hw]

theorem Laws.RoundTrip.bitc (x0 : Src) (x1 : Dst) (x2 : BitVec 3) (x3 : Bool) : Laws.RoundTrip.Statement (Instr.bitc x0 x1 x2 x3) := by
  intro w he hw
  have hl := layout_8_6_6_5_3_3_1 _ _ _ _ _ _ _ (Option.some.inj he)
  simp [Instr.wf, Instr.srcs, Instr.dsts, Instr.fieldsWf] at hw
  simp [decodeWord, decode1, hl, ifFields, srcOf_srcBits, dstOf_dstBits, hw]

theorem Laws.RoundTrip.addi (x0 : Src) (x1 : Dst) (x2 : BitVec 13) : Laws.RoundTrip.Statement (Instr.addi x0 x1 x2) := by
  intro w he hw
  have hl := layout_8_6_5_13 _ _ _ _ (Option.some.inj he)
  simp [Instr.wf, Instr.srcs, Instr.dsts, Instr.fieldsWf] at hw
  simp [decodeWord, decode1, hl, ifFields, srcOf_srcBits, dstOf_dstBits, hw]

theorem Laws.RoundTrip.andi (x0 : Src) (x1 : Dst) (x2 : BitVec 13) : Laws.RoundTrip.Statement (Instr.andi x0 x1 x2) := by
  intro w he hw
  have hl := layout_8_6_5_13 _ _ _ _ (Option.some.inj he)
  simp [Instr.wf, Instr.srcs, Instr.dsts, Instr.fieldsWf] at hw
  simp [decodeWord, decode1, hl, ifFields, srcOf_srcBits, dstOf_dstBits, hw]

theorem Laws.RoundTrip.ori (x0 : Src) (x1 : Dst) (x2 : BitVec 13) : Laws.RoundTrip.Statement (Instr.ori x0 x1 x2) := by
  intro w he hw
  have hl := layout_8_6_5_13 _ _ _ _ (Option.some.inj he)
  simp [Instr.wf, Instr.srcs, Instr.dsts, Instr.fieldsWf] at hw
  simp [decodeWord, decode1, hl, ifFields, srcOf_srcBits, dstOf_dstBits, hw]

theorem Laws.RoundTrip.xori (x0 : Src) (x1 : Dst) (x2 : BitVec 13) : Laws.RoundTrip.Statement (Instr.xori x0 x1 x2) := by
  intro w he hw
  have hl := layout_8_6_5_13 _ _ _ _ (Option.some.inj he)
  simp [Instr.wf, Instr.srcs, Instr.dsts, Instr.fieldsWf] at hw
  simp [decodeWord, decode1, hl, ifFields, srcOf_srcBits, dstOf_dstBits, hw]

theorem Laws.RoundTrip.slli (x0 : Src) (x1 : Dst) (x2 : BitVec 6) : Laws.RoundTrip.Statement (Instr.slli x0 x1 x2) := by
  intro w he hw
  have hl := layout_8_6_5_7_6 _ _ _ _ _ (Option.some.inj he)
  simp [Instr.wf, Instr.srcs, Instr.dsts, Instr.fieldsWf] at hw
  simp [decodeWord, decode1, hl, ifFields, srcOf_srcBits, dstOf_dstBits, hw]

theorem Laws.RoundTrip.srli (x0 : Src) (x1 : Dst) (x2 : BitVec 6) : Laws.RoundTrip.Statement (Instr.srli x0 x1 x2) := by
  intro w he hw
  have hl := layout_8_6_5_7_6 _ _ _ _ _ (Option.some.inj he)
  simp [Instr.wf, Instr.srcs, Instr.dsts, Instr.fieldsWf] at hw
  simp [decodeWord, decode1, hl, ifFields, srcOf_srcBits, dstOf_dstBits, hw]

theorem Laws.RoundTrip.srai (x0 : Src) (x1 : Dst) (x2 : BitVec 6) : Laws.RoundTrip.Statement (Instr.srai x0 x1 x2) := by
  intro w he hw
  have hl := layout_8_6_5_7_6 _ _ _ _ _ (Option.some.inj he)
  simp [Instr.wf, Instr.srcs, Instr.dsts, Instr.fieldsWf] at hw
  simp [decodeWord, decode1, hl, ifFields, srcOf_srcBits, dstOf_dstBits, hw]

theorem Laws.RoundTrip.slti (x0 : Src) (x1 : Dst) (x2 : BitVec 13) : Laws.RoundTrip.Statement (Instr.slti x0 x1 x2) := by
  intro w he hw
  have hl := layout_8_6_5_13 _ _ _ _ (Option.some.inj he)
  simp [Instr.wf, Instr.srcs, Instr.dsts, Instr.fieldsWf] at hw
  simp [decodeWord, decode1, hl, ifFields, srcOf_srcBits, dstOf_dstBits, hw]

theorem Laws.RoundTrip.ldk (x0 : Dst) (x1 : BitVec 19) : Laws.RoundTrip.Statement (Instr.ldk x0 x1) := by
  intro w he hw
  have hl := layout_8_5_19 _ _ _ (Option.some.inj he)
  simp [Instr.wf, Instr.srcs, Instr.dsts, Instr.fieldsWf] at hw
  simp [decodeWord, decode2, hl, ifFields, dstOf_dstBits, hw]

theorem Laws.RoundTrip.ldkx (x0 : Src) (x1 : Dst) (x2 : BitVec 13) : Laws.RoundTrip.Statement (Instr.ldkx x0 x1 x2) := by
  intro w he hw
  have hl := layout_8_6_5_13 _ _ _ _ (Option.some.inj he)
  simp [Instr.wf, Instr.srcs, Instr.dsts, Instr.fieldsWf] at hw
  simp [decodeWord, decode2, hl, ifFields, srcOf_srcBits, dstOf_dstBits, hw]

theorem Laws.RoundTrip.extf (x0 : Src) (x1 : Dst) (x2 : BitVec 6) (x3 : Bool) : Laws.RoundTrip.Statement (Instr.extf x0 x1 x2 x3) := by
  intro w he hw
  have hl := layout_8_6_6_5_6_1 _ _ _ _ _ _ (Option.some.inj he)
  simp [Instr.wf, Instr.srcs, Instr.dsts, Instr.fieldsWf] at hw
  simp [decodeWord, decode2, hl, ifFields, srcOf_srcBits, dstOf_dstBits, hw]

theorem Laws.RoundTrip.ins (x0 : Src) (x1 : Src) (x2 : Dst) (x3 : BitVec 6) : Laws.RoundTrip.Statement (Instr.ins x0 x1 x2 x3) := by
  intro w he hw
  have hl := layout_8_6_6_5_6_1 _ _ _ _ _ _ (Option.some.inj he)
  simp [Instr.wf, Instr.srcs, Instr.dsts, Instr.fieldsWf] at hw
  simp [decodeWord, decode2, hl, ifFields, srcOf_srcBits, dstOf_dstBits, hw]

theorem Laws.RoundTrip.bfx (x0 : Src) (x1 : Src) (x2 : Dst) (x3 : BitVec 6) (x4 : Bool) : Laws.RoundTrip.Statement (Instr.bfx x0 x1 x2 x3 x4) := by
  intro w he hw
  have hl := layout_8_6_6_5_6_1 _ _ _ _ _ _ (Option.some.inj he)
  simp [Instr.wf, Instr.srcs, Instr.dsts, Instr.fieldsWf] at hw
  simp [decodeWord, decode2, hl, ifFields, srcOf_srcBits, dstOf_dstBits, hw]

theorem Laws.RoundTrip.sel (x0 : Src) (x1 : Src) (x2 : Dst) (x3 : Src) : Laws.RoundTrip.Statement (Instr.sel x0 x1 x2 x3) := by
  intro w he hw
  have hl := layout_8_6_6_5_6_1 _ _ _ _ _ _ (Option.some.inj he)
  simp [Instr.wf, Instr.srcs, Instr.dsts, Instr.fieldsWf] at hw
  simp [decodeWord, decode2, hl, ifFields, srcOf_srcBits, dstOf_dstBits, hw]

theorem Laws.RoundTrip.keep (x0 : Src) (x1 : Dst) (x2 : Bool) : Laws.RoundTrip.Statement (Instr.keep x0 x1 x2) := by
  intro w he hw
  have hl := layout_8_6_6_5_6_1 _ _ _ _ _ _ (Option.some.inj he)
  simp [Instr.wf, Instr.srcs, Instr.dsts, Instr.fieldsWf] at hw
  simp [decodeWord, decode2, hl, ifFields, srcOf_srcBits, dstOf_dstBits, hw]

theorem Laws.RoundTrip.seq (x0 : Src) (x1 : Src) (x2 : Dst) (x3 : Bool) : Laws.RoundTrip.Statement (Instr.seq x0 x1 x2 x3) := by
  intro w he hw
  have hl := layout_8_6_6_5_6_1 _ _ _ _ _ _ (Option.some.inj he)
  simp [Instr.wf, Instr.srcs, Instr.dsts, Instr.fieldsWf] at hw
  simp [decodeWord, decode2, hl, ifFields, srcOf_srcBits, dstOf_dstBits, hw]

theorem Laws.RoundTrip.sne (x0 : Src) (x1 : Src) (x2 : Dst) (x3 : Bool) : Laws.RoundTrip.Statement (Instr.sne x0 x1 x2 x3) := by
  intro w he hw
  have hl := layout_8_6_6_5_6_1 _ _ _ _ _ _ (Option.some.inj he)
  simp [Instr.wf, Instr.srcs, Instr.dsts, Instr.fieldsWf] at hw
  simp [decodeWord, decode2, hl, ifFields, srcOf_srcBits, dstOf_dstBits, hw]

theorem Laws.RoundTrip.addc (x0 : Src) (x1 : Src) (x2 : Dst) (x3 : Src) (x4 : Bool) : Laws.RoundTrip.Statement (Instr.addc x0 x1 x2 x3 x4) := by
  intro w he hw
  have hl := layout_8_6_6_5_6_1 _ _ _ _ _ _ (Option.some.inj he)
  simp [Instr.wf, Instr.srcs, Instr.dsts, Instr.fieldsWf] at hw
  simp [decodeWord, decode2, hl, ifFields, srcOf_srcBits, dstOf_dstBits, hw]

theorem Laws.RoundTrip.subc (x0 : Src) (x1 : Src) (x2 : Dst) (x3 : Src) (x4 : Bool) : Laws.RoundTrip.Statement (Instr.subc x0 x1 x2 x3 x4) := by
  intro w he hw
  have hl := layout_8_6_6_5_6_1 _ _ _ _ _ _ (Option.some.inj he)
  simp [Instr.wf, Instr.srcs, Instr.dsts, Instr.fieldsWf] at hw
  simp [decodeWord, decode2, hl, ifFields, srcOf_srcBits, dstOf_dstBits, hw]

theorem Laws.RoundTrip.clamp (x0 : Src) (x1 : Src) (x2 : Dst) (x3 : Src) (x4 : Bool) : Laws.RoundTrip.Statement (Instr.clamp x0 x1 x2 x3 x4) := by
  intro w he hw
  have hl := layout_8_6_6_5_6_1 _ _ _ _ _ _ (Option.some.inj he)
  simp [Instr.wf, Instr.srcs, Instr.dsts, Instr.fieldsWf] at hw
  simp [decodeWord, decode2, hl, ifFields, srcOf_srcBits, dstOf_dstBits, hw]

theorem Laws.RoundTrip.br (x0 : Src) (x1 : Src) (x2 : BitVec 3) (x3 : BitVec 9) : Laws.RoundTrip.Statement (Instr.br x0 x1 x2 x3) := by
  intro w he hw
  have hl := layout_8_6_6_3_9 _ _ _ _ _ (Option.some.inj he)
  simp [Instr.wf, Instr.srcs, Instr.dsts, Instr.fieldsWf] at hw
  simp [decodeWord, decode3, hl, ifFields, srcOf_srcBits, hw]

theorem Laws.RoundTrip.jmp (x0 : BitVec 24) : Laws.RoundTrip.Statement (Instr.jmp x0) := by
  intro w he hw
  have hl := layout_8_24 _ _ (Option.some.inj he)
  simp [decodeWord, decode3, hl, ifFields]

theorem Laws.RoundTrip.call (x0 : BitVec 24) : Laws.RoundTrip.Statement (Instr.call x0) := by
  intro w he hw
  have hl := layout_8_24 _ _ (Option.some.inj he)
  simp [decodeWord, decode3, hl, ifFields]

theorem Laws.RoundTrip.jr (x0 : Src) : Laws.RoundTrip.Statement (Instr.jr x0) := by
  intro w he hw
  have hl := layout_8_6_18 _ _ _ (Option.some.inj he)
  simp [Instr.wf, Instr.srcs, Instr.dsts, Instr.fieldsWf] at hw
  simp [decodeWord, decode3, hl, ifFields, srcOf_srcBits, hw]

theorem Laws.RoundTrip.callr (x0 : Src) : Laws.RoundTrip.Statement (Instr.callr x0) := by
  intro w he hw
  have hl := layout_8_6_18 _ _ _ (Option.some.inj he)
  simp [Instr.wf, Instr.srcs, Instr.dsts, Instr.fieldsWf] at hw
  simp [decodeWord, decode3, hl, ifFields, srcOf_srcBits, hw]

theorem Laws.RoundTrip.loop (x0 : Src) (x1 : BitVec 9) : Laws.RoundTrip.Statement (Instr.loop x0 x1) := by
  intro w he hw
  have hl := layout_8_6_9_9 _ _ _ _ (Option.some.inj he)
  simp [Instr.wf, Instr.srcs, Instr.dsts, Instr.fieldsWf] at hw
  simp [decodeWord, decode3, hl, ifFields, srcOf_srcBits, hw]

theorem Laws.RoundTrip.loopi (x0 : BitVec 12) (x1 : BitVec 9) : Laws.RoundTrip.Statement (Instr.loopi x0 x1) := by
  intro w he hw
  have hl := layout_8_12_3_9 _ _ _ _ (Option.some.inj he)
  simp [decodeWord, decode3, hl, ifFields]

theorem Laws.RoundTrip.brk (x0 : BitVec 24) : Laws.RoundTrip.Statement (Instr.brk x0) := by
  intro w he hw
  have hl := layout_8_24 _ _ (Option.some.inj he)
  simp [decodeWord, decode3, hl, ifFields]

theorem Laws.RoundTrip.fadd (x0 : Src) (x1 : Src) (x2 : Dst) (x3 : BitVec 3) (x4 : BitVec 2) (x5 : Bool) : Laws.RoundTrip.Statement (Instr.fadd x0 x1 x2 x3 x4 x5) := by
  intro w he hw
  have hl := layout_8_6_6_5_3_2_1_1 _ _ _ _ _ _ _ _ (Option.some.inj he)
  simp [Instr.wf, Instr.srcs, Instr.dsts, Instr.fieldsWf] at hw
  simp [decodeWord, decode4, hl, ifFields, srcOf_srcBits, dstOf_dstBits, hw]

theorem Laws.RoundTrip.fsub (x0 : Src) (x1 : Src) (x2 : Dst) (x3 : BitVec 3) (x4 : BitVec 2) (x5 : Bool) : Laws.RoundTrip.Statement (Instr.fsub x0 x1 x2 x3 x4 x5) := by
  intro w he hw
  have hl := layout_8_6_6_5_3_2_1_1 _ _ _ _ _ _ _ _ (Option.some.inj he)
  simp [Instr.wf, Instr.srcs, Instr.dsts, Instr.fieldsWf] at hw
  simp [decodeWord, decode4, hl, ifFields, srcOf_srcBits, dstOf_dstBits, hw]

theorem Laws.RoundTrip.fmul (x0 : Src) (x1 : Src) (x2 : Dst) (x3 : BitVec 3) (x4 : BitVec 2) (x5 : Bool) : Laws.RoundTrip.Statement (Instr.fmul x0 x1 x2 x3 x4 x5) := by
  intro w he hw
  have hl := layout_8_6_6_5_3_2_1_1 _ _ _ _ _ _ _ _ (Option.some.inj he)
  simp [Instr.wf, Instr.srcs, Instr.dsts, Instr.fieldsWf] at hw
  simp [decodeWord, decode4, hl, ifFields, srcOf_srcBits, dstOf_dstBits, hw]

theorem Laws.RoundTrip.fma (x0 : Src) (x1 : Src) (x2 : Dst) (x3 : BitVec 3) (x4 : BitVec 2) (x5 : Bool) : Laws.RoundTrip.Statement (Instr.fma x0 x1 x2 x3 x4 x5) := by
  intro w he hw
  have hl := layout_8_6_6_5_3_2_1_1 _ _ _ _ _ _ _ _ (Option.some.inj he)
  simp [Instr.wf, Instr.srcs, Instr.dsts, Instr.fieldsWf] at hw
  simp [decodeWord, decode4, hl, ifFields, srcOf_srcBits, dstOf_dstBits, hw]

theorem Laws.RoundTrip.fdiv (x0 : Src) (x1 : Src) (x2 : Dst) (x3 : BitVec 3) (x4 : BitVec 2) (x5 : Bool) : Laws.RoundTrip.Statement (Instr.fdiv x0 x1 x2 x3 x4 x5) := by
  intro w he hw
  have hl := layout_8_6_6_5_3_2_1_1 _ _ _ _ _ _ _ _ (Option.some.inj he)
  simp [Instr.wf, Instr.srcs, Instr.dsts, Instr.fieldsWf] at hw
  simp [decodeWord, decode4, hl, ifFields, srcOf_srcBits, dstOf_dstBits, hw]

theorem Laws.RoundTrip.fsqrt (x0 : Src) (x1 : Dst) (x2 : BitVec 3) (x3 : BitVec 2) (x4 : Bool) : Laws.RoundTrip.Statement (Instr.fsqrt x0 x1 x2 x3 x4) := by
  intro w he hw
  have hl := layout_8_6_6_5_3_2_1_1 _ _ _ _ _ _ _ _ (Option.some.inj he)
  simp [Instr.wf, Instr.srcs, Instr.dsts, Instr.fieldsWf] at hw
  simp [decodeWord, decode4, hl, ifFields, srcOf_srcBits, dstOf_dstBits, hw]

theorem Laws.RoundTrip.fmin (x0 : Src) (x1 : Src) (x2 : Dst) (x3 : BitVec 3) : Laws.RoundTrip.Statement (Instr.fmin x0 x1 x2 x3) := by
  intro w he hw
  have hl := layout_8_6_6_5_3_4 _ _ _ _ _ _ (Option.some.inj he)
  simp [Instr.wf, Instr.srcs, Instr.dsts, Instr.fieldsWf] at hw
  simp [decodeWord, decode4, hl, ifFields, srcOf_srcBits, dstOf_dstBits, hw]

theorem Laws.RoundTrip.fmax (x0 : Src) (x1 : Src) (x2 : Dst) (x3 : BitVec 3) : Laws.RoundTrip.Statement (Instr.fmax x0 x1 x2 x3) := by
  intro w he hw
  have hl := layout_8_6_6_5_3_4 _ _ _ _ _ _ (Option.some.inj he)
  simp [Instr.wf, Instr.srcs, Instr.dsts, Instr.fieldsWf] at hw
  simp [decodeWord, decode4, hl, ifFields, srcOf_srcBits, dstOf_dstBits, hw]

theorem Laws.RoundTrip.fsgn (x0 : Src) (x1 : Src) (x2 : Dst) (x3 : BitVec 3) (x4 : BitVec 2) : Laws.RoundTrip.Statement (Instr.fsgn x0 x1 x2 x3 x4) := by
  intro w he hw
  have hl := layout_8_6_6_5_3_2_2 _ _ _ _ _ _ _ (Option.some.inj he)
  simp [Instr.wf, Instr.srcs, Instr.dsts, Instr.fieldsWf] at hw
  simp [decodeWord, decode4, hl, ifFields, srcOf_srcBits, dstOf_dstBits, hw]

theorem Laws.RoundTrip.fhsum (x0 : Src) (x1 : Src) (x2 : Dst) (x3 : BitVec 3) (x4 : BitVec 2) (x5 : Bool) : Laws.RoundTrip.Statement (Instr.fhsum x0 x1 x2 x3 x4 x5) := by
  intro w he hw
  have hl := layout_8_6_6_5_3_2_1_1 _ _ _ _ _ _ _ _ (Option.some.inj he)
  simp [Instr.wf, Instr.srcs, Instr.dsts, Instr.fieldsWf] at hw
  simp [decodeWord, decode4, hl, ifFields, srcOf_srcBits, dstOf_dstBits, hw]

theorem Laws.RoundTrip.pdot (x0 : Src) (x1 : Src) (x2 : Dst) (x3 : BitVec 4) (x4 : Bool) (x5 : BitVec 2) : Laws.RoundTrip.Statement (Instr.pdot x0 x1 x2 x3 x4 x5) := by
  intro w he hw
  have hl := layout_8_6_6_5_4_1_2 _ _ _ _ _ _ _ (Option.some.inj he)
  simp [Instr.wf, Instr.srcs, Instr.dsts, Instr.fieldsWf] at hw
  simp [decodeWord, decode4, hl, ifFields, srcOf_srcBits, dstOf_dstBits, hw]

theorem Laws.RoundTrip.fscl (x0 : Src) (x1 : Src) (x2 : Dst) (x3 : BitVec 3) (x4 : BitVec 2) (x5 : Bool) : Laws.RoundTrip.Statement (Instr.fscl x0 x1 x2 x3 x4 x5) := by
  intro w he hw
  have hl := layout_8_6_6_5_3_2_1_1 _ _ _ _ _ _ _ _ (Option.some.inj he)
  simp [Instr.wf, Instr.srcs, Instr.dsts, Instr.fieldsWf] at hw
  simp [decodeWord, decode4, hl, ifFields, srcOf_srcBits, dstOf_dstBits, hw]

theorem Laws.RoundTrip.frcp (x0 : Src) (x1 : Dst) (x2 : BitVec 3) (x3 : BitVec 2) (x4 : Bool) : Laws.RoundTrip.Statement (Instr.frcp x0 x1 x2 x3 x4) := by
  intro w he hw
  have hl := layout_8_6_6_5_3_2_1_1 _ _ _ _ _ _ _ _ (Option.some.inj he)
  simp [Instr.wf, Instr.srcs, Instr.dsts, Instr.fieldsWf] at hw
  simp [decodeWord, decode4, hl, ifFields, srcOf_srcBits, dstOf_dstBits, hw]

theorem Laws.RoundTrip.frsq (x0 : Src) (x1 : Dst) (x2 : BitVec 3) (x3 : BitVec 2) (x4 : Bool) : Laws.RoundTrip.Statement (Instr.frsq x0 x1 x2 x3 x4) := by
  intro w he hw
  have hl := layout_8_6_6_5_3_2_1_1 _ _ _ _ _ _ _ _ (Option.some.inj he)
  simp [Instr.wf, Instr.srcs, Instr.dsts, Instr.fieldsWf] at hw
  simp [decodeWord, decode4, hl, ifFields, srcOf_srcBits, dstOf_dstBits, hw]

theorem Laws.RoundTrip.fexp2 (x0 : Src) (x1 : Dst) (x2 : BitVec 3) (x3 : BitVec 2) (x4 : Bool) : Laws.RoundTrip.Statement (Instr.fexp2 x0 x1 x2 x3 x4) := by
  intro w he hw
  have hl := layout_8_6_6_5_3_2_1_1 _ _ _ _ _ _ _ _ (Option.some.inj he)
  simp [Instr.wf, Instr.srcs, Instr.dsts, Instr.fieldsWf] at hw
  simp [decodeWord, decode4, hl, ifFields, srcOf_srcBits, dstOf_dstBits, hw]

theorem Laws.RoundTrip.fround (x0 : Src) (x1 : Dst) (x2 : BitVec 3) (x3 : BitVec 2) : Laws.RoundTrip.Statement (Instr.fround x0 x1 x2 x3) := by
  intro w he hw
  have hl := layout_8_6_6_5_3_2_2 _ _ _ _ _ _ _ (Option.some.inj he)
  simp [Instr.wf, Instr.srcs, Instr.dsts, Instr.fieldsWf] at hw
  simp [decodeWord, decode4, hl, ifFields, srcOf_srcBits, dstOf_dstBits, hw]

theorem Laws.RoundTrip.fcmp (x0 : Src) (x1 : Src) (x2 : Dst) (x3 : BitVec 3) (x4 : BitVec 3) : Laws.RoundTrip.Statement (Instr.fcmp x0 x1 x2 x3 x4) := by
  intro w he hw
  have hl := layout_8_6_6_5_3_3_1 _ _ _ _ _ _ _ (Option.some.inj he)
  simp [Instr.wf, Instr.srcs, Instr.dsts, Instr.fieldsWf] at hw
  simp [decodeWord, decode5, hl, ifFields, srcOf_srcBits, dstOf_dstBits, hw]

theorem Laws.RoundTrip.fclass (x0 : Src) (x1 : Dst) (x2 : BitVec 3) : Laws.RoundTrip.Statement (Instr.fclass x0 x1 x2) := by
  intro w he hw
  have hl := layout_8_6_6_5_3_4 _ _ _ _ _ _ (Option.some.inj he)
  simp [Instr.wf, Instr.srcs, Instr.dsts, Instr.fieldsWf] at hw
  simp [decodeWord, decode5, hl, ifFields, srcOf_srcBits, dstOf_dstBits, hw]

theorem Laws.RoundTrip.cvt (x0 : Src) (x1 : BitVec 3) (x2 : BitVec 3) (x3 : Dst) (x4 : BitVec 3) (x5 : BitVec 2) (x6 : Bool) (x7 : Bool) : Laws.RoundTrip.Statement (Instr.cvt x0 x1 x2 x3 x4 x5 x6 x7) := by
  intro w he hw
  have hl := layout_8_6_3_3_5_3_2_1_1 _ _ _ _ _ _ _ _ _ (Option.some.inj he)
  simp [Instr.wf, Instr.srcs, Instr.dsts, Instr.fieldsWf] at hw
  simp [decodeWord, decode5, hl, ifFields, srcOf_srcBits, dstOf_dstBits, hw]

theorem Laws.RoundTrip.cvti (x0 : Src) (x1 : Bool) (x2 : Dst) (x3 : BitVec 3) (x4 : BitVec 2) : Laws.RoundTrip.Statement (Instr.cvti x0 x1 x2 x3 x4) := by
  intro w he hw
  have hl := layout_8_6_5_1_5_3_2_2 _ _ _ _ _ _ _ _ (Option.some.inj he)
  simp [Instr.wf, Instr.srcs, Instr.dsts, Instr.fieldsWf] at hw
  simp [decodeWord, decode5, hl, ifFields, srcOf_srcBits, dstOf_dstBits, hw]

theorem Laws.RoundTrip.cvtf (x0 : Src) (x1 : Bool) (x2 : Dst) (x3 : BitVec 3) (x4 : BitVec 2) : Laws.RoundTrip.Statement (Instr.cvtf x0 x1 x2 x3 x4) := by
  intro w he hw
  have hl := layout_8_6_5_1_5_3_2_2 _ _ _ _ _ _ _ _ (Option.some.inj he)
  simp [Instr.wf, Instr.srcs, Instr.dsts, Instr.fieldsWf] at hw
  simp [decodeWord, decode5, hl, ifFields, srcOf_srcBits, dstOf_dstBits, hw]

theorem Laws.RoundTrip.cvtx (x0 : Src) (x1 : Bool) (x2 : BitVec 2) (x3 : Dst) : Laws.RoundTrip.Statement (Instr.cvtx x0 x1 x2 x3) := by
  intro w he hw
  have hl := layout_8_6_3_1_2_5_7 _ _ _ _ _ _ _ (Option.some.inj he)
  simp [Instr.wf, Instr.srcs, Instr.dsts, Instr.fieldsWf] at hw
  simp [decodeWord, decode5, hl, ifFields, srcOf_srcBits, dstOf_dstBits, hw]

theorem Laws.RoundTrip.pperm (x0 : Src) (x1 : Src) (x2 : Dst) (x3 : Src) : Laws.RoundTrip.Statement (Instr.pperm x0 x1 x2 x3) := by
  intro w he hw
  have hl := layout_8_6_6_5_6_1 _ _ _ _ _ _ (Option.some.inj he)
  simp [Instr.wf, Instr.srcs, Instr.dsts, Instr.fieldsWf] at hw
  simp [decodeWord, decode5, hl, ifFields, srcOf_srcBits, dstOf_dstBits, hw]

theorem Laws.RoundTrip.ppack (x0 : Src) (x1 : Src) (x2 : Dst) (x3 : BitVec 3) (x4 : BitVec 2) (x5 : Bool) (x6 : Bool) : Laws.RoundTrip.Statement (Instr.ppack x0 x1 x2 x3 x4 x5 x6) := by
  intro w he hw
  have hl := layout_8_6_6_5_3_2_1_1 _ _ _ _ _ _ _ _ (Option.some.inj he)
  simp [Instr.wf, Instr.srcs, Instr.dsts, Instr.fieldsWf] at hw
  simp [decodeWord, decode5, hl, ifFields, srcOf_srcBits, dstOf_dstBits, hw]

theorem Laws.RoundTrip.punpk (x0 : Src) (x1 : Dst) (x2 : BitVec 3) (x3 : Bool) (x4 : Bool) : Laws.RoundTrip.Statement (Instr.punpk x0 x1 x2 x3 x4) := by
  intro w he hw
  have hl := layout_8_6_6_5_3_2_1_1 _ _ _ _ _ _ _ _ (Option.some.inj he)
  simp [Instr.wf, Instr.srcs, Instr.dsts, Instr.fieldsWf] at hw
  simp [decodeWord, decode5, hl, ifFields, srcOf_srcBits, dstOf_dstBits, hw]

theorem Laws.RoundTrip.wsadd (x0 : Src) (x1 : Src) (x2 : Dst) : Laws.RoundTrip.Statement (Instr.wsadd x0 x1 x2) := by
  intro w he hw
  have hl := layout_8_6_6_5_7 _ _ _ _ _ (Option.some.inj he)
  simp [Instr.wf, Instr.srcs, Instr.dsts, Instr.fieldsWf] at hw
  simp [decodeWord, decode5, hl, ifFields, srcOf_srcBits, dstOf_dstBits, hw]

theorem Laws.RoundTrip.wsscl (x0 : Src) (x1 : Src) (x2 : Dst) (x3 : BitVec 2) : Laws.RoundTrip.Statement (Instr.wsscl x0 x1 x2 x3) := by
  intro w he hw
  have hl := layout_8_6_6_5_5_2 _ _ _ _ _ _ (Option.some.inj he)
  simp [Instr.wf, Instr.srcs, Instr.dsts, Instr.fieldsWf] at hw
  simp [decodeWord, decode5, hl, ifFields, srcOf_srcBits, dstOf_dstBits, hw]

theorem Laws.RoundTrip.wsrnd (x0 : Src) (x1 : Src) (x2 : Dst) (x3 : BitVec 3) (x4 : BitVec 2) (x5 : Bool) (x6 : Bool) : Laws.RoundTrip.Statement (Instr.wsrnd x0 x1 x2 x3 x4 x5 x6) := by
  intro w he hw
  have hl := layout_8_6_6_5_3_2_1_1 _ _ _ _ _ _ _ _ (Option.some.inj he)
  simp [Instr.wf, Instr.srcs, Instr.dsts, Instr.fieldsWf] at hw
  simp [decodeWord, decode5, hl, ifFields, srcOf_srcBits, dstOf_dstBits, hw]

theorem Laws.RoundTrip.pint (x0 : Src) (x1 : Src) (x2 : Dst) (x3 : Bool) (x4 : Bool) (x5 : Bool) (x6 : BitVec 3) : Laws.RoundTrip.Statement (Instr.pint x0 x1 x2 x3 x4 x5 x6) := by
  intro w he hw
  have hl := layout_8_6_6_5_1_1_1_1_3 _ _ _ _ _ _ _ _ _ (Option.some.inj he)
  simp [Instr.wf, Instr.srcs, Instr.dsts, Instr.fieldsWf] at hw
  simp [decodeWord, decode5, hl, ifFields, srcOf_srcBits, dstOf_dstBits, hw]

theorem Laws.RoundTrip.pdoti (x0 : Src) (x1 : Src) (x2 : Dst) (x3 : Bool) (x4 : Bool) (x5 : Bool) : Laws.RoundTrip.Statement (Instr.pdoti x0 x1 x2 x3 x4 x5) := by
  intro w he hw
  have hl := layout_8_6_6_5_4_1_1_1 _ _ _ _ _ _ _ _ (Option.some.inj he)
  simp [Instr.wf, Instr.srcs, Instr.dsts, Instr.fieldsWf] at hw
  simp [decodeWord, decode5, hl, ifFields, srcOf_srcBits, dstOf_dstBits, hw]

theorem Laws.RoundTrip.ld (x0 : Src) (x1 : Dst) (x2 : BitVec 2) (x3 : BitVec 2) (x4 : BitVec 8) : Laws.RoundTrip.Statement (Instr.ld x0 x1 x2 x3 x4) := by
  intro w he hw
  have hl := layout_8_6_1_5_2_2_8 _ _ _ _ _ _ _ (Option.some.inj he)
  simp [Instr.wf, Instr.srcs, Instr.dsts, Instr.fieldsWf] at hw
  simp [decodeWord, decode6, hl, ifFields, srcOf_srcBits, dstOf_dstBits, hw]

theorem Laws.RoundTrip.st (x0 : Src) (x1 : Src) (x2 : BitVec 2) (x3 : BitVec 2) (x4 : BitVec 8) : Laws.RoundTrip.Statement (Instr.st x0 x1 x2 x3 x4) := by
  intro w he hw
  have hl := layout_8_6_6_2_2_8 _ _ _ _ _ _ (Option.some.inj he)
  simp [Instr.wf, Instr.srcs, Instr.dsts, Instr.fieldsWf] at hw
  simp [decodeWord, decode6, hl, ifFields, srcOf_srcBits, hw]

theorem Laws.RoundTrip.ldp (x0 : Src) (x1 : Dst) (x2 : BitVec 2) (x3 : BitVec 8) : Laws.RoundTrip.Statement (Instr.ldp x0 x1 x2 x3) := by
  intro w he hw
  have hl := layout_8_6_1_5_2_2_8 _ _ _ _ _ _ _ (Option.some.inj he)
  simp [Instr.wf, Instr.srcs, Instr.dsts, Instr.fieldsWf] at hw
  simp [decodeWord, decode6, hl, ifFields, srcOf_srcBits, dstOf_dstBits, hw]

theorem Laws.RoundTrip.stp (x0 : Src) (x1 : Src) (x2 : BitVec 2) (x3 : BitVec 8) : Laws.RoundTrip.Statement (Instr.stp x0 x1 x2 x3) := by
  intro w he hw
  have hl := layout_8_6_6_2_2_8 _ _ _ _ _ _ (Option.some.inj he)
  simp [Instr.wf, Instr.srcs, Instr.dsts, Instr.fieldsWf] at hw
  simp [decodeWord, decode6, hl, ifFields, srcOf_srcBits, hw]

theorem Laws.RoundTrip.tagr (x0 : Src) (x1 : Dst) (x2 : BitVec 8) : Laws.RoundTrip.Statement (Instr.tagr x0 x1 x2) := by
  intro w he hw
  have hl := layout_8_6_1_5_4_8 _ _ _ _ _ _ (Option.some.inj he)
  simp [Instr.wf, Instr.srcs, Instr.dsts, Instr.fieldsWf] at hw
  simp [decodeWord, decode6, hl, ifFields, srcOf_srcBits, dstOf_dstBits, hw]

theorem Laws.RoundTrip.tagw (x0 : Src) (x1 : Src) (x2 : BitVec 8) : Laws.RoundTrip.Statement (Instr.tagw x0 x1 x2) := by
  intro w he hw
  have hl := layout_8_6_6_4_8 _ _ _ _ _ (Option.some.inj he)
  simp [Instr.wf, Instr.srcs, Instr.dsts, Instr.fieldsWf] at hw
  simp [decodeWord, decode6, hl, ifFields, srcOf_srcBits, hw]

theorem Laws.RoundTrip.touch (x0 : Src) (x1 : BitVec 2) (x2 : BitVec 8) : Laws.RoundTrip.Statement (Instr.touch x0 x1 x2) := by
  intro w he hw
  have hl := layout_8_6_6_2_2_8 _ _ _ _ _ _ (Option.some.inj he)
  simp [Instr.wf, Instr.srcs, Instr.dsts, Instr.fieldsWf] at hw
  simp [decodeWord, decode6, hl, ifFields, srcOf_srcBits, hw]

theorem Laws.RoundTrip.ldm (x0 : Src) (x1 : Dst) (x2 : BitVec 2) (x3 : BitVec 2) (x4 : BitVec 8) : Laws.RoundTrip.Statement (Instr.ldm x0 x1 x2 x3 x4) := by
  intro w he hw
  have hl := layout_8_6_1_5_2_2_8 _ _ _ _ _ _ _ (Option.some.inj he)
  simp [Instr.wf, Instr.srcs, Instr.dsts, Instr.fieldsWf] at hw
  simp [decodeWord, decode6, hl, ifFields, srcOf_srcBits, dstOf_dstBits, hw]

theorem Laws.RoundTrip.stm (x0 : Src) (x1 : Src) (x2 : BitVec 2) (x3 : BitVec 2) (x4 : BitVec 8) : Laws.RoundTrip.Statement (Instr.stm x0 x1 x2 x3 x4) := by
  intro w he hw
  have hl := layout_8_6_6_2_2_8 _ _ _ _ _ _ (Option.some.inj he)
  simp [Instr.wf, Instr.srcs, Instr.dsts, Instr.fieldsWf] at hw
  simp [decodeWord, decode6, hl, ifFields, srcOf_srcBits, hw]

theorem Laws.RoundTrip.amo (x0 : Src) (x1 : Src) (x2 : BitVec 4) (x3 : Bool) (x4 : Bool) (x5 : Bool) : Laws.RoundTrip.Statement (Instr.amo x0 x1 x2 x3 x4 x5) := by
  intro w he hw
  have hl := layout_8_6_6_5_4_1_1_1 _ _ _ _ _ _ _ _ (Option.some.inj he)
  simp [Instr.wf, Instr.srcs, Instr.dsts, Instr.fieldsWf] at hw
  simp [decodeWord, decode7, hl, ifFields, srcOf_srcBits, hw]

theorem Laws.RoundTrip.amor (x0 : Src) (x1 : Src) (x2 : Dst) (x3 : BitVec 4) (x4 : Bool) (x5 : Bool) (x6 : Bool) : Laws.RoundTrip.Statement (Instr.amor x0 x1 x2 x3 x4 x5 x6) := by
  intro w he hw
  have hl := layout_8_6_6_5_4_1_1_1 _ _ _ _ _ _ _ _ (Option.some.inj he)
  simp [Instr.wf, Instr.srcs, Instr.dsts, Instr.fieldsWf] at hw
  simp [decodeWord, decode7, hl, ifFields, srcOf_srcBits, dstOf_dstBits, hw]

theorem Laws.RoundTrip.amod (x0 : Src) (x1 : Src) (x2 : BitVec 4) (x3 : Bool) (x4 : Bool) (x5 : Bool) : Laws.RoundTrip.Statement (Instr.amod x0 x1 x2 x3 x4 x5) := by
  intro w he hw
  have hl := layout_8_6_6_5_4_1_1_1 _ _ _ _ _ _ _ _ (Option.some.inj he)
  simp [Instr.wf, Instr.srcs, Instr.dsts, Instr.fieldsWf] at hw
  simp [decodeWord, decode7, hl, ifFields, srcOf_srcBits, hw]

theorem Laws.RoundTrip.cas (x0 : Src) (x1 : Src) (x2 : Dst) (x3 : Bool) (x4 : Bool) (x5 : Bool) (x6 : Bool) : Laws.RoundTrip.Statement (Instr.cas x0 x1 x2 x3 x4 x5 x6) := by
  intro w he hw
  have hl := layout_8_6_6_5_2_1_1_1_1_1 _ _ _ _ _ _ _ _ _ _ (Option.some.inj he)
  simp [Instr.wf, Instr.srcs, Instr.dsts, Instr.fieldsWf] at hw
  simp [decodeWord, decode7, hl, ifFields, srcOf_srcBits, dstOf_dstBits, hw]

theorem Laws.RoundTrip.putsig (x0 : Src) (x1 : Src) (x2 : Src) : Laws.RoundTrip.Statement (Instr.putsig x0 x1 x2) := by
  intro w he hw
  have hl := layout_8_6_6_5_6_1 _ _ _ _ _ _ (Option.some.inj he)
  simp [Instr.wf, Instr.srcs, Instr.dsts, Instr.fieldsWf] at hw
  simp [decodeWord, decode7, hl, ifFields, srcOf_srcBits, hw]

theorem Laws.RoundTrip.putsig2 (x0 : Src) (x1 : Src) (x2 : Src) : Laws.RoundTrip.Statement (Instr.putsig2 x0 x1 x2) := by
  intro w he hw
  have hl := layout_8_6_6_5_6_1 _ _ _ _ _ _ (Option.some.inj he)
  simp [Instr.wf, Instr.srcs, Instr.dsts, Instr.fieldsWf] at hw
  simp [decodeWord, decode7, hl, ifFields, srcOf_srcBits, hw]

theorem Laws.RoundTrip.arm (x0 : Src) (x1 : Src) : Laws.RoundTrip.Statement (Instr.arm x0 x1) := by
  intro w he hw
  have hl := layout_8_6_6_12 _ _ _ _ (Option.some.inj he)
  simp [Instr.wf, Instr.srcs, Instr.dsts, Instr.fieldsWf] at hw
  simp [decodeWord, decode7, hl, ifFields, srcOf_srcBits, hw]

theorem Laws.RoundTrip.waitg (x0 : Src) (x1 : Src) (x2 : Dst) (x3 : BitVec 7) : Laws.RoundTrip.Statement (Instr.waitg x0 x1 x2 x3) := by
  intro w he hw
  have hl := layout_8_6_6_5_7 _ _ _ _ _ (Option.some.inj he)
  simp [Instr.wf, Instr.srcs, Instr.dsts, Instr.fieldsWf] at hw
  simp [decodeWord, decode7, hl, ifFields, srcOf_srcBits, dstOf_dstBits, hw]

theorem Laws.RoundTrip.waitm (x0 : Src) (x1 : Src) (x2 : Dst) (x3 : BitVec 7) : Laws.RoundTrip.Statement (Instr.waitm x0 x1 x2 x3) := by
  intro w he hw
  have hl := layout_8_6_6_5_7 _ _ _ _ _ (Option.some.inj he)
  simp [Instr.wf, Instr.srcs, Instr.dsts, Instr.fieldsWf] at hw
  simp [decodeWord, decode7, hl, ifFields, srcOf_srcBits, dstOf_dstBits, hw]

theorem Laws.RoundTrip.waitc (x0 : BitVec 6) (x1 : BitVec 6) (x2 : BitVec 6) (x3 : BitVec 6) : Laws.RoundTrip.Statement (Instr.waitc x0 x1 x2 x3) := by
  intro w he hw
  have hl := layout_8_6_6_6_6 _ _ _ _ _ (Option.some.inj he)
  simp [decodeWord, decode7, hl, ifFields]

theorem Laws.RoundTrip.waitt (x0 : Src) (x1 : Src) (x2 : Dst) (x3 : BitVec 7) : Laws.RoundTrip.Statement (Instr.waitt x0 x1 x2 x3) := by
  intro w he hw
  have hl := layout_8_6_6_5_7 _ _ _ _ _ (Option.some.inj he)
  simp [Instr.wf, Instr.srcs, Instr.dsts, Instr.fieldsWf] at hw
  simp [decodeWord, decode7, hl, ifFields, srcOf_srcBits, dstOf_dstBits, hw]

theorem Laws.RoundTrip.bar (x0 : Src) (x1 : BitVec 7) : Laws.RoundTrip.Statement (Instr.bar x0 x1) := by
  intro w he hw
  have hl := layout_8_6_11_7 _ _ _ _ (Option.some.inj he)
  simp [Instr.wf, Instr.srcs, Instr.dsts, Instr.fieldsWf] at hw
  simp [decodeWord, decode7, hl, ifFields, srcOf_srcBits, hw]

theorem Laws.RoundTrip.barg (x0 : Src) (x1 : BitVec 7) : Laws.RoundTrip.Statement (Instr.barg x0 x1) := by
  intro w he hw
  have hl := layout_8_6_11_7 _ _ _ _ (Option.some.inj he)
  simp [Instr.wf, Instr.srcs, Instr.dsts, Instr.fieldsWf] at hw
  simp [decodeWord, decode7, hl, ifFields, srcOf_srcBits, hw]

theorem Laws.RoundTrip.sig (x0 : Src) (x1 : Src) : Laws.RoundTrip.Statement (Instr.sig x0 x1) := by
  intro w he hw
  have hl := layout_8_6_6_12 _ _ _ _ (Option.some.inj he)
  simp [Instr.wf, Instr.srcs, Instr.dsts, Instr.fieldsWf] at hw
  simp [decodeWord, decode7, hl, ifFields, srcOf_srcBits, hw]

theorem Laws.RoundTrip.qres (x0 : Src) (x1 : Dst) (x2 : BitVec 7) : Laws.RoundTrip.Statement (Instr.qres x0 x1 x2) := by
  intro w he hw
  have hl := layout_8_6_6_5_7 _ _ _ _ _ (Option.some.inj he)
  simp [Instr.wf, Instr.srcs, Instr.dsts, Instr.fieldsWf] at hw
  simp [decodeWord, decode8, hl, ifFields, srcOf_srcBits, dstOf_dstBits, hw]

theorem Laws.RoundTrip.qpub (x0 : Src) : Laws.RoundTrip.Statement (Instr.qpub x0) := by
  intro w he hw
  have hl := layout_8_6_18 _ _ _ (Option.some.inj he)
  simp [Instr.wf, Instr.srcs, Instr.dsts, Instr.fieldsWf] at hw
  simp [decodeWord, decode8, hl, ifFields, srcOf_srcBits, hw]

theorem Laws.RoundTrip.qpop (x0 : Src) (x1 : Dst) (x2 : BitVec 7) : Laws.RoundTrip.Statement (Instr.qpop x0 x1 x2) := by
  intro w he hw
  have hl := layout_8_6_6_5_7 _ _ _ _ _ (Option.some.inj he)
  simp [Instr.wf, Instr.srcs, Instr.dsts, Instr.fieldsWf] at hw
  simp [decodeWord, decode8, hl, ifFields, srcOf_srcBits, dstOf_dstBits, hw]

theorem Laws.RoundTrip.qrel (x0 : Src) : Laws.RoundTrip.Statement (Instr.qrel x0) := by
  intro w he hw
  have hl := layout_8_6_18 _ _ _ (Option.some.inj he)
  simp [Instr.wf, Instr.srcs, Instr.dsts, Instr.fieldsWf] at hw
  simp [decodeWord, decode8, hl, ifFields, srcOf_srcBits, hw]

theorem Laws.RoundTrip.qpush (x0 : Src) (x1 : Src) (x2 : Dst) (x3 : BitVec 7) : Laws.RoundTrip.Statement (Instr.qpush x0 x1 x2 x3) := by
  intro w he hw
  have hl := layout_8_6_6_5_7 _ _ _ _ _ (Option.some.inj he)
  simp [Instr.wf, Instr.srcs, Instr.dsts, Instr.fieldsWf] at hw
  simp [decodeWord, decode8, hl, ifFields, srcOf_srcBits, dstOf_dstBits, hw]

theorem Laws.RoundTrip.qinfo (x0 : Src) (x1 : Dst) : Laws.RoundTrip.Statement (Instr.qinfo x0 x1) := by
  intro w he hw
  have hl := layout_8_6_6_5_7 _ _ _ _ _ (Option.some.inj he)
  simp [Instr.wf, Instr.srcs, Instr.dsts, Instr.fieldsWf] at hw
  simp [decodeWord, decode8, hl, ifFields, srcOf_srcBits, dstOf_dstBits, hw]

theorem Laws.RoundTrip.qclose (x0 : Src) : Laws.RoundTrip.Statement (Instr.qclose x0) := by
  intro w he hw
  have hl := layout_8_6_18 _ _ _ (Option.some.inj he)
  simp [Instr.wf, Instr.srcs, Instr.dsts, Instr.fieldsWf] at hw
  simp [decodeWord, decode8, hl, ifFields, srcOf_srcBits, hw]

theorem Laws.RoundTrip.tmm (x0 : Src) (x1 : Src) (x2 : Dst) (x3 : Bool) (x4 : BitVec 2) : Laws.RoundTrip.Statement (Instr.tmm x0 x1 x2 x3 x4) := by
  intro w he hw
  have hl := layout_8_6_6_5_4_1_2 _ _ _ _ _ _ _ (Option.some.inj he)
  simp [Instr.wf, Instr.srcs, Instr.dsts, Instr.fieldsWf] at hw
  simp [decodeWord, decode9, hl, ifFields, srcOf_srcBits, dstOf_dstBits, hw]

theorem Laws.RoundTrip.tzero (x0 : Src) (x1 : Dst) (x2 : BitVec 2) : Laws.RoundTrip.Statement (Instr.tzero x0 x1 x2) := by
  intro w he hw
  have hl := layout_8_6_6_5_5_2 _ _ _ _ _ _ (Option.some.inj he)
  simp [Instr.wf, Instr.srcs, Instr.dsts, Instr.fieldsWf] at hw
  simp [decodeWord, decode9, hl, ifFields, srcOf_srcBits, dstOf_dstBits, hw]

theorem Laws.RoundTrip.tst (x0 : Src) (x1 : Src) (x2 : Dst) (x3 : BitVec 2) : Laws.RoundTrip.Statement (Instr.tst x0 x1 x2 x3) := by
  intro w he hw
  have hl := layout_8_6_6_5_5_2 _ _ _ _ _ _ (Option.some.inj he)
  simp [Instr.wf, Instr.srcs, Instr.dsts, Instr.fieldsWf] at hw
  simp [decodeWord, decode9, hl, ifFields, srcOf_srcBits, dstOf_dstBits, hw]

theorem Laws.RoundTrip.tred (x0 : Src) (x1 : Src) (x2 : Dst) (x3 : BitVec 2) : Laws.RoundTrip.Statement (Instr.tred x0 x1 x2 x3) := by
  intro w he hw
  have hl := layout_8_6_6_5_5_2 _ _ _ _ _ _ (Option.some.inj he)
  simp [Instr.wf, Instr.srcs, Instr.dsts, Instr.fieldsWf] at hw
  simp [decodeWord, decode9, hl, ifFields, srcOf_srcBits, dstOf_dstBits, hw]

theorem Laws.RoundTrip.tws (x0 : Src) (x1 : Src) (x2 : Dst) (x3 : BitVec 2) : Laws.RoundTrip.Statement (Instr.tws x0 x1 x2 x3) := by
  intro w he hw
  have hl := layout_8_6_6_5_5_2 _ _ _ _ _ _ (Option.some.inj he)
  simp [Instr.wf, Instr.srcs, Instr.dsts, Instr.fieldsWf] at hw
  simp [decodeWord, decode9, hl, ifFields, srcOf_srcBits, dstOf_dstBits, hw]

theorem Laws.RoundTrip.twsl (x0 : Src) (x1 : Src) (x2 : Dst) (x3 : BitVec 2) : Laws.RoundTrip.Statement (Instr.twsl x0 x1 x2 x3) := by
  intro w he hw
  have hl := layout_8_6_6_5_5_2 _ _ _ _ _ _ (Option.some.inj he)
  simp [Instr.wf, Instr.srcs, Instr.dsts, Instr.fieldsWf] at hw
  simp [decodeWord, decode9, hl, ifFields, srcOf_srcBits, dstOf_dstBits, hw]

theorem Laws.RoundTrip.tcfg (x0 : Src) (x1 : Src) : Laws.RoundTrip.Statement (Instr.tcfg x0 x1) := by
  intro w he hw
  have hl := layout_8_6_6_12 _ _ _ _ (Option.some.inj he)
  simp [Instr.wf, Instr.srcs, Instr.dsts, Instr.fieldsWf] at hw
  simp [decodeWord, decode9, hl, ifFields, srcOf_srcBits, hw]

theorem Laws.RoundTrip.tcmd (x0 : Src) (x1 : Dst) : Laws.RoundTrip.Statement (Instr.tcmd x0 x1) := by
  intro w he hw
  have hl := layout_8_6_6_5_7 _ _ _ _ _ (Option.some.inj he)
  simp [Instr.wf, Instr.srcs, Instr.dsts, Instr.fieldsWf] at hw
  simp [decodeWord, decode9, hl, ifFields, srcOf_srcBits, dstOf_dstBits, hw]

theorem Laws.RoundTrip.tld (x0 : Src) (x1 : Src) (x2 : Dst) (x3 : BitVec 2) : Laws.RoundTrip.Statement (Instr.tld x0 x1 x2 x3) := by
  intro w he hw
  have hl := layout_8_6_6_5_5_2 _ _ _ _ _ _ (Option.some.inj he)
  simp [Instr.wf, Instr.srcs, Instr.dsts, Instr.fieldsWf] at hw
  simp [decodeWord, decode9, hl, ifFields, srcOf_srcBits, dstOf_dstBits, hw]

theorem Laws.RoundTrip.tacc (x0 : Src) (x1 : Src) (x2 : Dst) (x3 : BitVec 2) : Laws.RoundTrip.Statement (Instr.tacc x0 x1 x2 x3) := by
  intro w he hw
  have hl := layout_8_6_6_5_5_2 _ _ _ _ _ _ (Option.some.inj he)
  simp [Instr.wf, Instr.srcs, Instr.dsts, Instr.fieldsWf] at hw
  simp [decodeWord, decode9, hl, ifFields, srcOf_srcBits, dstOf_dstBits, hw]

theorem Laws.RoundTrip.ecmd (x0 : Src) (x1 : Src) (x2 : Dst) : Laws.RoundTrip.Statement (Instr.ecmd x0 x1 x2) := by
  intro w he hw
  have hl := layout_8_6_6_5_7 _ _ _ _ _ (Option.some.inj he)
  simp [Instr.wf, Instr.srcs, Instr.dsts, Instr.fieldsWf] at hw
  simp [decodeWord, decodeA, hl, ifFields, srcOf_srcBits, dstOf_dstBits, hw]

theorem Laws.RoundTrip.chain (x0 : Src) (x1 : Dst) : Laws.RoundTrip.Statement (Instr.chain x0 x1) := by
  intro w he hw
  have hl := layout_8_6_6_5_7 _ _ _ _ _ (Option.some.inj he)
  simp [Instr.wf, Instr.srcs, Instr.dsts, Instr.fieldsWf] at hw
  simp [decodeWord, decodeA, hl, ifFields, srcOf_srcBits, dstOf_dstBits, hw]

theorem Laws.RoundTrip.cstat (x0 : Src) (x1 : Src) (x2 : Dst) : Laws.RoundTrip.Statement (Instr.cstat x0 x1 x2) := by
  intro w he hw
  have hl := layout_8_6_6_5_7 _ _ _ _ _ (Option.some.inj he)
  simp [Instr.wf, Instr.srcs, Instr.dsts, Instr.fieldsWf] at hw
  simp [decodeWord, decodeA, hl, ifFields, srcOf_srcBits, dstOf_dstBits, hw]

theorem Laws.RoundTrip.ccan (x0 : Dst) : Laws.RoundTrip.Statement (Instr.ccan x0) := by
  intro w he hw
  have hl := layout_8_12_5_7 _ _ _ _ (Option.some.inj he)
  simp [Instr.wf, Instr.srcs, Instr.dsts, Instr.fieldsWf] at hw
  simp [decodeWord, decodeA, hl, ifFields, dstOf_dstBits, hw]

theorem Laws.RoundTrip.send (x0 : Src) (x1 : Src) : Laws.RoundTrip.Statement (Instr.send x0 x1) := by
  intro w he hw
  have hl := layout_8_6_6_12 _ _ _ _ (Option.some.inj he)
  simp [Instr.wf, Instr.srcs, Instr.dsts, Instr.fieldsWf] at hw
  simp [decodeWord, decodeB, hl, ifFields, srcOf_srcBits, hw]

theorem Laws.RoundTrip.sendb (x0 : Src) (x1 : Src) : Laws.RoundTrip.Statement (Instr.sendb x0 x1) := by
  intro w he hw
  have hl := layout_8_6_6_12 _ _ _ _ (Option.some.inj he)
  simp [Instr.wf, Instr.srcs, Instr.dsts, Instr.fieldsWf] at hw
  simp [decodeWord, decodeB, hl, ifFields, srcOf_srcBits, hw]

theorem Laws.RoundTrip.sendi (x0 : Src) (x1 : Src) : Laws.RoundTrip.Statement (Instr.sendi x0 x1) := by
  intro w he hw
  have hl := layout_8_6_6_12 _ _ _ _ (Option.some.inj he)
  simp [Instr.wf, Instr.srcs, Instr.dsts, Instr.fieldsWf] at hw
  simp [decodeWord, decodeB, hl, ifFields, srcOf_srcBits, hw]

theorem Laws.RoundTrip.cmask (x0 : Src) (x1 : Dst) : Laws.RoundTrip.Statement (Instr.cmask x0 x1) := by
  intro w he hw
  have hl := layout_8_6_6_5_7 _ _ _ _ _ (Option.some.inj he)
  simp [Instr.wf, Instr.srcs, Instr.dsts, Instr.fieldsWf] at hw
  simp [decodeWord, decodeB, hl, ifFields, srcOf_srcBits, dstOf_dstBits, hw]

theorem Laws.RoundTrip.cunm (x0 : Src) (x1 : Dst) : Laws.RoundTrip.Statement (Instr.cunm x0 x1) := by
  intro w he hw
  have hl := layout_8_6_6_5_7 _ _ _ _ _ (Option.some.inj he)
  simp [Instr.wf, Instr.srcs, Instr.dsts, Instr.fieldsWf] at hw
  simp [decodeWord, decodeB, hl, ifFields, srcOf_srcBits, dstOf_dstBits, hw]

theorem Laws.RoundTrip.rdin (x0 : Src) (x1 : Dst) : Laws.RoundTrip.Statement (Instr.rdin x0 x1) := by
  intro w he hw
  have hl := layout_8_6_6_5_7 _ _ _ _ _ (Option.some.inj he)
  simp [Instr.wf, Instr.srcs, Instr.dsts, Instr.fieldsWf] at hw
  simp [decodeWord, decodeB, hl, ifFields, srcOf_srcBits, dstOf_dstBits, hw]

theorem Laws.RoundTrip.redn (x0 : Src) (x1 : Src) : Laws.RoundTrip.Statement (Instr.redn x0 x1) := by
  intro w he hw
  have hl := layout_8_6_6_12 _ _ _ _ (Option.some.inj he)
  simp [Instr.wf, Instr.srcs, Instr.dsts, Instr.fieldsWf] at hw
  simp [decodeWord, decodeB, hl, ifFields, srcOf_srcBits, hw]

theorem Laws.RoundTrip.sendw (x0 : Src) (x1 : Src) (x2 : Dst) (x3 : BitVec 7) : Laws.RoundTrip.Statement (Instr.sendw x0 x1 x2 x3) := by
  intro w he hw
  have hl := layout_8_6_6_5_7 _ _ _ _ _ (Option.some.inj he)
  simp [Instr.wf, Instr.srcs, Instr.dsts, Instr.fieldsWf] at hw
  simp [decodeWord, decodeB, hl, ifFields, srcOf_srcBits, dstOf_dstBits, hw]

theorem Laws.RoundTrip.spawn (x0 : Src) (x1 : Src) : Laws.RoundTrip.Statement (Instr.spawn x0 x1) := by
  intro w he hw
  have hl := layout_8_6_6_12 _ _ _ _ (Option.some.inj he)
  simp [Instr.wf, Instr.srcs, Instr.dsts, Instr.fieldsWf] at hw
  simp [decodeWord, decodeC, hl, ifFields, srcOf_srcBits, hw]

theorem Laws.RoundTrip.take (x0 : Dst) : Laws.RoundTrip.Statement (Instr.take x0) := by
  intro w he hw
  have hl := layout_8_12_5_7 _ _ _ _ (Option.some.inj he)
  simp [Instr.wf, Instr.srcs, Instr.dsts, Instr.fieldsWf] at hw
  simp [decodeWord, decodeC, hl, ifFields, dstOf_dstBits, hw]

theorem Laws.RoundTrip.yield (x0 : BitVec 13) : Laws.RoundTrip.Statement (Instr.yield x0) := by
  intro w he hw
  have hl := layout_8_11_13 _ _ _ (Option.some.inj he)
  simp [decodeWord, decodeC, hl, ifFields]

theorem Laws.RoundTrip.launch (x0 : Src) (x1 : Dst) : Laws.RoundTrip.Statement (Instr.launch x0 x1) := by
  intro w he hw
  have hl := layout_8_6_6_5_7 _ _ _ _ _ (Option.some.inj he)
  simp [Instr.wf, Instr.srcs, Instr.dsts, Instr.fieldsWf] at hw
  simp [decodeWord, decodeC, hl, ifFields, srcOf_srcBits, dstOf_dstBits, hw]

theorem Laws.RoundTrip.tready (x0 : Src) (x1 : Dst) : Laws.RoundTrip.Statement (Instr.tready x0 x1) := by
  intro w he hw
  have hl := layout_8_6_6_5_7 _ _ _ _ _ (Option.some.inj he)
  simp [Instr.wf, Instr.srcs, Instr.dsts, Instr.fieldsWf] at hw
  simp [decodeWord, decodeC, hl, ifFields, srcOf_srcBits, dstOf_dstBits, hw]

theorem Laws.RoundTrip.stagePut (x0 : Src) (x1 : Src) (x2 : Dst) : Laws.RoundTrip.Statement (Instr.stagePut x0 x1 x2) := by
  intro w he hw
  have hl := layout_8_6_6_5_7 _ _ _ _ _ (Option.some.inj he)
  simp [Instr.wf, Instr.srcs, Instr.dsts, Instr.fieldsWf] at hw
  simp [decodeWord, decodeC, hl, ifFields, srcOf_srcBits, dstOf_dstBits, hw]

theorem Laws.RoundTrip.stageTwin (x0 : Src) (x1 : Src) (x2 : Dst) : Laws.RoundTrip.Statement (Instr.stageTwin x0 x1 x2) := by
  intro w he hw
  have hl := layout_8_6_6_5_7 _ _ _ _ _ (Option.some.inj he)
  simp [Instr.wf, Instr.srcs, Instr.dsts, Instr.fieldsWf] at hw
  simp [decodeWord, decodeC, hl, ifFields, srcOf_srcBits, dstOf_dstBits, hw]

theorem Laws.RoundTrip.stageMerge (x0 : Src) (x1 : Src) (x2 : Dst) : Laws.RoundTrip.Statement (Instr.stageMerge x0 x1 x2) := by
  intro w he hw
  have hl := layout_8_6_6_5_7 _ _ _ _ _ (Option.some.inj he)
  simp [Instr.wf, Instr.srcs, Instr.dsts, Instr.fieldsWf] at hw
  simp [decodeWord, decodeC, hl, ifFields, srcOf_srcBits, dstOf_dstBits, hw]

theorem Laws.RoundTrip.stageInfo (x0 : Src) (x1 : Dst) : Laws.RoundTrip.Statement (Instr.stageInfo x0 x1) := by
  intro w he hw
  have hl := layout_8_6_6_5_7 _ _ _ _ _ (Option.some.inj he)
  simp [Instr.wf, Instr.srcs, Instr.dsts, Instr.fieldsWf] at hw
  simp [decodeWord, decodeC, hl, ifFields, srcOf_srcBits, dstOf_dstBits, hw]

theorem Laws.RoundTrip.stageClose (x0 : Src) : Laws.RoundTrip.Statement (Instr.stageClose x0) := by
  intro w he hw
  have hl := layout_8_6_18 _ _ _ (Option.some.inj he)
  simp [Instr.wf, Instr.srcs, Instr.dsts, Instr.fieldsWf] at hw
  simp [decodeWord, decodeC, hl, ifFields, srcOf_srcBits, hw]

theorem Laws.RoundTrip.gid (x0 : Dst) (x1 : BitVec 3) : Laws.RoundTrip.Statement (Instr.gid x0 x1) := by
  intro w he hw
  have hl := layout_8_12_5_4_3 _ _ _ _ _ (Option.some.inj he)
  simp [Instr.wf, Instr.srcs, Instr.dsts, Instr.fieldsWf] at hw
  simp [decodeWord, decodeC, hl, ifFields, dstOf_dstBits, hw]

theorem Laws.RoundTrip.qdie (x0 : Src) (x1 : Dst) (x2 : BitVec 7) : Laws.RoundTrip.Statement (Instr.qdie x0 x1 x2) := by
  intro w he hw
  have hl := layout_8_6_6_5_7 _ _ _ _ _ (Option.some.inj he)
  simp [Instr.wf, Instr.srcs, Instr.dsts, Instr.fieldsWf] at hw
  simp [decodeWord, decodeC, hl, ifFields, srcOf_srcBits, dstOf_dstBits, hw]

theorem Laws.RoundTrip.tcbq (x0 : Dst) : Laws.RoundTrip.Statement (Instr.tcbq x0) := by
  intro w he hw
  have hl := layout_8_12_5_7 _ _ _ _ (Option.some.inj he)
  simp [Instr.wf, Instr.srcs, Instr.dsts, Instr.fieldsWf] at hw
  simp [decodeWord, decodeC, hl, ifFields, dstOf_dstBits, hw]

theorem Laws.RoundTrip.getc (x0 : Dst) (x1 : BitVec 12) : Laws.RoundTrip.Statement (Instr.getc x0 x1) := by
  intro w he hw
  have hl := layout_8_6_5_1_12 _ _ _ _ _ (Option.some.inj he)
  simp [Instr.wf, Instr.srcs, Instr.dsts, Instr.fieldsWf] at hw
  simp [decodeWord, decodeD, hl, ifFields, dstOf_dstBits, hw]

theorem Laws.RoundTrip.setc (x0 : Src) (x1 : BitVec 12) : Laws.RoundTrip.Statement (Instr.setc x0 x1) := by
  intro w he hw
  have hl := layout_8_6_6_12 _ _ _ _ (Option.some.inj he)
  simp [Instr.wf, Instr.srcs, Instr.dsts, Instr.fieldsWf] at hw
  simp [decodeWord, decodeD, hl, ifFields, srcOf_srcBits, hw]

theorem Laws.RoundTrip.swpc (x0 : Src) (x1 : Dst) (x2 : BitVec 12) : Laws.RoundTrip.Statement (Instr.swpc x0 x1 x2) := by
  intro w he hw
  have hl := layout_8_6_5_1_12 _ _ _ _ _ (Option.some.inj he)
  simp [Instr.wf, Instr.srcs, Instr.dsts, Instr.fieldsWf] at hw
  simp [decodeWord, decodeD, hl, ifFields, srcOf_srcBits, dstOf_dstBits, hw]

theorem Laws.RoundTrip.setcb (x0 : Src) (x1 : Dst) (x2 : Bool) (x3 : BitVec 12) : Laws.RoundTrip.Statement (Instr.setcb x0 x1 x2 x3) := by
  intro w he hw
  have hl := layout_8_6_5_1_12 _ _ _ _ _ (Option.some.inj he)
  simp [Instr.wf, Instr.srcs, Instr.dsts, Instr.fieldsWf] at hw
  simp [decodeWord, decodeD, hl, ifFields, srcOf_srcBits, dstOf_dstBits, hw]

theorem Laws.RoundTrip.sys (x0 : Src) (x1 : BitVec 12) : Laws.RoundTrip.Statement (Instr.sys x0 x1) := by
  intro w he hw
  have hl := layout_8_6_6_12 _ _ _ _ (Option.some.inj he)
  simp [Instr.wf, Instr.srcs, Instr.dsts, Instr.fieldsWf] at hw
  simp [decodeWord, decodeD, hl, ex_sys _ _ (Option.some.inj he) hw.2, ifFields, srcOf_srcBits, hw.1]

theorem Laws.RoundTrip.resumeTeam (x0 : Src) : Laws.RoundTrip.Statement (Instr.resumeTeam x0) := by
  intro w he hw
  have hl := layout_8_6_18 _ _ _ (Option.some.inj he)
  simp [Instr.wf, Instr.srcs, Instr.dsts, Instr.fieldsWf] at hw
  simp [decodeWord, decodeD, hl, srcOf_srcBits, hw]

theorem Laws.RoundTrip.tret (x0 : Bool) : Laws.RoundTrip.Statement (Instr.tret x0) := by
  intro w he hw
  have hl := layout_8_23_1 _ _ _ (Option.some.inj he)
  simp [decodeWord, decodeD, hl, ifFields]

theorem Laws.RoundTrip.halt (x0 : Src) : Laws.RoundTrip.Statement (Instr.halt x0) := by
  intro w he hw
  have hl := layout_8_6_18 _ _ _ (Option.some.inj he)
  simp [Instr.wf, Instr.srcs, Instr.dsts, Instr.fieldsWf] at hw
  simp [decodeWord, decodeD, hl, ifFields, srcOf_srcBits, hw]

theorem Laws.RoundTrip.xinv (x0 : Src) (x1 : Src) : Laws.RoundTrip.Statement (Instr.xinv x0 x1) := by
  intro w he hw
  have hl := layout_8_6_6_12 _ _ _ _ (Option.some.inj he)
  simp [Instr.wf, Instr.srcs, Instr.dsts, Instr.fieldsWf] at hw
  simp [decodeWord, decodeD, hl, ifFields, srcOf_srcBits, hw]

theorem Laws.RoundTrip.xprobe (x0 : Src) (x1 : Dst) : Laws.RoundTrip.Statement (Instr.xprobe x0 x1) := by
  intro w he hw
  have hl := layout_8_6_6_5_7 _ _ _ _ _ (Option.some.inj he)
  simp [Instr.wf, Instr.srcs, Instr.dsts, Instr.fieldsWf] at hw
  simp [decodeWord, decodeD, hl, ifFields, srcOf_srcBits, dstOf_dstBits, hw]

theorem Laws.RoundTrip.stamp (x0 : Src) (x1 : Dst) (x2 : BitVec 2) : Laws.RoundTrip.Statement (Instr.stamp x0 x1 x2) := by
  intro w he hw
  have hl := layout_8_6_6_5_5_2 _ _ _ _ _ _ (Option.some.inj he)
  simp [Instr.wf, Instr.srcs, Instr.dsts, Instr.fieldsWf] at hw
  simp [decodeWord, decodeD, hl, ifFields, srcOf_srcBits, dstOf_dstBits, hw]

theorem Laws.RoundTrip.cyc (x0 : Dst) (x1 : Bool) : Laws.RoundTrip.Statement (Instr.cyc x0 x1) := by
  intro w he hw
  have hl := layout_8_12_5_6_1 _ _ _ _ _ (Option.some.inj he)
  simp [Instr.wf, Instr.srcs, Instr.dsts, Instr.fieldsWf] at hw
  simp [decodeWord, decodeD, hl, ifFields, dstOf_dstBits, hw]

theorem Laws.RoundTrip.ebreak (x0 : BitVec 13) : Laws.RoundTrip.Statement (Instr.ebreak x0) := by
  intro w he hw
  have hl := layout_8_11_13 _ _ _ (Option.some.inj he)
  simp [decodeWord, decodeD, hl, ifFields]

theorem Laws.RoundTrip.gate (x0 : BitVec 2) : Laws.RoundTrip.Statement (Instr.gate x0) := by
  intro w he hw
  have hl := layout_8_22_2 _ _ _ (Option.some.inj he)
  simp [decodeWord, decodeD, hl, ifFields]

theorem Laws.RoundTrip.steal (x0 : Nat) : Laws.RoundTrip.Statement (Instr.steal x0) := by
  intro w he _
  cases he

theorem Laws.RoundTrip.dieQueuePop (x0 : Nat) (x1 : Nat) : Laws.RoundTrip.Statement (Instr.dieQueuePop x0 x1) := by
  intro w he _
  cases he

theorem Laws.RoundTrip.homeAccess (x0 : Nat) : Laws.RoundTrip.Statement (Instr.homeAccess x0) := by
  intro w he _
  cases he

theorem Laws.RoundTrip.accessCompletion (x0 : Nat) : Laws.RoundTrip.Statement (Instr.accessCompletion x0) := by
  intro w he _
  cases he

theorem Laws.RoundTrip.translationWalk (x0 : Nat) (x1 : Nat) : Laws.RoundTrip.Statement (Instr.translationWalk x0 x1) := by
  intro w he _
  cases he

theorem Laws.RoundTrip.translationInvalidation (x0 : Nat) : Laws.RoundTrip.Statement (Instr.translationInvalidation x0) := by
  intro w he _
  cases he

theorem Laws.RoundTrip.quarantineReturn (x0 : Nat) : Laws.RoundTrip.Statement (Instr.quarantineReturn x0) := by
  intro w he _
  cases he

theorem Laws.RoundTrip.followOnDelivery (x0 : Nat) : Laws.RoundTrip.Statement (Instr.followOnDelivery x0) := by
  intro w he _
  cases he

theorem Laws.RoundTrip.chunkCompletion (x0 : Nat) : Laws.RoundTrip.Statement (Instr.chunkCompletion x0) := by
  intro w he _
  cases he

theorem Laws.RoundTrip.ringArbitrationRound (x0 : Nat) : Laws.RoundTrip.Statement (Instr.ringArbitrationRound x0) := by
  intro w he _
  cases he

theorem Laws.RoundTrip.storeBudgetRefill (x0 : Nat) (x1 : Nat) : Laws.RoundTrip.Statement (Instr.storeBudgetRefill x0 x1) := by
  intro w he _
  cases he

theorem Laws.RoundTrip.messageAccept (x0 : Nat) : Laws.RoundTrip.Statement (Instr.messageAccept x0) := by
  intro w he _
  cases he

theorem Laws.RoundTrip.reductionContribution (x0 : Nat) (x1 : Nat) : Laws.RoundTrip.Statement (Instr.reductionContribution x0 x1) := by
  intro w he _
  cases he

theorem Laws.RoundTrip.flitAgePriority (x0 : Nat) : Laws.RoundTrip.Statement (Instr.flitAgePriority x0) := by
  intro w he _
  cases he

theorem Laws.RoundTrip.launchEnqueue (x0 : Nat) : Laws.RoundTrip.Statement (Instr.launchEnqueue x0) := by
  intro w he _
  cases he

theorem Laws.RoundTrip.memberRetirement (x0 : Nat) : Laws.RoundTrip.Statement (Instr.memberRetirement x0) := by
  intro w he _
  cases he

theorem Laws.RoundTrip.completionSignal (x0 : Nat) : Laws.RoundTrip.Statement (Instr.completionSignal x0) := by
  intro w he _
  cases he

theorem Laws.RoundTrip.retirementReport (x0 : Nat) (x1 : Nat) : Laws.RoundTrip.Statement (Instr.retirementReport x0 x1) := by
  intro w he _
  cases he

theorem Laws.RoundTrip.groupPlacement (x0 : Nat) (x1 : Nat) : Laws.RoundTrip.Statement (Instr.groupPlacement x0 x1) := by
  intro w he _
  cases he

theorem Laws.RoundTrip.stageOverload (x0 : Nat) (x1 : Nat) : Laws.RoundTrip.Statement (Instr.stageOverload x0 x1) := by
  intro w he _
  cases he

theorem Laws.RoundTrip.kioskStageOrder (x0 : Nat) (x1 : Bool) (x2 : Nat) : Laws.RoundTrip.Statement (Instr.kioskStageOrder x0 x1 x2) := by
  intro w he _
  cases he

theorem Laws.RoundTrip.writeWindow (x0 : Nat) (x1 : Nat) : Laws.RoundTrip.Statement (Instr.writeWindow x0 x1) := by
  intro w he _
  cases he

theorem Laws.RoundTrip.rowAlert (x0 : Nat) (x1 : Nat) : Laws.RoundTrip.Statement (Instr.rowAlert x0 x1) := by
  intro w he _
  cases he

theorem Laws.RoundTrip.refresh (x0 : Nat) (x1 : Nat) (x2 : Nat) : Laws.RoundTrip.Statement (Instr.refresh x0 x1 x2) := by
  intro w he _
  cases he

theorem Laws.RoundTrip.migrationPull (x0 : Nat) (x1 : Nat) (x2 : Nat) : Laws.RoundTrip.Statement (Instr.migrationPull x0 x1 x2) := by
  intro w he _
  cases he

theorem Laws.RoundTrip.nmGemv (x0 : Nat) (x1 : Nat) : Laws.RoundTrip.Statement (Instr.nmGemv x0 x1) := by
  intro w he _
  cases he

theorem Laws.RoundTrip.nmAxpby (x0 : Nat) (x1 : Nat) : Laws.RoundTrip.Statement (Instr.nmAxpby x0 x1) := by
  intro w he _
  cases he

theorem Laws.RoundTrip.nmReduce (x0 : Nat) (x1 : Nat) : Laws.RoundTrip.Statement (Instr.nmReduce x0 x1) := by
  intro w he _
  cases he

theorem Laws.RoundTrip.nmFill (x0 : Nat) (x1 : Nat) : Laws.RoundTrip.Statement (Instr.nmFill x0 x1) := by
  intro w he _
  cases he

theorem Laws.RoundTrip.nmCopy (x0 : Nat) (x1 : Nat) : Laws.RoundTrip.Statement (Instr.nmCopy x0 x1) := by
  intro w he _
  cases he

theorem Laws.RoundTrip.nmMigrate (x0 : Nat) (x1 : Nat) : Laws.RoundTrip.Statement (Instr.nmMigrate x0 x1) := by
  intro w he _
  cases he

theorem Laws.RoundTrip.nmReply (x0 : Nat) (x1 : Nat) : Laws.RoundTrip.Statement (Instr.nmReply x0 x1) := by
  intro w he _
  cases he

theorem Laws.RoundTrip.disturbWrite (x0 : Nat) (x1 : BitVec 64) : Laws.RoundTrip.Statement (Instr.disturbWrite x0 x1) := by
  intro w he _
  cases he

theorem Laws.RoundTrip.einjWrite (x0 : Nat) (x1 : BitVec 64) : Laws.RoundTrip.Statement (Instr.einjWrite x0 x1) := by
  intro w he _
  cases he

theorem Laws.RoundTrip.astatWrite (x0 : Bool) (x1 : Nat) (x2 : BitVec 64) : Laws.RoundTrip.Statement (Instr.astatWrite x0 x1 x2) := by
  intro w he _
  cases he

theorem Laws.RoundTrip.ecccntWrite (x0 : Nat) (x1 : BitVec 64) : Laws.RoundTrip.Statement (Instr.ecccntWrite x0 x1) := by
  intro w he _
  cases he

theorem Laws.RoundTrip.sfaultWrite (x0 : Nat) (x1 : BitVec 64) : Laws.RoundTrip.Statement (Instr.sfaultWrite x0 x1) := by
  intro w he _
  cases he

theorem Laws.RoundTrip.cefaultWrite (x0 : Nat) (x1 : BitVec 64) : Laws.RoundTrip.Statement (Instr.cefaultWrite x0 x1) := by
  intro w he _
  cases he

theorem Laws.RoundTrip.nmstatWrite (x0 : Nat) (x1 : Nat) (x2 : BitVec 64) : Laws.RoundTrip.Statement (Instr.nmstatWrite x0 x1 x2) := by
  intro w he _
  cases he

theorem Laws.RoundTrip.ggateWrite (x0 : Nat) (x1 : Nat) (x2 : BitVec 64) : Laws.RoundTrip.Statement (Instr.ggateWrite x0 x1 x2) := by
  intro w he _
  cases he

theorem Laws.RoundTrip.phaltWrite (x0 : Nat) (x1 : BitVec 64) : Laws.RoundTrip.Statement (Instr.phaltWrite x0 x1) := by
  intro w he _
  cases he

theorem Laws.RoundTrip.preqWrite (x0 : Nat) (x1 : Nat) (x2 : BitVec 64) : Laws.RoundTrip.Statement (Instr.preqWrite x0 x1 x2) := by
  intro w he _
  cases he

theorem Laws.RoundTrip.registerWrite (x0 : Nat) (x1 : Bool) (x2 : BitVec 64) : Laws.RoundTrip.Statement (Instr.registerWrite x0 x1 x2) := by
  intro w he _
  cases he

theorem Laws.RoundTrip.postedWrite (x0 : Nat) (x1 : Nat) (x2 : BitVec 64) : Laws.RoundTrip.Statement (Instr.postedWrite x0 x1 x2) := by
  intro w he _
  cases he

theorem Laws.RoundTrip.hostRead (x0 : Nat) (x1 : Nat) : Laws.RoundTrip.Statement (Instr.hostRead x0 x1) := by
  intro w he _
  cases he

theorem Laws.RoundTrip.extTimeout (x0 : Nat) : Laws.RoundTrip.Statement (Instr.extTimeout x0) := by
  intro w he _
  cases he

theorem Laws.RoundTrip.linkTraining (x0 : Nat) (x1 : Bool) : Laws.RoundTrip.Statement (Instr.linkTraining x0 x1) := by
  intro w he _
  cases he

theorem Laws.RoundTrip.stackJoin (x0 : Nat) : Laws.RoundTrip.Statement (Instr.stackJoin x0) := by
  intro w he _
  cases he

theorem Laws.RoundTrip.mbQuery (x0 : Nat) : Laws.RoundTrip.Statement (Instr.mbQuery x0) := by
  intro w he _
  cases he

theorem Laws.RoundTrip.mbLoad (x0 : Nat) : Laws.RoundTrip.Statement (Instr.mbLoad x0) := by
  intro w he _
  cases he

theorem Laws.RoundTrip.mbLaunch (x0 : Nat) : Laws.RoundTrip.Statement (Instr.mbLaunch x0) := by
  intro w he _
  cases he

theorem Laws.RoundTrip.mbPartCreate (x0 : Nat) : Laws.RoundTrip.Statement (Instr.mbPartCreate x0) := by
  intro w he _
  cases he

theorem Laws.RoundTrip.mbPartResize (x0 : Nat) : Laws.RoundTrip.Statement (Instr.mbPartResize x0) := by
  intro w he _
  cases he

theorem Laws.RoundTrip.mbPartDestroy (x0 : Nat) : Laws.RoundTrip.Statement (Instr.mbPartDestroy x0) := by
  intro w he _
  cases he

theorem Laws.RoundTrip.mbAttest (x0 : Nat) : Laws.RoundTrip.Statement (Instr.mbAttest x0) := by
  intro w he _
  cases he

theorem Laws.RoundTrip.mbEventRead (x0 : Nat) : Laws.RoundTrip.Statement (Instr.mbEventRead x0) := by
  intro w he _
  cases he

theorem Laws.RoundTrip.mbEventRoute (x0 : Nat) : Laws.RoundTrip.Statement (Instr.mbEventRoute x0) := by
  intro w he _
  cases he

theorem Laws.RoundTrip.illegalOpcode (x0 : BitVec 32) : Laws.RoundTrip.Statement (Instr.illegalOpcode x0) := by
  intro w he hw
  cases he
  simp only [Instr.wf, Instr.fieldsWf, Bool.and_eq_true, decide_eq_true_eq] at hw
  exact hw.2

theorem Laws.RoundTrip.reservedField (x0 : BitVec 32) : Laws.RoundTrip.Statement (Instr.reservedField x0) := by
  intro w he hw
  cases he
  simp only [Instr.wf, Instr.fieldsWf, Bool.and_eq_true, decide_eq_true_eq] at hw
  exact hw.2

theorem Laws.RoundTrip.msiXUnmask (x0 : Nat) (x1 : Nat) : Laws.RoundTrip.Statement (Instr.msiXUnmask x0 x1) := by
  intro w he _
  cases he

theorem Laws.RoundTrip.stackOutOfService (x0 : Nat) (x1 : Nat) : Laws.RoundTrip.Statement (Instr.stackOutOfService x0 x1) := by
  intro w he _
  cases he

theorem Laws.RoundTrip.hret : Laws.RoundTrip.Statement .hret := by
  intro w he hw
  have hl := layout_8_24 _ _ (Option.some.inj he)
  simp [decodeWord, decodeB, hl, ifFields]

theorem Laws.RoundTrip.done : Laws.RoundTrip.Statement .done := by
  intro w he hw
  have hl := layout_8_24 _ _ (Option.some.inj he)
  simp [decodeWord, decodeC, hl, ifFields]

theorem Laws.RoundTrip.nop : Laws.RoundTrip.Statement .nop := by
  intro w he hw
  have hl := layout_8_24 _ _ (Option.some.inj he)
  simp [decodeWord, decodeD, hl, ifFields]

theorem Laws.RoundTrip.rfill : Laws.RoundTrip.Statement .rfill := by
  intro w he hw
  have hl := layout_8_24 _ _ (Option.some.inj he)
  simp [decodeWord, decodeD, hl, ifFields]

theorem Laws.RoundTrip.blockEnd : Laws.RoundTrip.Statement .blockEnd := by
  intro w he _
  cases he

theorem Laws.RoundTrip.dispatchSelect : Laws.RoundTrip.Statement .dispatchSelect := by
  intro w he _
  cases he

theorem Laws.RoundTrip.stealBackoffExpiry : Laws.RoundTrip.Statement .stealBackoffExpiry := by
  intro w he _
  cases he

theorem Laws.RoundTrip.readyPush : Laws.RoundTrip.Statement .readyPush := by
  intro w he _
  cases he

theorem Laws.RoundTrip.yieldOverrun : Laws.RoundTrip.Statement .yieldOverrun := by
  intro w he _
  cases he

theorem Laws.RoundTrip.preemption : Laws.RoundTrip.Statement .preemption := by
  intro w he _
  cases he

theorem Laws.RoundTrip.trapEntry : Laws.RoundTrip.Statement .trapEntry := by
  intro w he _
  cases he

theorem Laws.RoundTrip.portTimeout : Laws.RoundTrip.Statement .portTimeout := by
  intro w he _
  cases he

theorem Laws.RoundTrip.tagTimeout : Laws.RoundTrip.Statement .tagTimeout := by
  intro w he _
  cases he

theorem Laws.RoundTrip.waitTimeout : Laws.RoundTrip.Statement .waitTimeout := by
  intro w he _
  cases he

theorem Laws.RoundTrip.queueTimeout : Laws.RoundTrip.Statement .queueTimeout := by
  intro w he _
  cases he

theorem Laws.RoundTrip.msgTimeout : Laws.RoundTrip.Statement .msgTimeout := by
  intro w he _
  cases he

theorem Laws.RoundTrip.opcMm : Laws.RoundTrip.Statement .opcMm := by
  intro w he _
  cases he

theorem Laws.RoundTrip.opcZero : Laws.RoundTrip.Statement .opcZero := by
  intro w he _
  cases he

theorem Laws.RoundTrip.opcSt : Laws.RoundTrip.Statement .opcSt := by
  intro w he _
  cases he

theorem Laws.RoundTrip.opcRed : Laws.RoundTrip.Statement .opcRed := by
  intro w he _
  cases he

theorem Laws.RoundTrip.opcWs : Laws.RoundTrip.Statement .opcWs := by
  intro w he _
  cases he

theorem Laws.RoundTrip.opcWsl : Laws.RoundTrip.Statement .opcWsl := by
  intro w he _
  cases he

theorem Laws.RoundTrip.opcLd : Laws.RoundTrip.Statement .opcLd := by
  intro w he _
  cases he

theorem Laws.RoundTrip.opcAcc : Laws.RoundTrip.Statement .opcAcc := by
  intro w he _
  cases he

theorem Laws.RoundTrip.matrixCommandRetire : Laws.RoundTrip.Statement .matrixCommandRetire := by
  intro w he _
  cases he

theorem Laws.RoundTrip.copyRecord : Laws.RoundTrip.Statement .copyRecord := by
  intro w he _
  cases he

theorem Laws.RoundTrip.multicastCopy : Laws.RoundTrip.Statement .multicastCopy := by
  intro w he _
  cases he

theorem Laws.RoundTrip.fillRecord : Laws.RoundTrip.Statement .fillRecord := by
  intro w he _
  cases he

theorem Laws.RoundTrip.recordLanding : Laws.RoundTrip.Statement .recordLanding := by
  intro w he _
  cases he

theorem Laws.RoundTrip.chainRetire : Laws.RoundTrip.Statement .chainRetire := by
  intro w he _
  cases he

theorem Laws.RoundTrip.inlineExecution : Laws.RoundTrip.Statement .inlineExecution := by
  intro w he _
  cases he

theorem Laws.RoundTrip.stagePutApply : Laws.RoundTrip.Statement .stagePutApply := by
  intro w he _
  cases he

theorem Laws.RoundTrip.powerGood : Laws.RoundTrip.Statement .powerGood := by
  intro w he _
  cases he

theorem Laws.RoundTrip.meshSelfTest : Laws.RoundTrip.Statement .meshSelfTest := by
  intro w he _
  cases he

theorem Laws.RoundTrip.powerLimit : Laws.RoundTrip.Statement .powerLimit := by
  intro w he _
  cases he

theorem Laws.RoundTrip.managementRequest : Laws.RoundTrip.Statement .managementRequest := by
  intro w he _
  cases he

theorem Laws.RoundTrip.kioskEvent : Laws.RoundTrip.Statement .kioskEvent := by
  intro w he _
  cases he

theorem Laws.RoundTrip.qdieExpiry : Laws.RoundTrip.Statement .qdieExpiry := by
  intro w he _
  cases he

end Sys2Proof
end

