-- ==== Sys2Proof/Machine/AsmText.lean ====
section
/-! DEFINITION. The source text of the assembler `urzas` (spec/04_assembly_objects.md R66–R68, R70): lines, statements, names,
constants and expressions. The assembler is a function from source text to the bytes of a DOF file, apart from the machine. -/

namespace Sys2Proof.Machine

/-- Why `urzas` rejects a source (R80). -/
inductive Reject where
  /-- a statement whose parts, or the number or kind of whose operands, are wrong (R66, R68) -/
  | statement
  /-- a symbol that is no name, or is spelled as a register, opcode, modifier or directive (R67) -/
  | spelling
  /-- a second definition of a name (R67, R80) -/
  | twice
  /-- a name that nothing defines (R80) -/
  | unresolved
  /-- a modifier that the instruction lacks, a sub-field named twice, or SZ omitted (R69) -/
  | modifier
  /-- an expression that is malformed, divides by zero, or whose symbol has no address before load (R70) -/
  | expression
  /-- a value outside the range of its field (R49, R70, R75) -/
  | range
  /-- a target that is no block, or a block of the wrong kind (R71) -/
  | target
  /-- a statement where its section may not hold it (R72) -/
  | place
  /-- a block that fails a static check, or a codelet without `done` (R73, R74) -/
  | block
  /-- a literal that its format cannot hold (R75, R76) -/
  | literal
  /-- a directive whose arguments break its rule (R72–R79, R424) -/
  | directive
  /-- nesting deeper than 16, or a conditional or definition that does not close (R79) -/
  | nesting
  /-- a source file without `.end` (R79) -/
  | noEnd
  deriving DecidableEq, Repr

abbrev Asm (α : Type) := Except Reject α

/-- The value of an option, or a rejection. -/
def orReject {α : Type} (r : Reject) : Option α → Asm α
  | some x => .ok x
  | none => .error r

def rejectIf (r : Reject) (b : Bool) : Asm Unit := if b then .error r else .ok ()

/-! ## Characters and pieces of text -/

abbrev Text := List Char

def isBlank (c : Char) : Bool := c == ' ' || c == '\t' || c == '\r'

def isName1 (c : Char) : Bool := c.isAlpha || c == '_' || c == '.'
def isNameC (c : Char) : Bool := isName1 c || c.isDigit

def Text.trimLeft (t : Text) : Text := t.dropWhile isBlank
def Text.trim (t : Text) : Text := (Text.trimLeft (Text.trimLeft t).reverse).reverse
def Text.str (t : Text) : String := String.ofList t

/-- The lines of a text. -/
def textLines : Text → List Text
  | [] => [[]]
  | c :: t =>
    if c == '\n' then [] :: textLines t
    else match textLines t with
      | [] => [[c]]
      | l :: ls => (c :: l) :: ls

/-- A line without its comment, which runs from `;` to the end of the line (R66). -/
def uncomment (t : Text) : Text := t.takeWhile (· != ';')

/-- The pieces of a text between the commas that stand outside parentheses and brackets (R66). -/
def splitArgs : Nat → Text → List Text
  | _, [] => [[]]
  | d, c :: t =>
    if c == ',' && d == 0 then [] :: splitArgs d t
    else
      let d' := if c == '(' || c == '[' then d + 1 else if c == ')' || c == ']' then d - 1 else d
      match splitArgs d' t with
      | [] => [[c]]
      | a :: as => (c :: a) :: as

/-- Operands separated by commas; none in an empty text. -/
def argsOf (t : Text) : List Text := if (Text.trim t).isEmpty then [] else (splitArgs 0 t).map Text.trim

/-- The text before and after the first `->`. -/
def splitDest : Text → Text × Option Text
  | '-' :: '>' :: t => ([], some t)
  | c :: t => let r := splitDest t; (c :: r.1, r.2)
  | [] => ([], none)

/-- The pieces of a text between colons. -/
def splitColons : Text → List Text
  | [] => [[]]
  | c :: t =>
    if c == ':' then [] :: splitColons t
    else match splitColons t with
      | [] => [[c]]
      | a :: as => (c :: a) :: as

/-! ## Statements (R66) -/

/-- A statement's parts in the order of R66. A statement that is only a label has no `op`. -/
structure Stmt where
  label : Option String
  op    : String
  mods  : List String
  args  : List Text
  dest  : Option Text
  deriving DecidableEq, Repr

/-- What follows the label: a name with its modifiers, the operands and the destination. -/
def parseBody (label : Option String) (t : Text) : Asm (Option Stmt) :=
  if t.isEmpty then .ok (label.map fun l => ⟨some l, "", [], [], none⟩)
  else
    let head := t.takeWhile fun c => !isBlank c
    match (splitColons head).map Text.str with
    | [] => .error .statement
    | op :: mods =>
      let r := splitDest (t.drop head.length)
      let args := argsOf r.1
      if op == "" || mods.contains "" || args.contains [] then .error .statement
      else .ok (some ⟨label, op, mods, args, r.2.map Text.trim⟩)

/-- One line of a source file: a statement, or none on a line that is blank or only a comment (R66). The first name of a line is
a label where a colon follows it and no instruction has that name. -/
def parseLine (isOp : String → Bool) (line : Text) : Asm (Option Stmt) :=
  let t := Text.trim (uncomment line)
  let n := t.takeWhile isNameC
  match t.drop n.length with
  | ':' :: rest => if n.isEmpty || isOp (Text.str n) then parseBody none t else parseBody (some (Text.str n)) (Text.trim rest)
  | _ => parseBody none t

/-- A symbol's spelling (R67): its first character, its other characters and its length. -/
def isSymbol (s : String) : Bool :=
  match s.toList with
  | [] => false
  | c :: t => isName1 c && t.all isNameC && decide (t.length < 255)

/-! ## Constants and expressions (R70) -/

def digitOf (base : Nat) (c : Char) : Option Nat :=
  let v :=
    if c.isDigit then c.toNat - 48
    else if 'a' ≤ c ∧ c ≤ 'f' then c.toNat - 87
    else if 'A' ≤ c ∧ c ≤ 'F' then c.toNat - 55
    else 99
  if v < base then some v else none

/-- Digits of a base; `_` only between digits, and only where `us` allows it. -/
def digits (base : Nat) (us : Bool) : Text → Nat → Option Nat
  | [], n => some n
  | '_' :: c :: t, n => if us then (digitOf base c).bind fun d => digits base us t (n * base + d) else none
  | c :: t, n => (digitOf base c).bind fun d => digits base us t (n * base + d)

/-- A text that begins with a digit and is all digits. -/
def digits1 (base : Nat) (us : Bool) (t : Text) : Option Nat :=
  match t with
  | [] => none
  | c :: r => (digitOf base c).bind fun d => digits base us r d

/-- An integer constant: decimal, `0x` hexadecimal or `0b` binary (R70). -/
def constant (t : Text) : Option Nat :=
  match t with
  | '0' :: 'x' :: r => digits1 16 true r
  | '0' :: 'b' :: r => digits1 2 true r
  | _ => digits1 10 false t

/-- A token of an expression. `<<` and `>>` are held as `<` and `>`. -/
inductive Tok where
  | num (n : Nat)
  | sym (s : String)
  | op (c : Char)
  deriving DecidableEq, Repr

/-- The tokens of a text; the first argument bounds their number. -/
def tokens : Nat → Text → Asm (List Tok)
  | 0, _ => .error .expression
  | n + 1, t =>
    match Text.trimLeft t with
    | [] => .ok []
    | '<' :: '<' :: r => do return .op '<' :: (← tokens n r)
    | '>' :: '>' :: r => do return .op '>' :: (← tokens n r)
    | c :: r =>
      if c.isDigit then
        let w := (c :: r).takeWhile isNameC
        match constant w with
        | some v => do return .num v :: (← tokens n ((c :: r).drop w.length))
        | none => .error .expression
      else if isName1 c then
        let w := (c :: r).takeWhile isNameC
        do return .sym (Text.str w) :: (← tokens n ((c :: r).drop w.length))
      else if "-~*/%+&^|()".toList.contains c then do return .op c :: (← tokens n r)
      else .error .expression

/-- An expression: a constant, a name, or an operator applied. -/
inductive Expr where
  | num (v : Int)
  | sym (s : String)
  | un (c : Char) (x : Expr)
  | bin (c : Char) (x y : Expr)
  deriving DecidableEq, Repr

/-- Binary operators, from the lowest precedence (R70). -/
def precedence : Char → Option Nat
  | '|' => some 0
  | '^' => some 1
  | '&' => some 2
  | '<' => some 3
  | '>' => some 3
  | '+' => some 4
  | '-' => some 4
  | '*' => some 5
  | '/' => some 5
  | '%' => some 5
  | _ => none

/-- What is being read: an expression of at least a precedence, or the rest of one after its left part. -/
inductive Reading where
  | start (p : Nat)
  | rest (p : Nat) (left : Expr)
  | unary
  deriving DecidableEq, Repr

/-- Reads an expression and gives the tokens left. Operators of one precedence group from the left. -/
def readExpr : Nat → Reading → List Tok → Asm (Expr × List Tok)
  | 0, _, _ => .error .expression
  | n + 1, .unary, ts =>
    match ts with
    | .num v :: r => .ok (.num v, r)
    | .sym s :: r => .ok (.sym s, r)
    | .op '-' :: r => do let (x, r) ← readExpr n .unary r; return (.un '-' x, r)
    | .op '~' :: r => do let (x, r) ← readExpr n .unary r; return (.un '~' x, r)
    | .op '(' :: r => do
      let (x, r) ← readExpr n (.start 0) r
      match r with
      | .op ')' :: r => return (x, r)
      | _ => .error .expression
    | _ => .error .expression
  | n + 1, .start p, ts => do
    let (x, r) ← readExpr n .unary ts
    readExpr n (.rest p x) r
  | n + 1, .rest p x, ts =>
    match ts with
    | .op c :: r =>
      match precedence c with
      | some q =>
        if p ≤ q then do
          let (y, r) ← readExpr n (.start (q + 1)) r
          readExpr n (.rest p (.bin c x y)) r
        else .ok (x, ts)
      | none => .ok (x, ts)
    | _ => .ok (x, ts)

/-- The expression that a text holds. -/
def parseExpr (t : Text) : Asm Expr := do
  let ts ← tokens (t.length + 1) t
  match ← readExpr (4 * ts.length + 4) (.start 0) ts with
  | (x, []) => return x
  | _ => .error .expression

/-- A value before load: an exact integer, or a symbol's address plus a constant. `σ` names symbols. -/
inductive Val (σ : Type) where
  | int (v : Int)
  | addr (s : σ) (add : Int)
  deriving DecidableEq, Repr

/-- A bitwise operation on exact integers, which are two's complement of unbounded width. -/
def intBits (f : Nat → Nat → Nat) (a b : Int) : Int :=
  let n := ilog2 (a.natAbs + b.natAbs + 1) + 2
  sextInt (f (a % (2 ^ n : Nat)).toNat (b % (2 ^ n : Nat)).toNat) n

/-- A binary operator on exact integers: `/` truncates towards zero, `%` leaves its remainder, `>>` is arithmetic (R70). -/
def intOp (c : Char) (a b : Int) : Asm Int :=
  match c with
  | '+' => .ok (a + b)
  | '-' => .ok (a - b)
  | '*' => .ok (a * b)
  | '/' => if b = 0 then .error .expression else .ok (a.tdiv b)
  | '%' => if b = 0 then .error .expression else .ok (a.tmod b)
  | '<' => if b < 0 then .error .expression else .ok (a * (2 ^ b.toNat : Nat))
  | '>' => if b < 0 then .error .expression else .ok (a / (2 ^ b.toNat : Nat))
  | '&' => .ok (intBits Nat.land a b)
  | '^' => .ok (intBits Nat.xor a b)
  | '|' => .ok (intBits Nat.lor a b)
  | _ => .error .expression

/-- The value of an expression. A symbol without an address before load stands only as symbol + constant or
symbol − constant (R70). -/
def Expr.eval {σ : Type} (env : String → Asm (Val σ)) : Expr → Asm (Val σ)
  | .num v => .ok (.int v)
  | .sym s => env s
  | .un c x => do
    match ← x.eval env with
    | .int v => return .int (if c == '-' then -v else -v - 1)
    | .addr _ _ => .error .expression
  | .bin c x y => do
    match ← x.eval env, ← y.eval env with
    | .int a, .int b => return .int (← intOp c a b)
    | .addr s k, .int b =>
      if c == '+' then return .addr s (k + b)
      else if c == '-' then return .addr s (k - b)
      else .error .expression
    | _, _ => .error .expression

end Sys2Proof.Machine
end

