-- ==== Sys2Proof/Machine/AsmForms.lean ====
section
/-! DEFINITION. The written forms of the 160 opcodes (spec/03_encoding.md R48–R60 and the chapter of each instruction): which fields
the operands fill and which sub-fields the modifiers name; one statement's instruction word (spec/04_assembly_objects.md R68–R71). -/

namespace Sys2Proof.Machine

/-- How an instruction uses a source field: not at all, as one word, as a pair (R53), or as a run of `n` registers. -/
inductive Role where
  | none
  | word
  | pair
  | run (n : Nat)
  deriving DecidableEq, Repr

/-- How an instruction uses D: as a source field is used, or as the result and the base operand (R141, R156, R171). -/
inductive DRole where
  | none
  | word
  | pair
  | run (n : Nat)
  | base
  deriving DecidableEq, Repr

/-- What the operands of a form fill: A, B, the operand held in F[6:1], and D. -/
structure Shape where
  a : Role
  b : Role
  c : Role
  d : DRole
  deriving DecidableEq, Repr

/-- A format's written form (R48). `loopi` has a count in place of A and B. -/
inductive Layouts where
  | reg | imm | long | load | store | branch | looped | counted | jump | waits | limited
  deriving DecidableEq, Repr

/-- A sub-field: its lowest bit, and the value that each modifier gives the bits from there up. -/
structure Sub where
  lo    : Nat
  names : List (String × Nat)
  deriving DecidableEq, Repr

/-- An opcode's written form. `alts` gives the shape where a modifier changes it. -/
structure Form where
  name   : String
  op     : Nat
  layout : Layouts
  shape  : Shape
  subs   : List Sub
  alts   : List (String × Shape)
  deriving DecidableEq, Repr

/-! ## Sub-fields (R54–R60) -/

/-- Names with values from 0 up. -/
def named (lo : Nat) (ns : List String) : Sub := ⟨lo, ns.zipIdx⟩

/-- A name that sets one bit. -/
def flagged (lo : Nat) (n : String) : Sub := ⟨lo, [(n, 1)]⟩

def fmtNames : List (String × Nat) :=
  [("f64", 1), ("f32x2", 2), ("bf16x4", 3), ("f16x4", 4), ("e4m3x8", 5), ("e5m2x8", 6), ("e2m1x16", 7)]

def subW : Sub := flagged 0 "w"
def subFmt : Sub := ⟨4, fmtNames⟩
def subRnd : Sub := named 2 ["rne", "rz", "rdn", "rup"]
def subSat : Sub := flagged 1 "sat"
def subSel : Sub := named 0 ["whole", "b0", "b1"]
def subSf : Sub := named 0 ["e8m0", "e5m2", "e4m3", "none"]
def subCnd : Sub := named 9 ["eq", "ne", "lt", "ge", "ltu", "geu", "anyb", "nob"]
def subSz : Sub := named 10 ["b", "h", "w", "d"]
def subRun : Sub := named 10 ["n1", "n2", "n3", "n4"]
def subTgLoad : Sub := named 8 ["plain", "wfull", "consume", "acq"]
def subTgStore : Sub := named 8 ["plain", "produce", "untagged"]
def subOp : Sub :=
  named 3 ["add", "and", "or", "xor", "min", "max", "minu", "maxu", "swap", "fadd", "fmin", "fmax", "dadd", "dmin", "dmax"]

/-- The cycles that a LIM value bounds a wait to (R58). -/
def limBound (l : Nat) : Nat := (16 + l % 16) * 2 ^ (4 * (l / 16))

/-- LIM, by its exact cycle count, or `forever` (R58). -/
def subLim : Sub := ⟨0, ("forever", 127) :: (List.range 127).map fun l => ("lim" ++ toString (limBound l), l)⟩

/-- The width `nK` of `ext`, `bfx` and `ins` (R140, R141). -/
def subWidth : Sub := ⟨1, (List.range 64).map fun k => ("n" ++ toString (k + 1), k)⟩

/-- `sc=hn`: scales are used, and which register holds them (R54). -/
def subScale : Sub := ⟨2, (List.range 16).map fun n => ("sc=h" ++ toString n, 2 * n + 1)⟩

/-- The source format of `cvt` (R164). -/
def subFrom : Sub := ⟨12, fmtNames.map fun p => ("from=" ++ p.1, p.2)⟩

/-- PART of `cvt`: its bits 2:0 at [17:15] and its bit 3 at [0] (R164). -/
def subPart : Sub := ⟨0, (List.range 16).map fun n => ("part=" ++ toString n, n % 8 * 2 ^ 15 + n / 8)⟩

/-- SRCSEL of `ppack` and `punpk`: the source format that each value selects (R167, R168). -/
def subSrcPack : Sub := ⟨0, [("from=f64", 0), ("from=f32x2", 0), ("from=bf16x4", 0), ("from=f16x4", 1)]⟩
def subSrcUnpk : Sub :=
  ⟨1, [("from=f32x2", 0), ("from=bf16x4", 0), ("from=f16x4", 1), ("from=e4m3x8", 0), ("from=e5m2x8", 1)]⟩

/-! ## Shapes -/

def shD : Shape := ⟨.none, .none, .none, .word⟩
def shA : Shape := ⟨.word, .none, .none, .none⟩
def shAD : Shape := ⟨.word, .none, .none, .word⟩
def shBD : Shape := ⟨.none, .word, .none, .word⟩
def shAB : Shape := ⟨.word, .word, .none, .none⟩
def shABD : Shape := ⟨.word, .word, .none, .word⟩
def shABCD : Shape := ⟨.word, .word, .word, .word⟩
def shNone : Shape := ⟨.none, .none, .none, .none⟩

/-- Consecutive opcodes of one form. -/
def forms (op : Nat) (l : Layouts) (sh : Shape) (subs : List Sub) (ns : List String) : List Form :=
  ns.zipIdx.map fun p => ⟨p.1, op + p.2, l, sh, subs, []⟩

/-- Opcodes 0x00–0x37 (R134–R150). -/
def formsInteger : List Form :=
  forms 0x00 .reg shABD [subW] ["add", "sub", "and", "or", "xor", "andn", "sll", "srl", "sra", "rol", "min", "max", "minu", "maxu",
    "slt", "sltu", "mul", "mulh", "mulhu", "div", "divu", "rem", "remu"] ++
  forms 0x17 .reg shAD [subW, named 1 ["clz", "ctz", "popc", "brev", "bswap"]] ["bitc"] ++
  forms 0x18 .imm shAD [] ["addi", "andi", "ori", "xori", "slli", "srli", "srai", "slti"] ++
  forms 0x20 .long shD [] ["ldk"] ++
  forms 0x21 .imm shAD [] ["ldkx"] ++
  forms 0x22 .reg shAD [subWidth, flagged 0 "zext"] ["ext"] ++
  forms 0x23 .reg ⟨.word, .word, .none, .base⟩ [subWidth] ["ins"] ++
  forms 0x24 .reg shABD [subWidth, flagged 0 "zext"] ["bfx"] ++
  forms 0x25 .reg shABCD [] ["sel"] ++
  [⟨"keep", 0x26, .reg, shAD, [flagged 0 "p"], [("p", ⟨.pair, .none, .none, .pair⟩)]⟩] ++
  forms 0x27 .reg shABD [subW] ["seq", "sne"] ++
  forms 0x29 .reg ⟨.word, .word, .word, .pair⟩ [subW] ["addc", "subc"] ++
  forms 0x2B .reg shABCD [flagged 0 "u"] ["clamp"] ++
  forms 0x30 .branch shAB [subCnd] ["br"] ++
  forms 0x31 .jump shNone [] ["jmp", "call"] ++
  forms 0x33 .reg shA [] ["jr", "callr"] ++
  forms 0x35 .looped shA [] ["loop"] ++
  forms 0x36 .counted shNone [] ["loopi"] ++
  forms 0x37 .jump shNone [] ["brk"]

/-- Opcodes 0x40–0x5D (R153–R174). -/
def formsPacked : List Form :=
  let fp := [subFmt, subRnd, subSat]
  forms 0x40 .reg shABD fp ["fadd", "fsub", "fmul"] ++
  forms 0x43 .reg ⟨.word, .word, .none, .base⟩ fp ["fma"] ++
  forms 0x44 .reg shABD fp ["fdiv"] ++
  forms 0x45 .reg shAD fp ["fsqrt"] ++
  forms 0x46 .reg shABD [subFmt] ["fmin", "fmax"] ++
  [⟨"fsgn", 0x48, .reg, shABD, [subFmt, named 2 ["cpy", "neg", "xor", "abs"]], [("abs", shAD)]⟩] ++
  forms 0x49 .reg shABD fp ["fhsum"] ++
  forms 0x4A .reg ⟨.word, .word, .none, .pair⟩ [subSel, subScale] ["pdot"] ++
  forms 0x4B .reg shABD fp ["fscl"] ++
  forms 0x4C .reg shAD fp ["frcp", "frsq", "fexp2"] ++
  forms 0x4F .reg shAD [subFmt, subRnd] ["fround"] ++
  forms 0x50 .reg shABD [subFmt, named 1 ["feq", "fne", "flt", "fle", "fun", "ford"]] ["fcmp"] ++
  forms 0x51 .reg shAD [subFmt] ["fclass"] ++
  forms 0x52 .reg shAD (fp ++ [subFrom, subPart]) ["cvt"] ++
  forms 0x53 .reg shAD [subFmt, subRnd, flagged 12 "u"] ["cvti", "cvtf"] ++
  forms 0x55 .reg shAD [named 12 ["e2m3", "e3m2", "int4"], named 14 ["part=0", "part=1"]] ["cvtx"] ++
  forms 0x56 .reg shABCD [] ["pperm"] ++
  forms 0x57 .reg shABD (fp ++ [subSrcPack]) ["ppack"] ++
  forms 0x58 .reg shAD [subFmt, flagged 0 "hi", subSrcUnpk] ["punpk"] ++
  forms 0x59 .reg ⟨.pair, .pair, .none, .pair⟩ [] ["wsadd"] ++
  forms 0x5A .reg ⟨.pair, .word, .none, .pair⟩ [subSf] ["wsscl"] ++
  forms 0x5B .reg ⟨.pair, .word, .none, .word⟩ (fp ++ [flagged 0 "tbf16"]) ["wsrnd"] ++
  forms 0x5C .reg shABD [named 0 ["add", "sub", "mul", "min", "max", "absd"], flagged 3 "sat", flagged 4 "u", named 5 ["i8", "i16"]]
    ["pint"] ++
  forms 0x5D .reg ⟨.word, .word, .none, .base⟩ [named 0 ["i8", "i16"], flagged 1 "ua", flagged 2 "ub"] ["pdoti"]

/-- Opcodes 0x60–0x86 (R186–R209). -/
def formsMemory : List Form :=
  let ld : Layouts := .load
  let st : Layouts := .store
  let stB : Role → Shape := fun b => ⟨.word, b, .none, .none⟩
  let ldD : DRole → Shape := fun d => ⟨.word, .none, .none, d⟩
  let amo := [subOp, named 2 ["d", "w"], flagged 1 "sig", flagged 0 "acq"]
  forms 0x60 ld shAD [subSz, subTgLoad] ["ld"] ++
  forms 0x61 st shAB [subSz, subTgStore] ["st"] ++
  forms 0x62 ld (ldD .pair) [subSz, subTgLoad] ["ldp"] ++
  forms 0x63 st (stB .pair) [subSz, subTgStore] ["stp"] ++
  forms 0x64 ld shAD [subSz, subTgLoad] ["tagr"] ++
  forms 0x65 st shAB [subSz, subTgStore] ["tagw"] ++
  forms 0x66 st shA [subSz, subTgStore] ["touch"] ++
  [⟨"ldm", 0x67, ld, ldD (.run 1), [subRun, subTgLoad], [("n2", ldD (.run 2)), ("n3", ldD (.run 3)), ("n4", ldD (.run 4))]⟩] ++
  [⟨"stm", 0x68, st, stB (.run 1), [subRun, subTgStore], [("n2", stB (.run 2)), ("n3", stB (.run 3)), ("n4", stB (.run 4))]⟩] ++
  forms 0x70 .reg shAB amo ["amo"] ++
  forms 0x71 .reg shABD amo ["amor"] ++
  forms 0x72 .reg ⟨.pair, .word, .none, .none⟩ amo ["amod"] ++
  forms 0x73 .reg ⟨.word, .pair, .none, .word⟩ [named 4 ["d", "w"], flagged 0 "acq", flagged 1 "acqf", flagged 2 "sig"] ["cas"] ++
  forms 0x74 .reg ⟨.word, .word, .word, .none⟩ [] ["putsig"] ++
  forms 0x75 .reg ⟨.word, .pair, .word, .none⟩ [] ["putsig2"] ++
  forms 0x76 .reg shAB [] ["arm"] ++
  forms 0x77 .limited shABD [subLim] ["waitg", "waitm"] ++
  forms 0x79 .waits shNone [] ["waitc"] ++
  forms 0x7A .limited shABD [subLim] ["waitt"] ++
  forms 0x7B .limited shA [subLim] ["bar", "barg"] ++
  forms 0x7D .reg shAB [] ["sig"] ++
  forms 0x80 .limited shAD [subLim] ["qres"] ++
  forms 0x81 .reg shA [] ["qpub"] ++
  forms 0x82 .limited shAD [subLim] ["qpop"] ++
  forms 0x83 .reg shA [] ["qrel"] ++
  forms 0x84 .limited shABD [subLim] ["qpush"] ++
  forms 0x85 .reg shAD [] ["qinfo"] ++
  forms 0x86 .reg shA [] ["qclose"]

/-- Opcodes 0x90–0xC9 (R244, R268, R296–R302, R331–R339, R355, R363). -/
def formsEngine : List Form :=
  let acc := [named 0 ["acc0", "acc1", "acc2", "acc3"]]
  forms 0x90 .reg shABD (acc ++ [flagged 2 "init"]) ["tmm"] ++
  forms 0x91 .reg shBD acc ["tzero"] ++
  forms 0x92 .reg shABD acc ["tst", "tred", "tws", "twsl"] ++
  forms 0x96 .reg shAB [] ["tcfg"] ++
  forms 0x97 .reg shAD [] ["tcmd"] ++
  forms 0x98 .reg shABD acc ["tld", "tacc"] ++
  forms 0xA0 .reg shABD [] ["ecmd"] ++
  forms 0xA1 .reg shAD [] ["chain"] ++
  forms 0xA2 .reg shABD [] ["cstat"] ++
  forms 0xA3 .reg shD [] ["ccan"] ++
  forms 0xB0 .reg ⟨.word, .run 1, .none, .none⟩ [] ["send"] ++
  forms 0xB1 .reg shAB [] ["sendb", "sendi"] ++
  forms 0xB3 .reg shAD [] ["cmask", "cunm"] ++
  forms 0xB5 .reg shNone [] ["hret"] ++
  forms 0xB6 .reg shAD [] ["rdin"] ++
  forms 0xB7 .reg ⟨.word, .pair, .none, .none⟩ [] ["redn"] ++
  forms 0xB8 .limited ⟨.word, .run 1, .none, .word⟩ [subLim] ["sendw"] ++
  forms 0xC0 .reg ⟨.word, .run 3, .none, .none⟩ [] ["spawn"] ++
  forms 0xC1 .reg ⟨.none, .none, .none, .run 5⟩ [] ["take"] ++
  forms 0xC2 .reg shNone [] ["done"] ++
  forms 0xC3 .imm shNone [] ["yield"] ++
  forms 0xC4 .reg shAD [] ["launch", "tready"] ++
  [⟨"stage", 0xC6, .reg, ⟨.word, .run 1, .none, .word⟩, [named 0 ["put", "twin", "merge", "info", "close"]],
    [("twin", shABD), ("merge", shABD), ("info", shAD), ("close", shA)]⟩] ++
  forms 0xC7 .reg shD [named 0 ["x", "y", "z", "lin", "team", "rank", "ext"]] ["gid"] ++
  forms 0xC8 .limited ⟨.word, .none, .none, .run 5⟩ [subLim] ["qdie"] ++
  forms 0xC9 .reg shD [] ["tcbq"]

/-- Opcodes 0xD0–0xDE (R217, R218, R223, R224). -/
def formsSystem : List Form :=
  forms 0xD0 .imm shD [] ["getc"] ++
  forms 0xD1 .imm shA [] ["setc"] ++
  forms 0xD2 .imm shAD [] ["swpc"] ++
  forms 0xD3 .imm shAD [flagged 12 "clr"] ["setcb"] ++
  forms 0xD4 .imm shA [] ["sys"] ++
  forms 0xD5 .reg shNone [flagged 0 "up"] ["tret"] ++
  forms 0xD6 .reg shA [] ["halt"] ++
  forms 0xD7 .reg shNone [] ["nop"] ++
  forms 0xD8 .reg ⟨.pair, .word, .none, .none⟩ [] ["xinv"] ++
  forms 0xD9 .reg shAD [] ["xprobe"] ++
  [⟨"stamp", 0xDA, .reg, shA, [flagged 0 "now"], [("now", shD)]⟩] ++
  forms 0xDB .reg shD [flagged 0 "ret"] ["cyc"] ++
  forms 0xDC .imm shNone [] ["ebreak"] ++
  forms 0xDD .reg shNone [] ["rfill"] ++
  forms 0xDE .imm shNone [] ["gate"]

def allForms : List Form := formsInteger ++ formsPacked ++ formsMemory ++ formsEngine ++ formsSystem

/-- The written form of an opcode name. -/
def formOf (name : String) : Option Form := allForms.find? fun f => f.name == name

def isOpcode (name : String) : Bool := allForms.any fun f => f.name == name

/-! ## Registers and other reserved spellings (R67) -/

/-- The source operands by their written names (R50, R68). -/
def sourceNames : List (String × Nat) :=
  (List.range 16).map (fun n => ("q" ++ toString n, n)) ++ (List.range 16).map (fun n => ("h" ++ toString n, 16 + n)) ++
  [("z", 32), ("xn", 33), ("xe", 34), ("xs", 35), ("xw", 36)]

/-- The destinations by their written names (R51, R68). -/
def destNames : List (String × Nat) :=
  (List.range 16).map (fun n => ("h" ++ toString n, n)) ++ [("q0", 16), ("xn", 17), ("xe", 18), ("xs", 19), ("xw", 20)]

/-- The modifiers that R54–R60 name, which no symbol is spelled as (R67, R69). Log 66. -/
def modifierNames : List String :=
  ([subW, subFmt, subRnd, subSat, subSel, subSf, subCnd, subSz, subRun, subTgLoad, subTgStore, subOp, subLim].map fun s =>
    s.names.map Prod.fst).flatten ++ ["sig", "acq", "acqf"]

def directiveNames : List String :=
  [".section", ".block", ".entry", ".codelet", ".handler", ".byte", ".half", ".word", ".dword", ".fp32", ".f16", ".bf16", ".e4m3",
    ".e5m2", ".e2m1", ".scales", ".region", ".tile", ".arrival", ".tcb", ".queue", ".stage", ".grid", ".depvec", ".mcgroup",
    ".launch", ".align", ".equ", ".global", ".extern", ".include", ".if", ".else", ".endif", ".macro", ".endm", ".yieldmax", ".end"]

def isReserved (s : String) : Bool :=
  (sourceNames.any fun p => p.1 == s) || isOpcode s || modifierNames.contains s || directiveNames.contains s

/-! ## One statement's word -/

/-- A relocation by its type's number and the value it adds the symbol to (R86). -/
structure Fix (σ : Type) where
  type : Nat
  sym  : σ
  add  : Int
  deriving DecidableEq, Repr

/-- An encoded statement: its word, its relocation if it has one, its form's shape and the fields that its operands fill. -/
structure Enc (σ : Type) where
  word  : Nat
  fix   : Option (Fix σ)
  shape : Shape
  a     : Nat
  b     : Nat
  c     : Nat
  d     : Nat
  deriving DecidableEq, Repr

/-- What a form's fields are filled from: the values of expressions, and the targets of transfers. A target is the offset of a
block from the header of the block that holds the instruction, in 8-byte units, or the symbol that a relocation names. `loops`
says that the instruction is `loop` or `loopi`. -/
structure Scope (σ : Type) where
  value  : Text → Asm (Val σ)
  target : String → (loops : Bool) → Asm (Int ⊕ σ)

/-- The sub-field that a modifier names, with its value. -/
def subOf (subs : List Sub) (m : String) : Option (Nat × Nat × Nat) :=
  match findIdx (fun s : Sub => s.names.any fun p => p.1 == m) subs 0 with
  | some (i, s) => (s.names.find? fun p => p.1 == m).map fun p => (i, s.lo, p.2)
  | none => none

/-- The bits that the modifiers set, and the sub-fields they name (R69). -/
def modifierBits (subs : List Sub) : List String → List Nat → Asm (Nat × List Nat)
  | [], seen => .ok (0, seen)
  | m :: ms, seen => do
    let (i, lo, v) ← orReject .modifier (subOf subs m)
    rejectIf .modifier (seen.contains i)
    let (w, seen) ← modifierBits subs ms (i :: seen)
    return (v * 2 ^ lo + w, seen)

/-- The shape of a form under its modifiers. -/
def Form.shapeOf (f : Form) (mods : List String) : Shape :=
  match f.alts.find? fun p => mods.contains p.1 with
  | some p => p.2
  | none => f.shape

def sourceField (t : Text) : Asm Nat := orReject .statement (sourceNames.lookup (Text.str t))

/-- The D field: a push where no destination is written, 0 where the form has none (R48, R63). -/
def destField (d : DRole) (dest : Option Text) : Asm Nat :=
  match d, dest with
  | .none, none => .ok 0
  | .none, some _ => .error .statement
  | _, none => .ok 16
  | _, some t => orReject .statement (destNames.lookup (Text.str t))

/-- A value in the range of a field. -/
def inRange (lo hi v : Int) : Asm Int := if lo ≤ v ∧ v ≤ hi then .ok v else .error .range

/-- The low `n` bits of an integer. -/
def fieldBits (n : Nat) (v : Int) : Nat := (v % (2 ^ n : Nat)).toNat

/-- `#expr` (R68): the field's low bits, or the relocation that fills it. -/
def Scope.immediate {σ : Type} (sc : Scope σ) (bits type : Nat) (lo hi : Int) (t : Text) : Asm (Nat × Option (Fix σ)) :=
  match t with
  | '#' :: e => do
    match ← sc.value e with
    | .int v => return (fieldBits bits (← inRange lo hi v), none)
    | .addr s k => if type = 0 then .error .expression else return (0, some ⟨type, s, k⟩)
  | _ => .error .statement

/-- A transfer's offset field of `bits` bits, or the relocation that fills it (R71). -/
def Scope.transfer {σ : Type} (sc : Scope σ) (bits type : Nat) (loops : Bool) (t : Text) : Asm (Nat × Option (Fix σ)) := do
  match ← sc.target (Text.str t) loops with
  | .inl k => return (fieldBits bits (← inRange (-(2 ^ (bits - 1) : Nat)) ((2 ^ (bits - 1) : Nat) - 1) k), none)
  | .inr s => return (0, some ⟨type, s, 0⟩)

/-- `[A+expr]`, `[A-expr]` or `[A]`: the A field and OFF8 (R68, R49). -/
def Scope.memory {σ : Type} (sc : Scope σ) (size : Nat) (t : Text) : Asm (Nat × Nat) :=
  match t, t.getLast? with
  | '[' :: r, some ']' => do
    let r := Text.trim r.dropLast
    let n := r.takeWhile isNameC
    let a ← sourceField n
    let offset := fun (v : Int) => do
      rejectIf .range (v % (size : Int) != 0)
      return (a, fieldBits 8 (← inRange (-128) 127 (v / (size : Int))))
    match Text.trimLeft (r.drop n.length) with
    | [] => return (a, 0)
    | c :: e =>
      match c == '+', c == '-', ← sc.value e with
      | true, _, .int v => offset v
      | _, true, .int v => offset (-v)
      | _, _, _ => .error .expression
  | _, _ => .error .statement

/-- A count of the W format: `_`, or `#expr` from 0 to 62 (R59, R68). -/
def Scope.waitCount {σ : Type} (sc : Scope σ) (t : Text) : Asm Nat :=
  if t == ['_'] then .ok 63 else do return (← sc.immediate 6 0 0 62 t).1

/-- The used source fields, from the operands in field order; the operands left. -/
def roleFields : List Role → List Text → Asm (List Nat × List Text)
  | [], ts => .ok ([], ts)
  | .none :: rs, ts => do let (fs, ts) ← roleFields rs ts; return (0 :: fs, ts)
  | _ :: rs, t :: ts => do
    let v ← sourceField t
    let (fs, ts) ← roleFields rs ts
    return (v :: fs, ts)
  | _ :: _, [] => .error .statement

/-- The bytes of one access of an M-format instruction, by which OFF8 is scaled (R49, R186–R188). -/
def accessBytes (op w : Nat) : Nat := if op = 0x62 ∨ op = 0x63 ∨ op = 0x67 ∨ op = 0x68 then 8 else 2 ^ (w / 2 ^ 10 % 4)

/-- The operands of a form: A, B, C, the word's bits other than OP, the modifiers and D, and the relocation. -/
def Form.operands {σ : Type} (f : Form) (sc : Scope σ) (sh : Shape) (mw d : Nat) (ts : List Text) :
    Asm (Nat × Nat × Nat × Nat × Option (Fix σ)) :=
  match f.layout with
  | .load => do
    match ts with
    | [m] => let (a, o) ← sc.memory (accessBytes f.op mw) m; return (a, 0, 0, a * 2 ^ 18 + d * 2 ^ 12 + o, none)
    | _ => .error .statement
  | .store => do
    match ts with
    | [] => .error .statement
    | m :: rest =>
      let (a, o) ← sc.memory (accessBytes f.op mw) m
      match ← roleFields [sh.b] rest with
      | ([b], []) => return (a, b, 0, a * 2 ^ 18 + b * 2 ^ 12 + o, none)
      | _ => .error .statement
  | .waits => do
    match ts with
    | [l, s, c, t] =>
      return (0, 0, 0, (← sc.waitCount l) * 2 ^ 18 + (← sc.waitCount s) * 2 ^ 12 + (← sc.waitCount c) * 2 ^ 6 + (← sc.waitCount t), none)
    | _ => .error .statement
  | .counted => do
    match ts with
    | [n, t] =>
      let (v, _) ← sc.immediate 12 0 0 4095 n
      let (o, x) ← sc.transfer 9 3 true t
      return (0, 0, 0, v * 2 ^ 12 + o, x)
    | _ => .error .statement
  | .reg | .limited | .imm | .long | .branch | .looped | .jump => do
    match ← roleFields [sh.a, sh.b, sh.c] ts with
    | ([a, b, c], rest) =>
      let w := a * 2 ^ 18 + b * 2 ^ 12 + c * 2
      match f.layout, rest with
      | .reg, [] => return (a, b, c, w + d * 2 ^ 7, none)
      | .limited, [] => return (a, b, c, w + d * 2 ^ 7, none)
      | .imm, [t] =>
        let r := immRange f.op
        let (v, x) ← sc.immediate 13 5 r.1 r.2 t
        return (a, b, c, w + d * 2 ^ 13 + v, x)
      | .long, [t] => let (v, x) ← sc.immediate 19 4 (-262144) 262143 t; return (a, b, c, d * 2 ^ 19 + v, x)
      | .branch, [t] => let (o, x) ← sc.transfer 9 3 false t; return (a, b, c, w + o, x)
      | .looped, [t] => let (o, x) ← sc.transfer 9 3 true t; return (a, b, c, w + o, x)
      | .jump, [t] => let (o, x) ← sc.transfer 24 2 false t; return (a, b, c, o, x)
      | _, _ => .error .statement
    | _ => .error .statement

/-- The instruction word of a statement (R48, R68, R69). LIM omitted encodes 0x7F (R58); SZ is always written (R69). -/
def encodeStmt {σ : Type} (sc : Scope σ) (st : Stmt) : Asm (Enc σ) := do
  let f ← orReject .statement (formOf st.op)
  let (mb, seen) ← modifierBits f.subs st.mods []
  let sized := f.layout == .load || f.layout == .store
  rejectIf .modifier (sized && !seen.contains 0)
  let mw := if f.layout == .limited && seen.isEmpty then 127 else mb
  let sh := f.shapeOf st.mods
  let d ← destField sh.d st.dest
  let (a, b, c, w, x) ← f.operands sc sh mw d st.args
  return ⟨f.op * 2 ^ 24 + mw + w, x, sh, a, b, c, d⟩

/-! ## What a statement reads, writes and pushes (R74) -/

/-- The registers and the trellis entries that a source field reads. -/
def fieldReads (r : Role) (v : Nat) : List Nat × List Nat :=
  match r with
  | .none => ([], [])
  | .word => if v < 16 then ([], [v]) else if v < 32 then ([v - 16], []) else ([], [])
  | .pair => if v < 16 then ([], [v, v + 1]) else if v < 32 then ([v - 16, v - 15], []) else ([], [])
  | .run n => if 16 ≤ v ∧ v < 32 then (((List.range n).map fun i => v - 16 + i).filter (· < 16), []) else ([], [])

/-- The companion scale register of `pdot` (R172). -/
def companionReads (w : Nat) : List Nat := if w / 2 ^ 24 = 0x4A ∧ w / 4 % 2 = 1 then [w / 8 % 16] else []

def Enc.reads {σ : Type} (e : Enc σ) : List Nat × List Nat :=
  let base := if e.shape.d = .base then (if e.d = 16 then ([], [0]) else if e.d < 16 then ([e.d], []) else ([], [])) else ([], [])
  let rs := [fieldReads e.shape.a e.a, fieldReads e.shape.b e.b, fieldReads e.shape.c e.c, base, (companionReads e.word, [])]
  ((rs.map Prod.fst).flatten, (rs.map Prod.snd).flatten)

/-- The words that D receives. -/
def DRole.words : DRole → Nat
  | .none => 0
  | .word => 1
  | .pair => 2
  | .run n => n
  | .base => 1

def Enc.writes {σ : Type} (e : Enc σ) : List Nat :=
  if e.d < 16 then (List.range e.shape.d.words).map (fun i => e.d + i) else []

def Enc.pushes {σ : Type} (e : Enc σ) : Nat := if e.d = 16 then e.shape.d.words else 0

/-- A pair names an odd register or q15 (R53, R74). -/
def Enc.badPair {σ : Type} (e : Enc σ) : Bool :=
  let bad := fun (r : Role) (v : Nat) => r == .pair && (v == 15 || (decide (16 ≤ v) && decide (v < 32) && v % 2 == 1))
  bad e.shape.a e.a || bad e.shape.b e.b || (e.shape.d == .pair && decide (e.d < 16) && e.d % 2 == 1)

end Sys2Proof.Machine
end

