-- ==== Sys2Proof/Machine/AsmData.lean ====
section
/-! DEFINITION. Data directives and their literals (spec/04_assembly_objects.md R75, R76): the bytes that each value occupies. -/

namespace Sys2Proof.Machine

/-- The exact value of a decimal literal: (−1)^neg × m × 10^e. -/
structure Decimal where
  neg : Bool
  m   : Nat
  e   : Int
  deriving DecidableEq, Repr

/-- An exponent: `e` or `E`, an optional sign and digits; none written is 0. -/
def readExponent (t : Text) : Option Int :=
  match t with
  | [] => some 0
  | c :: r =>
    if c == 'e' || c == 'E' then
      match r with
      | '-' :: r => (digits1 10 false r).map fun n => -(n : Int)
      | '+' :: r => (digits1 10 false r).map fun n => (n : Int)
      | r => (digits1 10 false r).map fun n => (n : Int)
    else none

/-- A decimal number with an optional fraction and exponent (R75). -/
def readDecimal (t : Text) : Option Decimal :=
  let neg := t.head? == some '-'
  let t := if neg then t.drop 1 else t
  let whole := t.takeWhile Char.isDigit
  let r := t.drop whole.length
  let frac := match r with
    | '.' :: f => some (f.takeWhile Char.isDigit)
    | _ => none
  let tail := match frac with
    | some f => r.drop (1 + f.length)
    | none => r
  if frac == some [] then none
  else
    let f := frac.getD []
    match digits1 10 false whole, readExponent tail with
    | some _, some e => (digits1 10 false (whole ++ f)).map fun m => ⟨neg, m, e - (f.length : Int)⟩
    | _, _ => none

/-- A decimal value as a dyadic one that rounds as it does in every format of at most `bits` significant bits. -/
def Decimal.dyad (bits : Nat) (d : Decimal) : Nat × Int :=
  if 0 ≤ d.e then (d.m * 10 ^ d.e.toNat, 0)
  else
    let q := 10 ^ d.e.natAbs
    let k := bits + ilog2 q + 2
    let n := d.m * 2 ^ k
    withRest (n / q) (-(k : Int)) (n % q != 0)

/-- A decimal literal converted to a format: one rounding with rne; rejected beyond the largest finite value (R76). -/
def Fmt.ofDecimal (f : Fmt) (d : Decimal) : Asm Nat :=
  let x := d.dyad (f.man + 2)
  let r := f.round 0#2 false d.neg x.1 x.2
  if r.flags &&& flOF != 0 then .error .literal else .ok r.code

/-- Raw bits that fit a width, signed or unsigned. -/
def rawBits (width : Nat) (v : Int) : Asm Nat :=
  if -(2 ^ (width - 1) : Nat) ≤ v ∧ v < (2 ^ width : Nat) then .ok (fieldBits width v) else .error .range

/-- An FP literal in a format (R75, R76). -/
def Fmt.literal (f : Fmt) (t : Text) : Asm Nat :=
  match t with
  | '0' :: 'x' :: _ => do rawBits f.width (← orReject .literal (constant t))
  | '0' :: 'b' :: _ => do rawBits f.width (← orReject .literal (constant t))
  | _ =>
    let s := Text.str t
    if s == "nan" then (if f.top = .none then .error .literal else .ok f.canonNan)
    else if s == "inf" || s == "-inf" then
      (if f.top = .ieee then .ok (f.ofInf false (s == "-inf")).code else .error .literal)
    else do f.ofDecimal (← orReject .literal (readDecimal t))

/-- An `e8m0` scale: `2^n` with n from −127 to 127, or `nan` (R75). -/
def e8m0Literal (t : Text) : Asm Nat :=
  match t with
  | '2' :: '^' :: '-' :: r => do
    let n ← orReject .literal (digits1 10 false r)
    if n ≤ 127 then .ok (127 - n) else .error .literal
  | '2' :: '^' :: r => do
    let n ← orReject .literal (digits1 10 false r)
    if n ≤ 127 then .ok (127 + n) else .error .literal
  | _ => if Text.str t == "nan" then .ok 255 else .error .literal

/-- What a data directive's values are written as. -/
inductive DataKind where
  | ints (bytes : Nat)
  | floats (f : Fmt)
  /-- `.e2m1`: two elements a byte -/
  | nibbles
  /-- `.scales` of an FP format; none for `e8m0` -/
  | scales (f : Option Fmt)
  deriving DecidableEq, Repr

/-- The data directives (R75). -/
def dataKind : String → Option DataKind
  | ".byte" => some (.ints 1)
  | ".half" => some (.ints 2)
  | ".word" => some (.ints 4)
  | ".dword" => some (.ints 8)
  | ".fp32" => some (.floats .f32)
  | ".f16" => some (.floats .f16)
  | ".bf16" => some (.floats .bf16)
  | ".e4m3" => some (.floats .e4m3)
  | ".e5m2" => some (.floats .e5m2)
  | ".e2m1" => some .nibbles
  | _ => none

/-- The format that `.scales sf` names; its values follow. -/
def scalesKind (t : Text) : Asm DataKind :=
  match Text.str t with
  | "e8m0" => .ok (.scales none)
  | "e5m2" => .ok (.scales (some .e5m2))
  | "e4m3" => .ok (.scales (some .e4m3))
  | _ => .error .directive

/-- The alignment of a value in a `pdata` or `sdata` section (R75). -/
def DataKind.align : DataKind → Nat
  | .ints n => n
  | .floats f => f.width / 8
  | _ => 1

/-- The bytes that a directive's run of values takes. -/
def DataKind.bytes (k : DataKind) (count : Nat) : Nat :=
  match k with
  | .ints n => n * count
  | .floats f => f.width / 8 * count
  | .nibbles => (count + 1) / 2
  | .scales _ => count

/-- `n` bytes of a number, little-endian (R3). -/
def leBytes (n v : Nat) : List Byte := (List.range n).map fun i => BitVec.ofNat 8 (v / 2 ^ (8 * i))

/-- Elements of 4 bits, element i in bits [4i+3:4i]. -/
def packNibbles : List Nat → Nat
  | [] => 0
  | x :: xs => x + 16 * packNibbles xs

/-- The bytes of a directive that holds literals (R75). -/
def DataKind.literals (k : DataKind) (ts : List Text) : Asm (List Byte) :=
  match k with
  | .floats f => do return ((← ts.mapM f.literal).map (leBytes (f.width / 8))).flatten
  | .nibbles => do return leBytes ((ts.length + 1) / 2) (packNibbles (← ts.mapM Fmt.e2m1.literal))
  | .scales (some f) => do return ((← ts.mapM f.literal).map (leBytes 1)).flatten
  | .scales none => do return ((← ts.mapM e8m0Literal).map (leBytes 1)).flatten
  | .ints _ => .error .directive

/-- An integer value's bytes, or eight zero bytes and the relocation that fills them (R75, R86). -/
def integerBytes {σ : Type} (n : Nat) (v : Val σ) : Asm (List Byte × Option (Fix σ)) :=
  match v with
  | .int v => do return (leBytes n (← rawBits (8 * n) v), none)
  | .addr s k => if n = 8 then .ok (leBytes 8 0, some ⟨1, s, k⟩) else .error .expression

end Sys2Proof.Machine
end

