-- ==== Sys2Proof/Machine/AsmSource.lean ====
section
/-! DEFINITION. The first pass of `urzas` over its source files (spec/04_assembly_objects.md R66, R67, R72, R73, R75, R77–R80): macros,
conditionals and included files; the layout of sections and blocks; and the definition of every symbol. -/

namespace Sys2Proof.Machine

/-! ## What the first pass collects -/

/-- A symbol (R85): the file that defines it, its place (a section's index, 0xFFFF constant or record, 0xFFFE region), KIND, and
VALUE. A record's VALUE is its position among the records until the launch table is laid out. -/
structure AsmSymbol where
  file  : Nat
  name  : String
  sec   : Nat
  kind  : Nat
  value : Int
  size  : Nat
  deriving DecidableEq, Repr

/-- A section as far as it has been read; KIND as in R84, alignment in bytes. -/
structure AsmSection where
  name  : String
  kind  : Nat
  align : Nat
  va    : Nat
  size  : Nat
  /-- an `.align` of a code section that no block has followed yet (R79) -/
  gap   : Bool
  deriving DecidableEq, Repr

/-- A block: the directive that opened it, what the directive says of the header, and its statements. -/
structure AsmBlock where
  file  : Nat
  sec   : Nat
  off   : Nat
  name  : String
  dir   : String
  kind  : Nat
  live  : Nat
  carry : Int
  hint  : Option String
  stmts : List Stmt
  deriving DecidableEq, Repr

/-- What a piece of a data section holds. -/
inductive PieceBody where
  | value (bytes : Nat) (e : Text)
  | bytes (bs : List Byte)
  | arrival (mode : Nat) (goal gen : Text)
  deriving DecidableEq, Repr

structure AsmPiece where
  file : Nat
  sec  : Nat
  off  : Nat
  body : PieceBody
  deriving DecidableEq, Repr

structure AsmRegion where
  name   : String
  shared : Bool
  align  : Nat
  full   : Bool
  size   : Nat
  /-- rows of a tile; 0 if not a tile -/
  rows   : Nat
  deriving DecidableEq, Repr

/-- A launch-table directive with its arguments, and the symbol of a task's successor list. -/
structure AsmRecord where
  file : Nat
  dir  : String
  args : List Text
  keys : List (String × Text)
  succ : Option Nat
  deriving DecidableEq, Repr

structure AsmMacro where
  name   : String
  params : List Text
  body   : List Text
  deriving DecidableEq, Repr

/-- A conditional: its branch is assembled, what stands around it is, and its `.else` has been read. -/
structure AsmCond where
  here  : Bool
  outer : Bool
  elsed : Bool
  deriving DecidableEq, Repr

/-- A macro whose body is being read: nested definitions, and whether it is kept. -/
structure AsmCollect where
  mac   : AsmMacro
  depth : Nat
  keep  : Bool
  deriving DecidableEq, Repr

structure AsmState where
  secs    : List AsmSection
  syms    : List AsmSymbol
  blocks  : List AsmBlock
  pieces  : List AsmPiece
  regions : List AsmRegion
  recs    : List AsmRecord
  /-- `.depvec`: file, grid, vector -/
  vecs    : List (Nat × String × Text)
  globals : List (Nat × String)
  externs : List (Nat × String)
  ymax    : Nat
  file    : Nat
  cur     : Option Nat
  blk     : Option AsmBlock
  macros  : List AsmMacro
  conds   : List AsmCond
  collect : Option AsmCollect
  ended   : Bool
  deriving DecidableEq, Repr

def AsmState.start : AsmState := ⟨[], [], [], [], [], [], [], [], [], 0, 0, none, none, [], [], none, false⟩

/-! ## Symbols and constants -/

/-- Appends a definition (R67): the name is a symbol, is not reserved, and is new in its source file. -/
def AsmState.define (st : AsmState) (name : String) (sec kind : Nat) (value : Int) (size : Nat) : Asm AsmState := do
  rejectIf .spelling (!isSymbol name || isReserved name)
  rejectIf .twice (st.syms.any fun y => y.file == st.file && y.name == name)
  return { st with syms := st.syms ++ [⟨st.file, name, sec, kind, value, size⟩] }

/-- The value of a symbol: a constant, an address in an `hbm` section, or an address unknown until load (R70). -/
def AsmState.symVal (st : AsmState) (i : Nat) (y : AsmSymbol) : Val Nat :=
  if y.kind = 3 then .int y.value
  else match st.secs[y.sec]? with
    | some s => if s.kind = 4 ∧ y.kind ≠ 5 then .int (s.va + y.value) else .addr i 0
    | none => .addr i 0

/-- A name of a file among the symbols read so far. -/
def AsmState.local? (st : AsmState) (f : Nat) (name : String) : Option (Nat × AsmSymbol) :=
  findIdx (fun (y : AsmSymbol) => y.file == f && y.name == name) st.syms 0

/-- A constant expression over the names that the file has defined so far (R79). -/
def AsmState.const (st : AsmState) (t : Text) : Asm Int := do
  let e ← parseExpr t
  match ← e.eval (fun n => (orReject .unresolved (st.local? st.file n)).map fun p => st.symVal p.1 p.2) with
  | .int v => return v
  | .addr _ _ => .error .expression

def AsmState.constIn (st : AsmState) (lo hi : Int) (t : Text) : Asm Nat := do
  return (← inRange lo hi (← st.const t)).toNat

/-! ## Sections -/

/-- The open section with its index. -/
def AsmState.here (st : AsmState) : Asm (Nat × AsmSection) :=
  match st.cur with
  | some i => (orReject .place st.secs[i]?).map fun s => (i, s)
  | none => .error .place

def AsmState.setSec (st : AsmState) (i : Nat) (s : AsmSection) : AsmState := { st with secs := setNth st.secs i s }

/-- The offset at which the next item of the open section lies. -/
def AsmState.offset (st : AsmState) : Asm Nat := do
  let (_, s) ← st.here
  return match st.blk with
  | some b => b.off + 8 + 4 * b.stmts.length
  | none => s.size

/-- The bytes of a block of `n` instructions with its header and pad word (R42). -/
def blockBytes (n : Nat) : Nat := 8 + 4 * (n + n % 2)

/-- Ends the open block (R73). A block holds 1 to 1,023 instructions (R74). -/
def AsmState.close (st : AsmState) : Asm AsmState :=
  match st.blk with
  | none => .ok st
  | some b => do
    let n := b.stmts.length
    rejectIf .block (n == 0 || decide (1023 < n))
    let s ← orReject .place st.secs[b.sec]?
    return { st.setSec b.sec { s with size := b.off + blockBytes n } with blocks := st.blocks ++ [b], blk := none }

/-- Pads the open section with zero bytes to a multiple; its alignment becomes at least that. -/
def AsmState.pad (st : AsmState) (n : Nat) : Asm AsmState := do
  let (i, s) ← st.here
  return st.setSec i { s with size := roundUp s.size n, align := max s.align n }

/-- Defines a label at the next item's offset. -/
def AsmState.label (st : AsmState) (l : Option String) (size : Nat) : Asm AsmState :=
  match l with
  | none => .ok st
  | some n => do
    let (i, _) ← st.here
    st.define n i 0 (← st.offset) size

/-! ## Arguments -/

/-- An argument of the form `key=value`. -/
def keyValue (t : Text) : Option (String × Text) :=
  let k := t.takeWhile Char.isLower
  match Text.trimLeft (t.drop k.length) with
  | '=' :: v => if k.isEmpty then none else some (Text.str k, Text.trim v)
  | _ => none

/-- The positional arguments and the `key=value` arguments, each key allowed and at most once. -/
def splitKeys (allowed : List String) : List Text → Asm (List Text × List (String × Text))
  | [] => .ok ([], [])
  | t :: ts => do
    let (ps, ks) ← splitKeys allowed ts
    match keyValue t with
    | none => return (t :: ps, ks)
    | some (k, v) =>
      rejectIf .directive (!allowed.contains k || (ks.lookup k).isSome || v.isEmpty)
      return (ps, (k, v) :: ks)

/-- A list in parentheses. -/
def listOf (t : Text) : Asm (List Text) :=
  match t, t.getLast? with
  | '(' :: r, some ')' => .ok (argsOf r.dropLast)
  | _, _ => .error .directive

/-- The registers of one part of `live=`: `hA`, or `hA-hB`. -/
def livePart (t : Text) : Asm (List Nat) := do
  let reg := fun (t : Text) => orReject .directive (destNames.lookup (Text.str (Text.trim t)))
  let a := t.takeWhile (· != '-')
  let lo ← reg a
  let hi ← if t.length = a.length then .ok lo else reg (t.drop (a.length + 1))
  rejectIf .directive (decide (15 < hi) || decide (hi < lo))
  return (List.range (hi + 1)).filter fun n => decide (lo ≤ n)

/-- The pieces of a text between `|`. -/
def splitBars : Text → List Text
  | [] => [[]]
  | c :: t =>
    if c == '|' then [] :: splitBars t
    else match splitBars t with
      | [] => [[c]]
      | a :: as => (c :: a) :: as

/-- The LIVE field of a `live=` list (R73). -/
def liveMask (t : Option Text) : Asm Nat :=
  match t with
  | none => .ok 0
  | some t =>
    if Text.str t == "none" then .ok 0
    else do
      let rs := (← (splitBars t).mapM fun p => livePart (Text.trim p)).flatten
      return ((List.range 16).map fun n => if rs.contains n then 2 ^ n else 0).sum

/-! ## Directives -/

def sectionKinds : List (String × Nat) := [("text", 0), ("stext", 1), ("pdata", 2), ("sdata", 3), ("hbm", 4)]

/-- `.section name, kind` (R72). -/
def AsmState.doSection (st : AsmState) (args : List Text) : Asm AsmState := do
  let st ← st.close
  let (ps, ks) ← splitKeys ["at"] args
  match ps with
  | [n, k] =>
    let name := Text.str n
    let kind ← orReject .directive (sectionKinds.lookup (Text.str k))
    rejectIf .spelling (!isSymbol name)
    rejectIf .directive (kind != 4 && (ks.lookup "at").isSome)
    let va ← match ks.lookup "at" with
      | some e => (st.constIn 0 (2 ^ 56 - 1 : Nat) e).map some
      | none => .ok none
    rejectIf .directive (va.any fun v => v % 4096 != 0)
    match findIdx (fun (s : AsmSection) => s.name == name) st.secs 0 with
    | some (i, s) =>
      rejectIf .directive (s.kind != kind || va.any fun v => v != s.va)
      return { st with cur := some i }
    | none =>
      rejectIf .directive (kind == 4 && va.isNone)
      return { st with secs := st.secs ++ [⟨name, kind, 8, va.getD 0, 0, false⟩], cur := some st.secs.length }
  | _ => .error .directive

/-- Records a launch-table directive; a named one defines a symbol of KIND 5 (R78, R85). -/
def AsmState.record (st : AsmState) (name : Option String) (r : AsmRecord) : Asm AsmState := do
  let st ← match name with
    | some n => st.define n 0xFFFF 5 st.recs.length 0
    | none => .ok st
  return { st with recs := st.recs ++ [r] }

def blockKinds : List (String × Nat) := [("ordinary", 0), ("loop", 1), ("yield", 2)]

/-- `.block`, `.entry`, `.codelet` and `.handler` (R73). -/
def AsmState.doBlock (st : AsmState) (dir : String) (args : List Text) : Asm AsmState := do
  let st ← st.close
  let (i, s) ← st.here
  rejectIf .place (decide (1 < s.kind))
  let keys := if dir == ".block" then ["live", "carry", "kind", "hint"] else if dir == ".handler" then ["class", "live"] else ["live"]
  let (ps, ks) ← splitKeys keys args
  match ps with
  | [n] =>
    let name := Text.str n
    let kind ← if dir == ".block" then
        (match ks.lookup "kind" with
          | some k => orReject .directive (blockKinds.lookup (Text.str k))
          | none => .ok 0)
      else .ok 3
    let carry ← match ks.lookup "carry" with
      | some e => st.const e
      | none => .ok 0
    let live ← liveMask (ks.lookup "live")
    let st ← (st.setSec i { s with gap := false }).define name i 1 s.size 0
    let st ← if dir == ".handler" then do
        let c ← orReject .directive (ks.lookup "class")
        st.record none ⟨st.file, dir, [n, c], [], none⟩
      else .ok st
    return { st with blk := some ⟨st.file, i, s.size, name, dir, kind, live, carry, (ks.lookup "hint").map Text.str, []⟩ }
  | _ => .error .directive

/-- A data section that may hold the directive. -/
def AsmState.dataHere (st : AsmState) (hbmToo : Bool) : Asm (Nat × AsmSection) := do
  let (i, s) ← st.here
  rejectIf .place (decide (s.kind < 2) || (s.kind == 4 && !hbmToo))
  return (i, s)

/-- A data directive (R75): its run of values, aligned in `pdata` and `sdata`. -/
def AsmState.doData (st : AsmState) (l : Option String) (k : DataKind) (ts : List Text) : Asm AsmState := do
  let (_, s) ← st.dataHere true
  rejectIf .directive ts.isEmpty
  let st ← st.pad (if s.kind = 4 then 1 else k.align)
  let st ← st.label l 0
  let (i, s) ← st.here
  let off := s.size
  let ps ← match k with
    | .ints n => .ok (ts.zipIdx.map fun p => AsmPiece.mk st.file i (off + n * p.2) (.value n p.1))
    | k => (k.literals ts).map fun bs => [AsmPiece.mk st.file i off (.bytes bs)]
  return { st.setSec i { s with size := off + k.bytes ts.length } with pieces := st.pieces ++ ps }

def arrivalModes : List (String × Nat) := [("count", 0), ("bytes", 1), ("push", 2)]

/-- `.arrival name, mode, target` (R78): the word in the current data section. -/
def AsmState.doArrival (st : AsmState) (l : Option String) (args : List Text) : Asm AsmState := do
  let _ ← st.dataHere false
  let (ps, ks) ← splitKeys ["gen"] args
  match ps with
  | [n, m, t] =>
    let mode ← orReject .directive (arrivalModes.lookup (Text.str m))
    let st ← st.pad 8
    let st ← st.label l 0
    let (i, s) ← st.here
    let st ← st.define (Text.str n) i 4 s.size 8
    return { st.setSec i { s with size := s.size + 8 } with
      pieces := st.pieces ++ [⟨st.file, i, s.size, .arrival mode t ((ks.lookup "gen").getD ['0'])⟩] }
  | _ => .error .directive

def placeOf (t : Text) : Asm Bool :=
  match Text.str t with
  | "private" => .ok false
  | "shared" => .ok true
  | _ => .error .directive

def isPower2 (n : Nat) : Bool := decide (0 < n) && 2 ^ ilog2 n == n

/-- `.region name, size, place` (R77). -/
def AsmState.doRegion (st : AsmState) (args : List Text) : Asm AsmState := do
  let (ps, ks) ← splitKeys ["align"] args
  match ps with
  | n :: z :: p :: flags =>
    rejectIf .directive (!(flags.isEmpty || flags.map Text.str == ["full"]))
    let size ← st.constIn 1 (2 ^ 32 : Nat) z
    let align ← st.constIn 8 4096 ((ks.lookup "align").getD ['8'])
    rejectIf .directive (!isPower2 align)
    let shared ← placeOf p
    let st ← st.define (Text.str n) 0xFFFE 2 st.regions.length size
    return { st with regions := st.regions ++ [⟨Text.str n, shared, align, !flags.isEmpty, size, 0⟩] }
  | _ => .error .directive

/-- `.tile name, rows, place` (R77): rows of 128 bytes, or of 512 bytes in a shared scratchpad. -/
def AsmState.doTile (st : AsmState) (args : List Text) : Asm AsmState :=
  match args with
  | [n, r, p] => do
    let rows ← st.constIn 1 (2 ^ 20 : Nat) r
    let shared ← placeOf p
    let row := if shared then 512 else 128
    let st ← st.define (Text.str n) 0xFFFE 2 st.regions.length (rows * row)
    return { st with regions := st.regions ++ [⟨Text.str n, shared, row, false, rows * row, rows⟩] }
  | _ => .error .directive

/-- `.align n` (R79). In a code section it stands between blocks (R72): a block is before it, and one must follow. -/
def AsmState.doAlign (st : AsmState) (args : List Text) : Asm AsmState :=
  match args with
  | [e] => do
    let n ← st.constIn 1 4096 e
    rejectIf .directive (!isPower2 n)
    let st ← st.close
    let (i, s) ← st.here
    if 2 ≤ s.kind then st.pad n
    else
      rejectIf .directive (decide (n < 8))
      rejectIf .place (!st.blocks.any fun b => b.sec == i)
      (st.setSec i { s with gap := true }).pad n
  | _ => .error .directive

/-- The keys that each launch-table directive takes (R78, R424). -/
def recordKeys : String → Option (List String)
  | ".tcb" => some ["core", "deps", "args", "succ", "prio", "cp", "retry"]
  | ".queue" => some []
  | ".stage" => some ["ranges", "twins", "twq", "overload", "codelen"]
  | ".grid" => some ["teams", "cores", "home"]
  | ".mcgroup" => some ["id"]
  | ".launch" => some ["grid", "tcb", "stage", "core", "args", "prio", "cp", "retry", "stamp"]
  | _ => none

/-- A task's successor list: its words in a `pdata` section that no directive names, ended by 0 unless there are 8 (R314). Log 67. -/
def AsmState.successors (st : AsmState) (t : Text) : Asm (AsmState × Option Nat) := do
  let xs ← listOf t
  rejectIf .directive (decide (8 < xs.length))
  if xs.isEmpty then return (st, none)
  let ws := if xs.length < 8 then xs ++ [['0']] else xs
  let p : AsmState × Nat := match findIdx (fun (s : AsmSection) => s.name == "") st.secs 0 with
    | some (i, _) => (st, i)
    | none => ({ st with secs := st.secs ++ [⟨"", 2, 8, 0, 0, false⟩] }, st.secs.length)
  let st := p.1
  let i := p.2
  let s ← orReject .place st.secs[i]?
  let ps := ws.zipIdx.map fun p => AsmPiece.mk st.file i (s.size + 8 * p.2) (.value 8 p.1)
  let st := { st.setSec i { s with size := s.size + 8 * ws.length } with
    pieces := st.pieces ++ ps, syms := st.syms ++ [⟨st.file, "", i, 0, s.size, 8 * ws.length⟩] }
  return (st, some (st.syms.length - 1))

/-- A launch-table directive (R78). -/
def AsmState.doRecord (st : AsmState) (dir : String) (keys : List String) (args : List Text) : Asm AsmState := do
  let (ps, ks) ← splitKeys keys args
  let (st, succ) ← match ks.lookup "succ" with
    | some t => st.successors t
    | none => .ok (st, none)
  if dir == ".launch" then st.record none ⟨st.file, dir, ps, ks, none⟩
  else match ps with
    | n :: rest => st.record (some (Text.str n)) ⟨st.file, dir, rest, ks, succ⟩
    | [] => .error .directive

/-- The directives that end the block before them (R73, R79). -/
def endsBlock (dir : String) : Bool := [".section", ".block", ".entry", ".codelet", ".handler", ".align", ".end"].contains dir

/-- Every directive but those that choose which lines are read (R72–R79). DESIGN CHOICE (log 67): a second `.yieldmax` in a run
is rejected. -/
def AsmState.directive (st : AsmState) (s : Stmt) : Asm AsmState := do
  match dataKind s.op with
  | some k => st.doData s.label k s.args
  | none =>
    match s.op, s.args with
    | ".scales", f :: ts => do st.doData s.label (← scalesKind f) ts
    | ".arrival", _ => st.doArrival s.label s.args
    | _, _ =>
      let st ← if endsBlock s.op then st.close else .ok st
      let st ← st.label s.label 0
      match recordKeys s.op with
      | some keys => st.doRecord s.op keys s.args
      | none =>
        match s.op, s.args with
        | ".section", _ => st.doSection s.args
        | ".block", _ => st.doBlock s.op s.args
        | ".entry", _ => st.doBlock s.op s.args
        | ".codelet", _ => st.doBlock s.op s.args
        | ".handler", _ => st.doBlock s.op s.args
        | ".region", _ => st.doRegion s.args
        | ".tile", _ => st.doTile s.args
        | ".align", _ => st.doAlign s.args
        | ".equ", [n, e] => do st.define (Text.str n) 0xFFFF 3 (← st.const e) 0
        | ".global", [n] => return { st with globals := st.globals ++ [(st.file, Text.str n)] }
        | ".extern", [n] => return { st with externs := st.externs ++ [(st.file, Text.str n)] }
        | ".depvec", [g, v] => return { st with vecs := st.vecs ++ [(st.file, Text.str g, v)] }
        | ".yieldmax", [e] => do
          rejectIf .directive (st.ymax != 0)
          return { st with ymax := ← st.constIn 1 4096 e }
        | ".end", [] => do return { ← st.close with ended := true }
        | _, _ => .error .directive

/-- An instruction of the open block (R73); its label names the instruction word's address (R71). -/
def AsmState.instruction (st : AsmState) (s : Stmt) : Asm AsmState := do
  match st.blk with
  | none => .error .place
  | some b =>
    let st ← st.label s.label 4
    return { st with blk := some { b with stmts := b.stmts ++ [s] } }

/-! ## Lines: conditionals, macros and included files (R79) -/

/-- The first word of a line. -/
def firstWord (t : Text) : String := Text.str ((Text.trim (uncomment t)).takeWhile fun c => !isBlank c)

/-- The text `%p` replaced by an argument, where p is the longest parameter that begins there. -/
def substitute (ps : List (Text × Text)) : Nat → Text → Text
  | 0, t => t
  | _, [] => []
  | n + 1, '%' :: t =>
    let hits := ps.filter fun p => p.1.isPrefixOf t
    match hits.foldl (fun (best : Option (Text × Text)) p =>
        match best with
        | some b => if b.1.length < p.1.length then some p else best
        | none => some p) none with
    | some p => p.2 ++ substitute ps n (t.drop p.1.length)
    | none => '%' :: substitute ps n t
  | n + 1, c :: t => c :: substitute ps n t

def AsmState.active (st : AsmState) : Bool := st.conds.all fun c => c.here && c.outer

/-- `.macro name, p…` (R79). -/
def AsmState.startMacro (st : AsmState) (args : List Text) : Asm AsmState :=
  match args with
  | n :: ps => do
    let name := Text.str n
    rejectIf .spelling (!isSymbol name || isOpcode name || directiveNames.contains name || ps.any fun p => !isSymbol (Text.str p))
    rejectIf .twice (st.macros.any fun m => m.name == name)
    return { st with collect := some ⟨⟨name, ps, []⟩, 0, true⟩ }
  | [] => .error .directive

/-- A line while a macro's body is read. -/
def AsmState.collectLine (st : AsmState) (c : AsmCollect) (l : Text) : AsmState :=
  let more := fun d => { st with collect := some { c with depth := d, mac := { c.mac with body := c.mac.body ++ [l] } } }
  if firstWord l == ".macro" then more (c.depth + 1)
  else if firstWord l == ".endm" then
    if c.depth = 0 then { st with collect := none, macros := if c.keep then st.macros ++ [c.mac] else st.macros }
    else more (c.depth - 1)
  else more c.depth

/-- `.else` and `.endif`. -/
def AsmState.elseCond (st : AsmState) : Asm AsmState :=
  match st.conds with
  | c :: cs => if c.elsed then .error .nesting else .ok { st with conds := { c with here := !c.here, elsed := true } :: cs }
  | [] => .error .nesting

def AsmState.endCond (st : AsmState) : Asm AsmState :=
  match st.conds with
  | _ :: cs => .ok { st with conds := cs }
  | [] => .error .nesting

def AsmState.ifCond (st : AsmState) (v : Bool) : Asm AsmState := do
  rejectIf .nesting (decide (16 ≤ st.conds.length))
  return { st with conds := ⟨v, st.active, false⟩ :: st.conds }

/-- The file name of `.include "file"`. -/
def quoted (t : Text) : Asm String :=
  match t, t.getLast? with
  | '"' :: r, some '"' => .ok (Text.str r.dropLast)
  | _, _ => .error .directive

/-- What reads lines nested one deeper: the depths of included files and of macros, the state, the lines. -/
abbrev Deeper := Nat → Nat → AsmState → List Text → Asm AsmState

/-- A statement of an assembled line. -/
def AsmState.statement (lib : List (String × Text)) (deeper : Deeper) (inc mac : Nat) (st : AsmState) (s : Stmt) : Asm AsmState := do
  if s.op == "" then st.label s.label 0
  else if isOpcode s.op then st.instruction s
  else
    rejectIf .statement (!s.mods.isEmpty || s.dest.isSome)
    match st.macros.find? fun m => m.name == s.op with
    | some m =>
      let st ← st.label s.label 0
      rejectIf .directive (m.params.length != s.args.length)
      rejectIf .nesting (decide (16 ≤ mac))
      deeper inc (mac + 1) st (m.body.map fun l => substitute (m.params.zip s.args) (l.length + 1) l)
    | none =>
      match s.op, s.args with
      | ".if", [e] => do
        let st ← st.label s.label 0
        st.ifCond ((← st.const e) != 0)
      | ".else", [] => st.elseCond
      | ".endif", [] => st.endCond
      | ".macro", args => st.startMacro args
      | ".include", [f] => do
        let st ← st.label s.label 0
        rejectIf .nesting (decide (16 ≤ inc))
        deeper (inc + 1) mac st (textLines (← orReject .unresolved (lib.lookup (← quoted f))))
      | _, _ => st.directive s

/-- One line (R66). After `.end` every line is ignored; in a branch that is not assembled only its own directives are read. -/
def AsmState.line (lib : List (String × Text)) (deeper : Deeper) (inc mac : Nat) (st : AsmState) (l : Text) : Asm AsmState := do
  if st.ended then return st
  match st.collect with
  | some c => return st.collectLine c l
  | none =>
    if st.active then
      match ← parseLine isOpcode l with
      | some s => AsmState.statement lib deeper inc mac st s
      | none => return st
    else
      match firstWord l with
      | ".if" => st.ifCond false
      | ".else" => st.elseCond
      | ".endif" => st.endCond
      | ".macro" => return { st with collect := some ⟨⟨"", [], []⟩, 0, false⟩ }
      | _ => return st

/-- Lines in order, with those they bring in nested at most `n` deep. Conditionals and definitions close where they open. -/
def readLines (lib : List (String × Text)) : Nat → Deeper
  | 0, _, _, _, _ => .error .nesting
  | n + 1, inc, mac, st, ls => do
    let st' ← ls.foldlM (AsmState.line lib (readLines lib n) inc mac) st
    rejectIf .nesting (!st'.ended && (st'.conds.length != st.conds.length || st'.collect.isSome))
    return st'

/-- Source files in order (R80). Macros belong to their file; a file without `.end` is rejected (R79). -/
def readSources (lib : List (String × Text)) : AsmState → List Text → Asm AsmState
  | st, [] => .ok st
  | st, f :: fs => do
    let st ← readLines lib 34 0 0 { st with cur := none, blk := none, macros := [], conds := [], collect := none, ended := false } (textLines f)
    rejectIf .noEnd (!st.ended)
    readSources lib { st with file := st.file + 1 } fs

end Sys2Proof.Machine
end

