-- ==== Sys2Proof/Machine/AsmObject.lean ====
section
/-! DEFINITION. The second pass of `urzas` and the file it writes (spec/04_assembly_objects.md R71, R73, R74, R78, R80, R82–R92, R424):
instruction words, headers and static checks, launch records, relocations, and the bytes of the DOF file. -/

namespace Sys2Proof.Machine

/-! ## Names and values with every symbol known -/

/-- The symbol that a name of a file stands for: its own, or the one that another file exports (R80). -/
def AsmState.find (st : AsmState) (f : Nat) (name : String) : Asm (Nat × AsmSymbol) :=
  match st.local? f name with
  | some p => .ok p
  | none =>
    if st.externs.contains (f, name) then
      orReject .unresolved
        (findIdx (fun (y : AsmSymbol) => y.name == name && st.globals.contains (y.file, name)) st.syms 0)
    else .error .unresolved

def AsmState.value (st : AsmState) (f : Nat) (t : Text) : Asm (Val Nat) := do
  (← parseExpr t).eval fun n => (st.find f n).map fun p => st.symVal p.1 p.2

def AsmState.number (st : AsmState) (f : Nat) (lo hi : Int) (t : Text) : Asm Nat := do
  match ← st.value f t with
  | .int v => return (← inRange lo hi v).toNat
  | .addr _ _ => .error .expression

/-- `key=expr` in a range, or its default. -/
def AsmState.keyed (st : AsmState) (r : AsmRecord) (k : String) (lo hi : Int) (dflt : Nat) : Asm Nat :=
  match r.keys.lookup k with
  | some t => st.number r.file lo hi t
  | none => .ok dflt

/-- The names that one file exports and another uses are each defined once (R67, R80). DESIGN CHOICE (log 67): a name that one
file declares `.global` twice counts as exported twice and is rejected; a name that a file declares `.extern` and also defines
itself is accepted, and means its own definition there. -/
def AsmState.checkLinks (st : AsmState) : Asm Unit := do
  rejectIf .unresolved (st.globals.any fun g => (st.local? g.1 g.2).isNone)
  rejectIf .twice (st.globals.zipIdx.any fun p => (st.globals.take p.2).any fun g => g.2 == p.1.2)
  rejectIf .unresolved (st.externs.any fun x => !st.globals.any fun g => g.2 == x.2)

/-! ## Blocks -/

/-- The block that a symbol names. -/
def AsmState.blockOf (st : AsmState) (y : AsmSymbol) : Option AsmBlock :=
  if y.kind = 1 then st.blocks.find? fun b => b.sec == y.sec && (b.off : Int) == y.value else none

/-- The target of a transfer (R71): the offset within one section of one source file, or a relocation. -/
def AsmState.targetOf (st : AsmState) (b : AsmBlock) (name : String) (loops : Bool) : Asm (Int ⊕ Nat) := do
  let (i, y) ← st.find b.file name
  let t ← orReject .target (st.blockOf y)
  rejectIf .target ((t.kind == 1) != loops)
  return if t.file = b.file ∧ t.sec = b.sec then .inl (((t.off : Int) - b.off) / 8) else .inr i

def AsmState.scope (st : AsmState) (b : AsmBlock) : Scope Nat := ⟨st.value b.file, st.targetOf b⟩

/-- What the instructions before one have written and pushed. -/
structure Flow where
  written : List Nat
  pushed  : Nat
  deriving DecidableEq, Repr

/-- Liveness, trellis and pairs of an instruction (R74). -/
def badUse (live : Nat) (carry : Nat) (w : Flow) (e : Enc Nat) : Bool :=
  let r := e.reads
  (r.1.any fun n => !w.written.contains n && live / 2 ^ n % 2 == 0) ||
  (r.2.any fun q => decide (min 16 (carry + w.pushed) ≤ q)) || e.badPair

def anyBadUse (live carry : Nat) : Flow → List (Enc Nat) → Bool
  | _, [] => false
  | w, e :: es => badUse live carry w e || anyBadUse live carry ⟨e.writes ++ w.written, w.pushed + e.pushes⟩ es

def encOp (e : Enc Nat) : Nat := e.word / 2 ^ 24

/-- The static checks of a block (R74), and that a codelet contains `done` (R73). -/
def AsmBlock.bad (b : AsmBlock) (ymax : Nat) (es : List (Enc Nat)) : Bool :=
  let isYield := fun (e : Enc Nat) => encOp e == 0xC3
  let header := decide (b.carry < 0) || decide (4 < b.carry) || (b.kind == 3 && (b.carry != 0 || decide (15 < b.live)))
  let yields := (es.tail.any isYield) || ((es.head?.any isYield) != (b.kind == 2)) || (b.kind == 2 && b.carry != 0)
  let calls := es.dropLast.any fun e => encOp e == 0x32 || encOp e == 0x34
  let bound := ymax != 0 && es.any fun e => isYield e && decide (ymax < e.word % 2 ^ 13)
  let codelet := b.dir == ".codelet" && !es.any fun e => encOp e == 0xC2
  header || yields || calls || bound || codelet || anyBadUse b.live b.carry.toNat ⟨[], 0⟩ es

/-- HINT: the offset to the block that `hint=` names, within one section of one source file; otherwise 0 (R73). -/
def AsmState.hintOf (st : AsmState) (b : AsmBlock) : Asm Nat :=
  match b.hint with
  | none => .ok 0
  | some n => do
    let (_, y) ← st.find b.file n
    let t ← orReject .target (st.blockOf y)
    let k := ((t.off : Int) - b.off) / 8
    return if t.file = b.file ∧ t.sec = b.sec ∧ -(2 ^ 23 : Nat) ≤ k ∧ k < (2 ^ 23 : Nat) then fieldBits 24 k else 0

/-- A header word (R41). -/
def headerWord (len live carry kind hint : Nat) : Nat :=
  0b111110 * 2 ^ 58 + len * 2 ^ 48 + live * 2 ^ 32 + carry * 2 ^ 29 + kind * 2 ^ 27 + hint

/-- A relocation of the file: the section (0xFFFF: the launch table), WHERE, and what it adds. -/
structure AsmReloc where
  sec : Nat
  loc : Nat
  fix : Fix Nat
  deriving DecidableEq, Repr

/-- Bytes with the relocations that patch them. -/
abbrev Piece := List Byte × List AsmReloc

/-- A block's header, words and pad word, and its relocations. -/
def AsmState.blockPiece (st : AsmState) (b : AsmBlock) : Asm Piece := do
  let es ← b.stmts.mapM (encodeStmt (st.scope b))
  rejectIf .block (b.bad st.ymax es)
  let h := headerWord es.length b.live b.carry.toNat b.kind (← st.hintOf b)
  let ws := leBytes 8 h ++ (es.map fun e => leBytes 4 e.word).flatten ++ (if es.length % 2 = 1 then leBytes 4 0 else [])
  let fs := (es.zipIdx.map fun p => (p.1.fix.map fun x => AsmReloc.mk b.sec (b.off + 8 + 4 * p.2) x).toList).flatten
  return (ws, fs)

/-! ## Data -/

/-- An arrival word before any arrival (R196). -/
def arrivalWord (mode goal gen : Nat) : Nat := goal * 2 ^ 27 + gen * 2 ^ 54 + mode * 2 ^ 62

def AsmState.dataPiece (st : AsmState) (p : AsmPiece) : Asm Piece :=
  match p.body with
  | .bytes bs => .ok (bs, [])
  | .value n e => do
    let (bs, x) ← integerBytes n (← st.value p.file e)
    return (bs, (x.map fun x => AsmReloc.mk p.sec p.off x).toList)
  | .arrival m t g => do
    let goal ← st.number p.file 1 (2 ^ 27 - 1 : Nat) t
    let gen ← st.number p.file 0 255 g
    return (leBytes 8 (arrivalWord m goal gen), [])

/-- Pieces laid at their offsets, zero bytes between them and up to a size. -/
def layPieces (size : Nat) (ps : List (Nat × Piece)) : Piece :=
  let r := ps.foldl (fun (acc : List Byte × List AsmReloc) p =>
    (acc.1 ++ List.replicate (p.1 - acc.1.length) 0 ++ p.2.1, acc.2 ++ p.2.2)) ([], [])
  (r.1 ++ List.replicate (size - r.1.length) 0, r.2)

/-- A section's contents and relocations. -/
def AsmState.sectionPiece (st : AsmState) (i : Nat) (s : AsmSection) : Asm Piece := do
  let bs ← (st.blocks.filter fun b => b.sec == i).mapM fun b => (st.blockPiece b).map fun p => (b.off, p)
  let ds ← (st.pieces.filter fun p => p.sec == i).mapM fun p => (st.dataPiece p).map fun q => (p.off, q)
  return layPieces s.size (bs ++ ds)

/-! ## Launch-table records (R78, R89–R91, R424) -/

/-- `cp=` (R78). -/
def cpNames : List (String × Nat) := [("ignore", 0), ("retry", 1), ("kill", 2), ("killparent", 3)]

def AsmRecord.cp (r : AsmRecord) : Asm Nat :=
  match r.keys.lookup "cp" with
  | some t => orReject .directive (cpNames.lookup (Text.str t))
  | none => .ok 2

/-- A list of values, `key=(…)`, of at most `n`. -/
def AsmState.valueList (st : AsmState) (r : AsmRecord) (k : String) (n : Nat) : Asm (List (Val Nat)) :=
  match r.keys.lookup k with
  | none => .ok []
  | some t => do
    let xs ← listOf t
    rejectIf .directive (decide (n < xs.length))
    xs.mapM (st.value r.file)

/-- A list padded to a length. -/
def padList {α : Type} (d : α) (n : Nat) (xs : List α) : List α := xs ++ List.replicate (n - xs.length) d

/-- The symbol of a block that may be named as an entry (R73): `.entry` or `.codelet`. -/
def AsmState.entryOf (st : AsmState) (f : Nat) (t : Text) (dirs : List String) : Asm (Val Nat) := do
  let (i, y) ← st.find f (Text.str t)
  let b ← orReject .target (st.blockOf y)
  rejectIf .target (!dirs.contains b.dir)
  return .addr i 0

def entryDirs : List String := [".entry", ".codelet"]

/-- The record of one directive that a name stands for. -/
def AsmState.recordOf (st : AsmState) (f : Nat) (t : Text) (dir : String) : Asm (Nat × AsmRecord) := do
  let (i, y) ← st.find f (Text.str t)
  rejectIf .directive (y.kind != 5)
  let r ← orReject .directive st.recs[y.value.toNat]?
  rejectIf .directive (r.dir != dir)
  return (i, r)

/-- A record before it is written: TYPE, and the words of its body. -/
structure AsmBody where
  type  : Nat
  words : List (Val Nat)
  deriving DecidableEq, Repr

def ints (ns : List Nat) : List (Val Nat) := ns.map fun n => Val.int n

/-- `.launch` (R78, R90). -/
def AsmState.launchBody (st : AsmState) (r : AsmRecord) : Asm AsmBody := do
  let core ← st.keyed r "core" 0 0x3FFF 0xFFFF
  let prio ← st.keyed r "prio" 0 63 0
  let retry ← st.keyed r "retry" 0 7 0
  let cp ← r.cp
  let stamp ← st.keyed r "stamp" 0 (2 ^ 64 - 1 : Nat) 0
  let args ← st.valueList r "args" 4
  let (kind, goal) ← match r.args, r.keys.lookup "grid", r.keys.lookup "tcb", r.keys.lookup "stage" with
    | [e], none, none, none => (st.entryOf r.file e entryDirs).map fun v => (0, v)
    | [], some g, none, none => (st.recordOf r.file g ".grid").map fun p => (1, Val.addr p.1 0)
    | [], none, some t, none => (st.recordOf r.file t ".tcb").map fun p => (2, Val.addr p.1 0)
    | [], none, none, some s => (st.recordOf r.file s ".stage").map fun p => (3, Val.addr p.1 0)
    | _, _, _, _ => .error .directive
  let w0 := core + prio * 2 ^ 16 + (cp + retry * 4) * 2 ^ 24 + kind * 2 ^ 32
  return ⟨1, ints [w0] ++ [goal] ++ padList (.int 0) 4 args ++ ints [stamp]⟩

/-- `.tcb` (R78, R96, R314). OWNER 0x3FFF leaves the core to the loader (log 18). DEDUCED (log 67): the entry is a `.codelet`, as
R78 says, and no block of another directive. -/
def AsmState.tcbBody (st : AsmState) (r : AsmRecord) : Asm AsmBody :=
  match r.args with
  | [e] => do
    let core ← st.keyed r "core" 0 0x3FFE 0x3FFF
    let deps ← st.keyed r "deps" 0 (2 ^ 27 - 2 : Nat) 0
    let prio ← st.keyed r "prio" 0 63 0
    let retry ← st.keyed r "retry" 0 7 0
    let cp ← r.cp
    let args ← st.valueList r "args" 4
    let entry ← st.entryOf r.file e [".codelet"]
    let succ := match r.succ with
      | some i => Val.addr i 0
      | none => .int 0
    let ctl := core * 2 ^ 34 + retry * 2 ^ 53 + cp * 2 ^ 56 + prio * 2 ^ 58
    return ⟨2, [entry] ++ ints [arrivalWord 2 (deps + 1) 0] ++ padList (.int 0) 4 args ++ [succ] ++ ints [ctl]⟩
  | _ => .error .directive

/-- A queue's slots, words per slot and place (R78, R208). -/
def AsmState.queueShape (st : AsmState) (r : AsmRecord) : Asm (Nat × Nat × Bool) :=
  match r.args with
  | n :: z :: p :: flags => do
    let slots ← st.number r.file 1 (2 ^ 31 : Nat) n
    let size ← st.number r.file 1 8 z
    rejectIf .directive (!isPower2 slots || flags.any fun t => !(["portal", "stamp"].contains (Text.str t)))
    return (slots, size, ← placeOf p)
  | _ => .error .directive

/-- `.queue`. Its place stands in the BASE word of the file, 0 private and 1 shared (log 18). -/
def AsmState.queueBody (st : AsmState) (r : AsmRecord) : Asm AsmBody := do
  let (slots, size, shared) ← st.queueShape r
  let flags := (r.args.drop 3).map Text.str
  let fl := (if flags.contains "portal" then 1 else 0) + (if flags.contains "stamp" then 2 else 0)
  return ⟨5, ints [if shared then 1 else 0, slots + size * 2 ^ 32, 0, 0, fl, 0, 0, 0]⟩

/-- The vectors that `.depvec` gives a grid, checked (R78): not zero, and positive with the highest dimension compared first. -/
def AsmState.vectorsOf (st : AsmState) (i dims : Nat) : Asm (List (List Int)) := do
  let mine ← st.vecs.mapM fun v => (st.recordOf v.1 v.2.1.toList ".grid").map fun p => (p.1, v)
  let vs ← (mine.filter fun p => p.1 == i).mapM fun p => do
    let cs ← (← listOf p.2.2.2).mapM fun t => do
      match ← st.value p.2.1 t with
      | .int c => inRange (-15) 15 c
      | .addr _ _ => .error .expression
    rejectIf .directive (cs.length != dims || !((cs.reverse.find? (· != 0)).any fun c => decide (0 < c)))
    return cs
  rejectIf .directive (decide (4 < vs.length))
  return vs

/-- `.grid` with its `.depvec`s (R78, R344): GCP and TCP are kill self, with retry limits of 0. -/
def AsmState.gridBody (st : AsmState) (i : Nat) (r : AsmRecord) : Asm AsmBody :=
  match r.args with
  | d :: e :: flags => do
    rejectIf .directive (!(flags.isEmpty || flags.map Text.str == ["drain"]))
    let ds ← (← listOf d).mapM (st.number r.file 1 (2 ^ 20 : Nat))
    rejectIf .directive (ds.isEmpty || decide (3 < ds.length) || decide (2 ^ 20 < ds.prod))
    let entry ← st.entryOf r.file e entryDirs
    let teams ← st.keyed r "teams" 1 48 1
    let cores ← st.keyed r "cores" 1 16 1
    let home ← st.keyed r "home" 0 3 0
    let vs ← st.vectorsOf i ds.length
    let ext := (ds.zipIdx.map fun p => (p.1 - 1) * 2 ^ (20 * p.2)).sum + ds.length * 2 ^ 60
    let shape := teams + cores * 2 ^ 6 + home * 2 ^ 11 + vs.length * 2 ^ 13 + 2 * 2 ^ 16 + 2 * 2 ^ 21 +
      (if flags.isEmpty then 0 else 2 ^ 27)
    let vec := (vs.zipIdx.map fun p => (p.1.zipIdx.map fun q => fieldBits 5 q.1 * 2 ^ (15 * p.2 + 5 * q.2)).sum).sum
    return ⟨3, ints [0, ext] ++ [entry] ++ ints [shape, vec, 0, 0, 0]⟩
  | _ => .error .directive

/-- Four core ids to a word. -/
def packIds : List Nat → List Nat
  | a :: b :: c :: d :: r => (a + b * 2 ^ 16 + c * 2 ^ 32 + d * 2 ^ 48) :: packIds r
  | [] => []
  | r => [((r.zipIdx).map fun p => p.1 * 2 ^ (16 * p.2)).sum]

/-- `.mcgroup` (R78, R91). -/
def AsmState.groupBody (st : AsmState) (r : AsmRecord) : Asm AsmBody :=
  match r.args with
  | [l] => do
    let ids ← (← listOf l).mapM (st.number r.file 0 0x3FFF)
    rejectIf .directive (decide (ids.length < 2) || decide (64 < ids.length))
    let g ← st.keyed r "id" 0 4095 0xFFFF
    return ⟨6, ints ((g + ids.length * 2 ^ 16) :: packIds ids)⟩
  | _ => .error .directive

/-- `.handler`'s record: its class and its header (R73, R89). -/
def AsmState.handlerBody (st : AsmState) (r : AsmRecord) : Asm AsmBody :=
  match r.args with
  | [n, c] => do
    let cls ← st.number r.file 0 23 c
    return ⟨7, ints [cls] ++ [← st.entryOf r.file n [".handler"]]⟩
  | _ => .error .directive

/-- The bytes up to the next symbol of a section, or up to its end. -/
def AsmState.extent (st : AsmState) (y : AsmSymbol) : Nat :=
  match st.secs[y.sec]? with
  | none => y.size
  | some s =>
    let next := st.syms.foldl (fun (m : Int) z => if z.sec = y.sec ∧ z.kind ≠ 5 ∧ y.value < z.value ∧ z.value < m then z.value else m) s.size
    (next - y.value).toNat

/-- SIZE of a symbol (R85): 0 for constants. Log 67. -/
def AsmState.sizeOf (st : AsmState) (y : AsmSymbol) : Nat :=
  match y.kind with
  | 0 => if y.size ≠ 0 then y.size else st.extent y
  | 1 => ((st.blockOf y).map fun b => blockBytes b.stmts.length).getD 0
  | 5 =>
    match (st.recs[y.value.toNat]?).map fun r => r.dir with
    | some ".stage" => 128
    | some ".mcgroup" => 0
    | _ => 64
  | _ => y.size

/-- The end of the last `text` or `pdata` section in the layout of R94. -/
def AsmState.codeEnd (st : AsmState) : Nat :=
  st.secs.foldl (fun cur s => if s.kind = 0 ∨ s.kind = 2 then roundUp cur s.align + s.size else cur) 0

/-- KSH and KBITS of a mask whose set bits form one run of 1 to 44 bits (R424). -/
def maskRun (m : Nat) : Option (Nat × Nat) :=
  ((List.range 64).flatMap fun sh => (List.range 44).map fun k => (sh, k + 1)).find? fun p => (2 ^ p.2 - 1) * 2 ^ p.1 == m

/-- The state symbol of a stage: of a shared region, or in an `sdata` section. -/
def AsmState.sharedSymbol (st : AsmState) (f : Nat) (t : Text) (regions : Bool) : Asm (Nat × AsmSymbol) := do
  let (i, y) ← st.find f (Text.str t)
  let ok := if y.kind = 2 then regions && ((st.regions[y.value.toNat]?).map fun r => r.shared) == some true
    else y.kind != 5 && y.kind != 3 && ((st.secs[y.sec]?).map fun s => s.kind) == some 3
  rejectIf .directive (!ok)
  return (i, y)

/-- `ranges=((key, core), …)`: strictly ascending keys from 0 (R424). -/
def AsmState.rangesOf (st : AsmState) (r : AsmRecord) : Asm (List (Nat × Nat)) :=
  match r.keys.lookup "ranges" with
  | none => .ok [(0, 0x3FFF)]
  | some t => do
    let rs ← (← listOf t).mapM fun p => do
      match ← listOf p with
      | [k, c] => return (← st.number r.file 0 (2 ^ 44 - 1 : Nat) k, ← st.number r.file 0 0x3FFE c)
      | _ => .error .directive
    let keys := rs.map Prod.fst
    rejectIf .directive (decide (8 < rs.length) || keys.head? != some 0 || (keys.zip keys.tail).any fun p => decide (p.2 ≤ p.1))
    return rs

/-- `.stage` (R424, R358, R359). An entry without `ranges=` holds CORE 0x3FFF, the loader's choice (log 18). -/
def AsmState.stageBody (st : AsmState) (r : AsmRecord) : Asm AsmBody :=
  match r.args with
  | [q, s, body, split, merge, kp, km] => do
    let keypos ← st.number r.file 1 7 kp
    let (ksh, kbits) ← orReject .directive (maskRun (← st.number r.file 1 (2 ^ 64 - 1 : Nat) km))
    let (qi, qr) ← st.recordOf r.file q ".queue"
    let (_, size, shared) ← st.queueShape qr
    rejectIf .directive (!shared || decide (size ≤ keypos))
    let twins ← st.keyed r "twins" 1 8 1
    let rs ← st.rangesOf r
    rejectIf .directive (decide (twins < rs.length))
    let (si, sy) ← st.sharedSymbol r.file s true
    let bytes := st.sizeOf sy
    let stsize := bytes / (8 * twins)
    rejectIf .directive (bytes % (8 * twins) != 0 || stsize == 0 || decide (65535 < stsize))
    let twq ← match r.keys.lookup "twq" with
      | none => do
        rejectIf .directive (decide (1 < twins) || decide (1 < rs.length))
        pure (Val.int 0)
      | some t => do
        let (ti, ty) ← st.sharedSymbol r.file t false
        let z ← orReject .directive st.secs[ty.sec]?
        rejectIf .directive (ty.value % 64 != 0 || z.align % 64 != 0 || decide ((z.size : Int) < ty.value + 512))
        pure (Val.addr ti 0)
    let (depth, win) ← match r.keys.lookup "overload" with
      | none => .ok (0, 1)
      | some t => do
        match ← listOf t with
        | [d, c] =>
          let cycles ← st.number r.file 256 16776960 c
          rejectIf .directive (cycles % 256 != 0)
          pure (← st.number r.file 1 65535 d, cycles / 256)
        | _ => .error .directive
    let code ← match r.keys.lookup "codelen" with
      | some t => st.number r.file 0 16384 t
      | none => inRange 0 16384 ((roundUp st.codeEnd 8 / 8 : Nat) : Int) |>.map Int.toNat
    let w0 := keypos * 2 ^ 3 + ksh * 2 ^ 6 + kbits * 2 ^ 12 + twins * 2 ^ 18 + rs.length * 2 ^ 22
    let w4 := stsize + code * 2 ^ 16 + depth * 2 ^ 32 + win * 2 ^ 48
    let entries := rs.zipIdx.map fun p => p.1.2 + p.2 * 2 ^ 14 + 2 ^ 19 + p.1.1 * 2 ^ 20
    return ⟨4, ints [w0] ++ [.addr qi 0, twq, .addr si 0] ++ ints [w4] ++
      [← st.entryOf r.file body entryDirs, ← st.entryOf r.file split entryDirs, ← st.entryOf r.file merge entryDirs] ++
      ints (padList 0 8 entries)⟩
  | _ => .error .directive

def AsmState.recordBody (st : AsmState) (n : Nat) (r : AsmRecord) : Asm AsmBody :=
  match r.dir with
  | ".launch" => st.launchBody r
  | ".tcb" => st.tcbBody r
  | ".queue" => st.queueBody r
  | ".grid" => do
    let p ← orReject .directive (findIdx (fun (y : AsmSymbol) => y.kind == 5 && y.value == (n : Int)) st.syms 0)
    st.gridBody p.1 r
  | ".mcgroup" => st.groupBody r
  | ".handler" => st.handlerBody r
  | _ => st.stageBody r

/-- The bytes of a record (R89): its head, then its body, with the relocations of its addresses. -/
def AsmBody.piece (b : AsmBody) (pos : Nat) : Asm Piece := do
  let ws ← b.words.zipIdx.mapM fun p => do
    let (bs, x) ← integerBytes 8 p.1
    pure (bs, (x.map fun x => AsmReloc.mk 0xFFFF (pos + 8 + 8 * p.2) x).toList)
  return (leBytes 2 b.type ++ leBytes 2 (8 + 8 * b.words.length) ++ leBytes 4 0 ++ (ws.map Prod.fst).flatten,
    (ws.map Prod.snd).flatten)

/-- The launch table, its relocations, and where each record begins. -/
def layRecords : List AsmBody → Nat → Asm (Piece × List Nat)
  | [], _ => .ok (([], []), [])
  | b :: bs, pos => do
    let p ← b.piece pos
    let (q, ps) ← layRecords bs (pos + p.1.length)
    return ((p.1 ++ q.1, p.2 ++ q.2), pos :: ps)

/-! ## The file (R82–R92) -/

/-- A string's bytes and a zero byte (R84). -/
def stringBytes (s : String) : List Byte := s.toList.map (fun c => BitVec.ofNat 8 c.toNat) ++ [0]

/-- The string table of names after the empty string, and the offset of each. -/
def stringTable (names : List String) : List Byte × List Nat :=
  names.foldl (fun (acc : List Byte × List Nat) s => (acc.1 ++ stringBytes s, acc.2 ++ [acc.1.length])) ([0], [])

def padTo (bs : List Byte) : List Byte := List.replicate (roundUp bs.length 8 - bs.length) 0

def sectionEntry (s : AsmSection) (name off : Nat) : List Byte :=
  leBytes 4 name ++ leBytes 1 s.kind ++ leBytes 1 (ilog2 s.align) ++ leBytes 2 0 ++ leBytes 8 off ++ leBytes 8 s.size ++ leBytes 8 s.va

/-- A symbol entry (R85). A record's VALUE is its offset in the launch table. DESIGN CHOICE (log 67): a constant's VALUE is
written modulo 2^64. -/
def AsmState.symbolEntry (st : AsmState) (poss : List Nat) (y : AsmSymbol) (name : Nat) : List Byte :=
  let v := if y.kind = 5 then ((poss.getD y.value.toNat 0 : Nat) : Int) else y.value
  leBytes 4 name ++ leBytes 2 y.sec ++ leBytes 1 y.kind ++ leBytes 1 (if st.globals.contains (y.file, y.name) then 1 else 0) ++
    leBytes 8 (fieldBits 64 v) ++ leBytes 8 (st.sizeOf y)

def relocEntry (r : AsmReloc) : List Byte :=
  leBytes 8 r.loc ++ leBytes 2 r.sec ++ leBytes 1 r.fix.type ++ leBytes 1 0 ++ leBytes 4 r.fix.sym ++ leBytes 8 (fieldBits 64 r.fix.add)

def blockEntry (b : AsmBlock) : List Byte := leBytes 8 b.off ++ leBytes 2 b.sec ++ leBytes 6 0

def regionEntry (r : AsmRegion) (name : Nat) : List Byte :=
  leBytes 4 name ++ leBytes 1 (if r.shared then 1 else 0) ++ leBytes 1 (ilog2 r.align) ++
    leBytes 2 ((if r.full then 1 else 0) + (if r.rows = 0 then 0 else 2)) ++ leBytes 8 r.size ++ leBytes 4 r.rows ++ leBytes 12 0

/-- A table: its bytes, entry count and entry size (R83). -/
abbrev Table := List Byte × Nat × Nat

/-- Tables laid one after another from an offset, each at a multiple of 8; their bytes and descriptors. -/
def layTables : List Table → Nat → List Byte × List Byte
  | [], _ => ([], [])
  | t :: ts, o =>
    let bs := t.1 ++ padTo t.1
    let r := layTables ts (o + bs.length)
    (bs ++ r.1, leBytes 8 o ++ leBytes 4 t.2.1 ++ leBytes 4 t.2.2 ++ r.2)

def tablesSize (ts : List Table) : Nat := (ts.map fun t => (t.1 ++ padTo t.1).length).sum

/-- Where each section's contents begin, from an offset; and where they end. -/
def placeContents : List (List Byte) → Nat → List Nat × Nat
  | [], o => ([], o)
  | c :: cs, o => let r := placeContents cs (o + (c ++ padTo c).length); (o :: r.1, r.2)

/-- The blocks of each section in ascending offset, section by section (R87). -/
def AsmState.blockList (st : AsmState) : List AsmBlock :=
  (st.secs.zipIdx.map fun p => st.blocks.filter fun b => b.sec == p.2).flatten

/-- The file before its signature section: R82's parts, in order. FLAGS.SYS is 0 (log 67). -/
def AsmState.object (st : AsmState) : Asm (List Byte) := do
  st.checkLinks
  rejectIf .place (st.secs.any AsmSection.gap)
  let contents ← st.secs.zipIdx.mapM fun p => st.sectionPiece p.2 p.1
  let bodies ← st.recs.zipIdx.mapM fun p => st.recordBody p.2 p.1
  let _ ← st.vecs.mapM fun v => st.recordOf v.1 v.2.1.toList ".grid"
  let (launch, poss) ← layRecords bodies 0
  let relocs := (contents.map Prod.snd).flatten ++ launch.2
  let names := st.secs.map AsmSection.name ++ st.syms.map AsmSymbol.name ++ st.regions.map AsmRegion.name
  let (strings, offs) := stringTable names
  let nSec := st.secs.length
  let nSym := st.syms.length
  let rest : List Table := [
    (strings, strings.length, 1),
    ((st.syms.zipIdx.map fun p => st.symbolEntry poss p.1 (offs.getD (nSec + p.2) 0)).flatten, nSym, 24),
    ((relocs.map relocEntry).flatten, relocs.length, 24),
    ((st.blockList.map blockEntry).flatten, st.blocks.length, 16),
    ((st.regions.zipIdx.map fun p => regionEntry p.1 (offs.getD (nSec + nSym + p.2) 0)).flatten, st.regions.length, 32),
    (launch.1, launch.1.length / 8, 8)]
  let base := 144 + 32 * nSec + tablesSize rest
  let (places, stop) := placeContents (contents.map Prod.fst) base
  let secs : Table := ((st.secs.zipIdx.map fun p => sectionEntry p.1 (offs.getD p.2 0) (places.getD p.2 0)).flatten, nSec, 32)
  let (tables, descs) := layTables (secs :: rest) 144
  let exec := if st.recs.any fun r => r.dir == ".launch" then 1 else 0
  let header := leBytes 4 0x4C475744 ++ leBytes 4 0x0001_0000 ++ leBytes 4 exec ++ leBytes 4 st.ymax ++ descs ++
    leBytes 8 stop ++ leBytes 4 1 ++ leBytes 4 128
  return header ++ tables ++ (contents.map fun c => c.1 ++ padTo c.1).flatten

/-- The signature section of a file (R92): the identity of the signer's public key, the Ed25519 signature that its private key
makes of the SHA-512 digest of the file, and 32 zero bytes. -/
def signatureOf (signer file : List Byte) : List Byte :=
  keyIdOf (edPublic signer) ++ edSign signer (sha512 file) ++ leBytes 32 0

/-- `urzas` (R80): one signed DOF file from source files assembled together, or a rejection and no file. `lib` holds the files that
`.include` reads, and `signer` is an Ed25519 private key of 32 bytes. -/
def assemble (signer : List Byte) (lib : List (String × Text)) (sources : List Text) : Asm (List Byte) := do
  let st ← readSources lib AsmState.start sources
  let file ← st.object
  return file ++ signatureOf signer file

end Sys2Proof.Machine
end

