-- ==== Sys2Proof/Tests/Slice0.lean ====
section
/-! SUPPORT. Tests: words written out from the spec's encodings, ill-formed terms that are refused, single steps with
values that the spec works, and for the hypotheses of every statement a concrete state and operands that meet them. -/

set_option maxRecDepth 100000
set_option Elab.async false

namespace Sys2Proof.Tests

open Sys2Proof Sys2Proof.Machine

/-! ## Decoding: for every word instruction one word, put together by hand from the tables of R48–R63 -/

theorem test_decode_integer :
    decodeWord 0x00092281 = .add (.q 2) (.h 2) (.h 5) true ∧
    decodeWord 0x01821800 = .sub .z (.port .n) .push false ∧
    decodeWord 0x02547481 = .and (.h 5) (.q 7) (.h 9) true ∧
    decodeWord 0x037E4880 = .or (.h 15) (.port .w) (.port .n) false ∧
    decodeWord 0x04422700 = .xor (.h 0) (.port .e) (.h 14) false ∧
    decodeWord 0x053E3A00 = .andn (.q 15) (.port .s) (.port .w) false ∧
    decodeWord 0x06642081 = .sll (.h 9) (.q 2) (.h 1) true ∧
    decodeWord 0x074A0900 = .srl (.h 2) .z (.port .e) false ∧
    decodeWord 0x08855580 = .sra (.port .n) (.h 5) (.h 11) false ∧
    decodeWord 0x091DF980 = .rol (.q 7) (.h 15) (.port .s) false ∧
    decodeWord 0x0A910280 = .min (.port .w) (.h 0) (.h 5) false ∧
    decodeWord 0x0B88F801 = .max (.port .e) (.q 15) .push true ∧
    decodeWord 0x0C8D9481 = .minu (.port .s) (.h 9) (.h 9) true ∧
    decodeWord 0x0D092880 = .maxu (.q 2) (.h 2) (.port .n) false ∧
    decodeWord 0x0E821700 = .slt .z (.port .n) (.h 14) false ∧
    decodeWord 0x0F547A00 = .sltu (.h 5) (.q 7) (.port .w) false := by
  and_intros <;> rfl

theorem test_decode_multiply_immediate :
    decodeWord 0x107E4081 = .mul (.h 15) (.port .w) (.h 1) true ∧
    decodeWord 0x11422900 = .mulh (.h 0) (.port .e) (.port .e) false ∧
    decodeWord 0x123E3580 = .mulhu (.q 15) (.port .s) (.h 11) false ∧
    decodeWord 0x13642980 = .div (.h 9) (.q 2) (.port .s) false ∧
    decodeWord 0x144A0280 = .divu (.h 2) .z (.h 5) false ∧
    decodeWord 0x15855801 = .rem (.port .n) (.h 5) .push true ∧
    decodeWord 0x161DF480 = .remu (.q 7) (.h 15) (.h 9) false ∧
    decodeWord 0x17900884 = .bitc (.port .w) (.port .n) 2 false ∧
    decodeWord 0x1841D1D1 = .addi (.h 0) (.h 14) 4561 ∧
    decodeWord 0x198A9B79 = .andi (.port .e) (.port .w) 7033 ∧
    decodeWord 0x1A3C2443 = .ori (.q 15) (.h 1) 1091 ∧
    decodeWord 0x1B8E4945 = .xori (.port .s) (.port .e) 2373 ∧
    decodeWord 0x1C65601B = .slli (.h 9) (.h 11) 27 ∧
    decodeWord 0x1D0A600A = .srli (.q 2) (.port .s) 10 ∧
    decodeWord 0x1E48A023 = .srai (.h 2) (.h 5) 35 ∧
    decodeWord 0x1F8203C5 = .slti .z .push 965 := by
  and_intros <;> rfl

theorem test_decode_constants_fields :
    decodeWord 0x204C913C = .ldk (.h 9) 299324 ∧
    decodeWord 0x218629E0 = .ldkx (.port .n) (.port .n) 2528 ∧
    decodeWord 0x22540748 = .extf (.h 5) (.h 14) 36 false ∧
    decodeWord 0x231DFA0E = .ins (.q 7) (.h 15) (.port .w) 7 ∧
    decodeWord 0x249100CC = .bfx (.port .w) (.h 0) (.h 1) 38 false ∧
    decodeWord 0x2588F946 = .sel (.port .e) (.q 15) (.port .e) (.port .s) ∧
    decodeWord 0x26640581 = .keep (.h 9) (.h 11) true ∧
    decodeWord 0x27092980 = .seq (.q 2) (.h 2) (.port .s) false ∧
    decodeWord 0x28821280 = .sne .z (.port .n) (.h 5) false ∧
    decodeWord 0x2954783E = .addc (.h 5) (.q 7) .push (.h 15) false ∧
    decodeWord 0x2A9104C4 = .subc (.port .w) (.h 0) (.h 9) (.port .e) false ∧
    decodeWord 0x2B3E38B3 = .clamp (.q 15) (.port .s) (.port .n) (.h 9) true := by
  and_intros <;> rfl

theorem test_decode_control :
    decodeWord 0x30092D11 = .br (.q 2) (.h 2) 6 273 ∧
    decodeWord 0x316D76B1 = .jmp 7173809 ∧
    decodeWord 0x32C6F878 = .call 13039736 ∧
    decodeWord 0x33800000 = .jr .z ∧
    decodeWord 0x34840000 = .callr (.port .n) ∧
    decodeWord 0x355400A1 = .loop (.h 5) 161 ∧
    decodeWord 0x3677412C = .loopi 1908 300 ∧
    decodeWord 0x37EC66A8 = .brk 15492776 := by
  and_intros <;> rfl

theorem test_decode_packed :
    decodeWord 0x401DF74A = .fadd (.q 7) (.h 15) (.h 14) 4 2 true ∧
    decodeWord 0x41910A24 = .fsub (.port .w) (.h 0) (.port .w) 2 1 false ∧
    decodeWord 0x4288F09E = .fmul (.port .e) (.q 15) (.h 1) 1 3 true ∧
    decodeWord 0x438D995A = .fma (.port .s) (.h 9) (.port .e) 5 2 true ∧
    decodeWord 0x440925EA = .fdiv (.q 2) (.h 2) (.h 11) 6 2 true ∧
    decodeWord 0x458009D4 = .fsqrt .z (.port .s) 5 1 false ∧
    decodeWord 0x468552D0 = .fmin (.port .n) (.h 5) (.h 5) 5 ∧
    decodeWord 0x471DF840 = .fmax (.q 7) (.h 15) .push 4 ∧
    decodeWord 0x489104A8 = .fsgn (.port .w) (.h 0) (.h 9) 2 2 ∧
    decodeWord 0x4988F8AA = .fhsum (.port .e) (.q 15) (.port .n) 2 2 true ∧
    decodeWord 0x4A8D970B = .pdot (.port .s) (.h 9) (.h 14) 1 false 3 ∧
    decodeWord 0x4B092A5A = .fscl (.q 2) (.h 2) (.port .w) 5 2 true ∧
    decodeWord 0x4C8000EA = .frcp .z (.h 1) 6 2 true ∧
    decodeWord 0x4D840958 = .frsq (.port .n) (.port .e) 5 2 false ∧
    decodeWord 0x4E5405F6 = .fexp2 (.h 5) (.h 11) 7 1 true ∧
    decodeWord 0x4F1C09CC = .fround (.q 7) (.port .s) 4 3 := by
  and_intros <;> rfl

theorem test_decode_convert :
    decodeWord 0x507E42E2 = .fcmp (.h 15) (.port .w) (.h 5) 6 1 ∧
    decodeWord 0x51400810 = .fclass (.h 0) .push 1 ∧
    decodeWord 0x528B64BF = .cvt (.port .e) 6 6 (.h 9) 3 3 true true ∧
    decodeWord 0x533C18E8 = .cvti (.q 15) true (.port .n) 6 2 ∧
    decodeWord 0x548C0748 = .cvtf (.port .s) false (.h 14) 4 2 ∧
    decodeWord 0x55643A00 = .cvtx (.h 9) false 3 (.port .w) ∧
    decodeWord 0x560920C0 = .pperm (.q 2) (.h 2) (.h 1) .z ∧
    decodeWord 0x57855918 = .ppack (.port .n) (.h 5) (.port .e) 1 2 false false ∧
    decodeWord 0x581C05F2 = .punpk (.q 7) (.h 11) 7 true false ∧
    decodeWord 0x597E4980 = .wsadd (.h 15) (.port .w) (.port .s) ∧
    decodeWord 0x5A422283 = .wsscl (.h 0) (.port .e) (.h 5) 3 ∧
    decodeWord 0x5B3E382B = .wsrnd (.q 15) (.port .s) .push 2 2 true true ∧
    decodeWord 0x5C64248C = .pint (.h 9) (.q 2) (.h 9) false false true 4 ∧
    decodeWord 0x5D4A0885 = .pdoti (.h 2) .z (.port .n) true false true := by
  and_intros <;> rfl

theorem test_decode_memory :
    decodeWord 0x6084EEB5 = .ld (.port .n) (.h 14) 3 2 181 ∧
    decodeWord 0x61547AAF = .st (.h 5) (.q 7) 2 2 175 ∧
    decodeWord 0x627D4EF6 = .ldp (.h 15) (.port .w) 2 246 ∧
    decodeWord 0x63910D27 = .stp (.port .w) (.h 0) 1 39 ∧
    decodeWord 0x64881C16 = .tagr (.port .e) (.h 1) 22 ∧
    decodeWord 0x653E3C2E = .tagw (.q 15) (.port .s) 46 ∧
    decodeWord 0x6664043C = .touch (.h 9) 1 60 ∧
    decodeWord 0x67092D04 = .ldm (.q 2) (.port .e) 3 1 4 ∧
    decodeWord 0x684A0B2F = .stm (.h 2) .z 2 3 47 := by
  and_intros <;> rfl

theorem test_decode_atomics_waits :
    decodeWord 0x7085502C = .amo (.port .n) (.h 5) 5 true false false ∧
    decodeWord 0x711DF5BE = .amor (.q 7) (.h 15) (.h 11) 7 true true false ∧
    decodeWord 0x72910063 = .amod (.port .w) (.h 0) 12 false true true ∧
    decodeWord 0x7388F996 = .cas (.port .e) (.q 15) (.port .s) true true true false ∧
    decodeWord 0x748D9004 = .putsig (.port .s) (.h 9) (.q 2) ∧
    decodeWord 0x754A0042 = .putsig2 (.h 2) .z (.port .n) ∧
    decodeWord 0x76547000 = .arm (.h 5) (.q 7) ∧
    decodeWord 0x777E42BE = .waitg (.h 15) (.port .w) (.h 5) 62 ∧
    decodeWord 0x78422852 = .waitm (.h 0) (.port .e) .push 82 ∧
    decodeWord 0x79684345 = .waitc 26 4 13 5 ∧
    decodeWord 0x7A3E34FF = .waitt (.q 15) (.port .s) (.h 9) 127 ∧
    decodeWord 0x7B64001B = .bar (.h 9) 27 ∧
    decodeWord 0x7C080039 = .barg (.q 2) 57 ∧
    decodeWord 0x7D4A0000 = .sig (.h 2) .z := by
  and_intros <;> rfl

theorem test_decode_queues :
    decodeWord 0x80840895 = .qres (.port .n) (.port .n) 21 ∧
    decodeWord 0x81540000 = .qpub (.h 5) ∧
    decodeWord 0x821C070F = .qpop (.q 7) (.h 14) 15 ∧
    decodeWord 0x837C0000 = .qrel (.h 15) ∧
    decodeWord 0x84910A2C = .qpush (.port .w) (.h 0) (.port .w) 44 ∧
    decodeWord 0x85880080 = .qinfo (.port .e) (.h 1) ∧
    decodeWord 0x863C0000 = .qclose (.q 15) := by
  and_intros <;> rfl

theorem test_decode_matrix :
    decodeWord 0x908D9901 = .tmm (.port .s) (.h 9) (.port .e) false 1 ∧
    decodeWord 0x91002581 = .tzero (.q 2) (.h 11) 1 ∧
    decodeWord 0x924A0983 = .tst (.h 2) .z (.port .s) 3 ∧
    decodeWord 0x93855281 = .tred (.port .n) (.h 5) (.h 5) 1 ∧
    decodeWord 0x941DF803 = .tws (.q 7) (.h 15) .push 3 ∧
    decodeWord 0x95910481 = .twsl (.port .w) (.h 0) (.h 9) 1 ∧
    decodeWord 0x9688F000 = .tcfg (.port .e) (.q 15) ∧
    decodeWord 0x978C0880 = .tcmd (.port .s) (.port .n) ∧
    decodeWord 0x98642702 = .tld (.h 9) (.q 2) (.h 14) 2 ∧
    decodeWord 0x994A0A03 = .tacc (.h 2) .z (.port .w) 3 := by
  and_intros <;> rfl

theorem test_decode_engine :
    decodeWord 0xA0855080 = .ecmd (.port .n) (.h 5) (.h 1) ∧
    decodeWord 0xA11C0900 = .chain (.q 7) (.port .e) ∧
    decodeWord 0xA27E4580 = .cstat (.h 15) (.port .w) (.h 11) ∧
    decodeWord 0xA3000980 = .ccan (.port .s) := by
  and_intros <;> rfl

theorem test_decode_messages :
    decodeWord 0xB0422000 = .send (.h 0) (.port .e) ∧
    decodeWord 0xB13E3000 = .sendb (.q 15) (.port .s) ∧
    decodeWord 0xB2642000 = .sendi (.h 9) (.q 2) ∧
    decodeWord 0xB3480280 = .cmask (.h 2) (.h 5) ∧
    decodeWord 0xB4800800 = .cunm .z .push ∧
    decodeWord 0xB5000000 = .hret ∧
    decodeWord 0xB6840480 = .rdin (.port .n) (.h 9) ∧
    decodeWord 0xB7547000 = .redn (.h 5) (.q 7) ∧
    decodeWord 0xB87E4884 = .sendw (.h 15) (.port .w) (.port .n) 4 := by
  and_intros <;> rfl

theorem test_decode_tasks :
    decodeWord 0xC0422000 = .spawn (.h 0) (.port .e) ∧
    decodeWord 0xC1000700 = .take (.h 14) ∧
    decodeWord 0xC2000000 = .done ∧
    decodeWord 0xC3000241 = .yield 577 ∧
    decodeWord 0xC43C0A00 = .launch (.q 15) (.port .w) ∧
    decodeWord 0xC58C0080 = .tready (.port .s) (.h 1) ∧
    decodeWord 0xC6642900 = .stagePut (.h 9) (.q 2) (.port .e) ∧
    decodeWord 0xC64A0581 = .stageTwin (.h 2) .z (.h 11) ∧
    decodeWord 0xC6855982 = .stageMerge (.port .n) (.h 5) (.port .s) ∧
    decodeWord 0xC61C0283 = .stageInfo (.q 7) (.h 5) ∧
    decodeWord 0xC67C0004 = .stageClose (.h 15) ∧
    decodeWord 0xC7000807 = .gid .push 7 ∧
    decodeWord 0xC890049B = .qdie (.port .w) (.h 9) 27 ∧
    decodeWord 0xC9000880 = .tcbq (.port .n) := by
  and_intros <;> rfl

theorem test_decode_system :
    decodeWord 0xD001C9D4 = .getc (.h 14) 2516 ∧
    decodeWord 0xD1400606 = .setc (.h 0) 1542 ∧
    decodeWord 0xD28A8261 = .swpc (.port .e) (.port .w) 609 ∧
    decodeWord 0xD33C3F4A = .setcb (.q 15) (.h 1) true 3914 ∧
    decodeWord 0xD48C05A3 = .sys (.port .s) 1443 ∧
    decodeWord 0xD4640F01 = .resumeTeam (.h 9) ∧
    decodeWord 0xD5000001 = .tret true ∧
    decodeWord 0xD6080000 = .halt (.q 2) ∧
    decodeWord 0xD7000000 = .nop ∧
    decodeWord 0xD84A0000 = .xinv (.h 2) .z ∧
    decodeWord 0xD9840900 = .xprobe (.port .n) (.port .e) ∧
    decodeWord 0xDA540582 = .stamp (.h 5) (.h 11) 2 ∧
    decodeWord 0xDB000980 = .cyc (.port .s) false ∧
    decodeWord 0xDC0003B1 = .ebreak 945 ∧
    decodeWord 0xDD000000 = .rfill ∧
    decodeWord 0xDE000002 = .gate 2 := by
  and_intros <;> rfl

/-! ## Small states -/

/-- Core 0 runs, at S, from the first word of its private scratchpad; its registers and trellis are full of one address. -/
def w0 : State :=
  (State.reset.withFetchWord 32 0xD7000000).updMe fun k =>
    { k with ctx := { k.ctx with
        regs := Vector.replicate 16 ⟨privAlias 4096, .present, none⟩
        trellis := List.replicate 16 ⟨privAlias 4096, none⟩ } }

/-- A register set to a value. -/
def setH (n : Nat) (v : Word) (s : State) : State := s.updCtx fun c => c.setReg n ⟨v, .present, none⟩

/-- The conditions of `State.Ready`, as one test. -/
def readyB (s : State) (us : List Use) (d : DestSpec) : Bool :=
  (!us.any Use.bad && !d.bad) && (us.all (fun u => u.odd.isNone) && d.odd.isNone) &&
  us.all (fun u => (u.unread s.ctx).isNone) &&
  (filledRegs us d).all (fun n => (vget Reg.reset s.ctx.regs n).cond != .absent || (s.savedReg s.cur n).isSome) &&
  us.all (fun u => (u.pends s.ctx).all fun id => s.me.mine.all fun a => a.id != id || !a.failed?) &&
  us.all (fun u => (u.pends (s.readied us d).ctx).isEmpty) &&
  (portsOf us).all (fun p => (s.portPeer s.cur p).isSome && decide ((portsOf us).count p ≤ (s.me.fifo p).length)) &&
  match d.port? with
  | none => true
  | some (p, n) => match s.portPeer s.cur p with
    | some c => decide (((s.core c).fifo (oppositePort p)).length + n ≤ 8)
    | none => false

theorem ready_of {s : State} {us : List Use} {d : DestSpec} (h : readyB s us d = true) : s.Ready us d := by
  simp only [readyB, Bool.and_eq_true, List.all_eq_true, Bool.not_eq_true', Option.isNone_iff_eq_none, Bool.or_eq_true,
    bne_iff_ne, List.isEmpty_iff, decide_eq_true_eq] at h
  obtain ⟨⟨⟨⟨⟨⟨⟨⟨f1, f2⟩, e1, e2⟩, l⟩, sv⟩, so⟩, hd⟩, p⟩, r⟩ := h
  refine ⟨⟨f1, f2⟩, ⟨e1, e2⟩, l, fun n hn ha => (sv n hn).resolve_left fun h => h ha,
    fun u hu id hi a ha e => (so u hu id hi a ha).resolve_left fun h => h e, hd, p, ?_⟩
  intro q n hq
  simp only [hq] at r
  cases hc : s.portPeer s.cur q with
  | none => simp [hc] at r
  | some c => exact ⟨c, rfl, by simpa [hc] using r⟩


/-! ## Operands and results -/

/-- A port of core 5 with words, and core 5 the running core: it has four neighbours. -/
def w5 : State :=
  { w0 with cur := 5, cores := [(5, { (w0.core 0) with fifoN := [7, 8], fifoE := [7, 8], fifoS := [7, 8], fifoW := [7, 8] })] }

theorem witness_SourceOperandValues_trellis : w0.Ready [.one (.q 15)] (.one (.h 0)) ∧ w0.Ready [.pair (.q 14)] (.pair .push) :=
  ⟨ready_of (by decide), ready_of (by decide)⟩

theorem witness_SourceOperandValues_present :
    w0.Ready [.one (.h 15)] (.one .push) ∧ (w0.reg 15).cond = .present ∧ ¬w0.bankWasOff [.one (.h 15)] (.one .push) :=
  ⟨ready_of (by decide), by decide, by unfold State.bankWasOff; decide⟩

def wOff : State := w0.updCtx fun c => { c with gate := 2, bankLost := true }

theorem witness_SourceOperandValues_off :
    wOff.Ready [.one (.h 8)] (.one .push) ∧ (wOff.reg 8).cond = .present ∧ wOff.bankWasOff [.one (.h 8)] (.one .push) :=
  ⟨ready_of (by decide), by decide, by unfold State.bankWasOff; decide⟩

/-- A register whose value still lies in the save area (R131). -/
def wAbsent : State := w0.updCtx fun c => { c with regs := vset c.regs 3 ⟨0, .absent, none⟩ }

theorem witness_SourceOperandValues_absent : wAbsent.Ready [.one (.h 3)] (.one .push) ∧ (wAbsent.reg 3).cond = .absent :=
  ⟨ready_of (by decide), by decide⟩

theorem witness_SourceOperandValues_zero : w0.Ready [.one .z] (.one (.h 15)) ∧ w0.Ready [.pair .z] (.pair (.h 14)) :=
  ⟨ready_of (by decide), ready_of (by decide)⟩

theorem witness_SourceOperandValues_port :
    w5.Ready [.one (.port .n)] (.one (.port .w)) ∧ w5.Ready [.one (.port .e), .one (.port .e)] (.one .push) :=
  ⟨ready_of (by decide), ready_of (by decide)⟩

theorem witness_ResultsAreDelivered :
    w5.mayRetire = true ∧ w5.Ready [.one (.h 1)] (.one (.h 15)) ∧ w5.Ready [.one (.h 1)] (.one .push) ∧
      w5.Ready [.one (.h 1)] (.one (.port .s)) ∧ w5.Ready [.one (.h 1)] (.pair (.h 14)) ∧ w5.Ready [.one (.h 1)] (.pair .push) ∧
      w5.Ready [.one (.h 1)] (.pair (.port .n)) ∧ w5.portPeer 5 .n = some 1 ∧ w5.me.inl = none :=
  ⟨by decide, ready_of (by decide), ready_of (by decide), ready_of (by decide), ready_of (by decide), ready_of (by decide),
    ready_of (by decide), by decide +kernel⟩

/-- Nothing on the trellis, and h15 dead. -/
def wBare : State := w0.updCtx fun c => { c with trellis := [], regs := vset c.regs 15 Reg.reset }

theorem witness_OperandChecksTrap_bad :
    oneResult (.add (.bad 37) .z .push false) = some ([.one (.bad 37), .one .z], .push) ∧
      [Use.one (.bad 37), .one .z].any Use.bad = true ∧ (w0.take (causeOf .badOperand 0 (wordOf 0))).2 = false :=
  ⟨rfl, by decide +kernel⟩

theorem witness_OperandChecksTrap_unread :
    oneResult (.add (.q 0) (.h 15) .push false) = some ([] ++ Use.one (.q 0) :: [.one (.h 15)], .push) ∧
      [Use.one (.q 0), .one (.h 15)].any Use.bad = false ∧ (DestSpec.one .push).bad = false ∧
      wBare.ctx.trellis.length ≤ 0 ∧ (wBare.take (causeOf .trellisUnderflow 0 (wordOf 0))).2 = false ∧
      oneResult (.add .z (.h 15) .push false) = some ([Use.one .z] ++ Use.one (.h 15) :: [], .push) ∧
      (∀ v ∈ [Use.one .z], v.unread wBare.ctx = none) ∧ (wBare.reg 15).cond = .dead ∧
      (wBare.take (causeOf .deadRead 0 (wordOf 15))).2 = false :=
  ⟨rfl, by decide, by decide, by decide, by decide, rfl, by decide +kernel⟩

theorem witness_OperandChecksTrap_pair :
    (15 : Fin 16).val % 2 = 1 ∧ (DestSpec.pair (.h 0)).bad = false ∧ (w0.take (causeOf .pairAlign 0 (wordOf 15))).2 = false ∧
      (Use.pair (.h 0)).bad = false ∧ (Use.pair (.h 0)).odd = none := by decide

theorem witness_RegisterInstructionsFrame :
    ∃ t, oneResult (.add (.h 1) (.q 0) (.h 8) false) = some ([.one (.h 1), .one (.q 0)], .h 8) ∧
      w0.Ready [.one (.h 1), .one (.q 0)] (.one (.h 8)) ∧ w0.mayRetire = true ∧
      exec (.add (.h 1) (.q 0) (.h 8) false) w0 = .next t :=
  ⟨_, rfl, ready_of (by decide), by decide, rfl⟩

/-! ## Integer instructions -/

theorem witness_IntegerOperationResults :
    w0.Ready [.one (.h 1), .one (.q 0)] (.one (.h 8)) ∧ w0.mayRetire = true ∧ w0.second [.one (.h 1), .one (.q 0)] (.one (.h 8)) ≠ 0 ∧
      w0.Ready [.one (.h 1), .one .z] (.one .push) ∧ w0.second [.one (.h 1), .one .z] (.one .push) = 0 ∧
      (w0.take (causeOf .intDivzero 0 0)).2 = false :=
  ⟨ready_of (by decide), by decide, by decide, ready_of (by decide), by decide +kernel⟩

theorem witness_ImmediateFieldAndBitResults :
    w0.mayRetire = true ∧ w0.Ready [.one (.h 1)] (.one .push) ∧ w0.Ready [] (.one .push) ∧
      w0.Ready [.one (.h 1), .one (.q 3)] (.one (.h 2)) ∧ w0.Ready [.one (.h 1), .one (.q 3), .one (baseOf (.h 2))] (.one (.h 2)) ∧
      (w0.take (causeOf .reservedField 0 0)).2 = false :=
  ⟨by decide, ready_of (by decide), ready_of (by decide), ready_of (by decide), ready_of (by decide), by decide⟩

theorem witness_SelectionAndCarryResults :
    w0.mayRetire = true ∧ w0.Ready [.one (.h 1), .one .z, .one (.q 0)] (.one .push) ∧ w0.Ready [.one (.h 1), .one .z] (.one .push) ∧
      w0.Ready [.one (.h 1)] (.one .push) ∧ w0.Ready [.pair (.h 2)] (.pair (.h 4)) ∧
      w0.Ready [.one (.h 1), .one .z, .one (.q 0)] (.pair .push) :=
  ⟨by decide, ready_of (by decide), ready_of (by decide), ready_of (by decide), ready_of (by decide), ready_of (by decide)⟩

/-! ## Control flow -/

/-- A header of LEN 1 (R41). -/
def hdrW (kind live carry : Nat) : Word := BitVec.ofNat 64 (0xF8 * 2 ^ 56 + 2 ^ 48 + live * 2 ^ 32 + carry * 2 ^ 29 + kind * 2 ^ 27)

/-- Headers of each kind in core 0's private scratchpad: ordinary, loop, entry, yield. -/
def wH : State :=
  ((((w0.write (privBase 0 + 0x100) 8 (hdrW 0 0xFFFF 4)).write (privBase 0 + 0x180) 8 (hdrW 1 0xFFFF 0)).write
    (privBase 0 + 0x200) 8 (hdrW 3 0xF 0)).write (privBase 0 + 0x280) 8 (hdrW 2 0 0)).write (privBase 0 + 0x288) 8 0xC3000001

/-- A word fetched is a `yield` instruction. -/
def isYield : Fetched (BitVec 32) → Bool
  | .ok w => decide (w.extractLsb' 24 8 = 0xC3#8)
  | .fault _ _ => false
  | .miss => false

/-- The conditions of `State.HeaderFor`, as one test. -/
def headerB (s : State) (sup : Bool) (a h : Word) : Bool :=
  decide (a.toNat % 8 = 0) && decide (s.fetch64 s.cur sup a = .ok h) && decide (fld h 58 6 = 0b111110) &&
  decide (fld h 48 10 ≠ 0) && decide (fld h 29 3 ≤ 4) && decide (fld h 24 3 = 0) &&
  decide (fld h 27 2 = 3 → fld h 29 3 = 0 ∧ fld h 36 12 = 0) &&
  (fld h 27 2 != 2 || (decide (fld h 29 3 = 0) && isYield (s.fetch32 s.cur sup (a + 8))))

theorem header_of {s : State} {sup : Bool} {a h : Word} (t : headerB s sup a h = true) : s.HeaderFor sup a h := by
  simp only [headerB, Bool.and_eq_true, Bool.or_eq_true, bne_iff_ne, decide_eq_true_eq] at t
  obtain ⟨⟨⟨⟨⟨⟨⟨al, fe⟩, ma⟩, le⟩, ca⟩, re⟩, st⟩, po⟩ := t
  refine ⟨al, fe, ma, le, ca, re, st, fun h2 => ?_⟩
  have ⟨z, y⟩ := po.resolve_left fun n => n h2
  refine ⟨z, ?_⟩
  cases hw : s.fetch32 s.cur sup (a + 8) with
  | ok w => rw [hw] at y; exact ⟨w, rfl, by simpa [isYield] using y⟩
  | fault c i => rw [hw] at y; exact absurd y (by simp [isYield])
  | miss => rw [hw] at y; exact absurd y (by simp [isYield])

/-- wH with the running block a loop body entered from the block at 0x100. -/
def wL : State := wH.updCtx fun c => { c with loops := [⟨c.hdr, 2, 4, privAlias 0x100, 1, .ordinary⟩] }

theorem witness_TransfersEnterBlocks :
    wH.mayRetire = true ∧ wH.HeaderAt (wH.target (0x20 : BitVec 24)) (hdrW 0 0xFFFF 4) ∧ wL.ctx.loops ≠ [] ∧
      wL.HeaderAt (wL.target (0x20 : BitVec 24)) (hdrW 0 0xFFFF 4) ∧ wH.Ready [.one (.h 1)] .none ∧
      ((setH 1 (privAlias 0x100) wH).took [.one (.h 1)] .none).HeaderAt
        ((setH 1 (privAlias 0x100) wH).first [.one (.h 1)] .none) (hdrW 0 0xFFFF 4) ∧
      wH.Ready [.one (.h 1), .one (.q 15)] .none ∧
      (wH.took [.one (.h 1), .one (.q 15)] .none).HeaderAt (wH.target (0x20 : BitVec 9)) (hdrW 0 0xFFFF 4) ∧
      wH.first [.one (.h 1), .one (.q 15)] .none = wH.second [.one (.h 1), .one (.q 15)] .none ∧
      wH.first [.one .z, .one (.q 15)] .none ≠ wH.second [.one .z, .one (.q 15)] .none ∧
      wH.ctx.pc + 4 = wH.ctx.blockEnd ∧ wH.Ready [] (.one (.h 15)) ∧ wH.Ready [.one (.h 1)] (.one (.h 15)) :=
  ⟨by decide, header_of (by decide), by decide, header_of (by decide), ready_of (by decide), header_of (by decide),
    ready_of (by decide), header_of (by decide), by decide, by decide, by decide, ready_of (by decide), ready_of (by decide)⟩

/-- wH at the first of two instructions. -/
def wLong : State := wH.updCtx fun c => { c with len := 2 }

def wBad (h : Word) : State := w0.write (privBase 0 + 0x100) 8 h

theorem witness_BadHeadersAndRefusedWordsTrap_headers :
    ((w0.updCtx fun c => { c with hdr := c.hdr + 4 }).target (0 : BitVec 24)).toNat % 8 ≠ 0 ∧
      (wBad 0).fetch64 0 true ((wBad 0).target (0x20 : BitVec 24)) = .ok 0 ∧ fld (0 : Word) 58 6 ≠ 0b111110 ∧
      (wBad (hdrW 0 0 5)).fetch64 0 true ((wBad (hdrW 0 0 5)).target (0x20 : BitVec 24)) = .ok (hdrW 0 0 5) ∧
      4 < fld (hdrW 0 0 5) 29 3 ∧
      (wBad (hdrW 3 0x10 0)).fetch64 0 true ((wBad (hdrW 3 0x10 0)).target (0x20 : BitVec 24)) = .ok (hdrW 3 0x10 0) ∧
      fld (hdrW 3 0x10 0) 27 2 = 3 ∧ fld (hdrW 3 0x10 0) 36 12 ≠ 0 ∧ fld (hdrW 3 0x10 0) 48 10 ≠ 0 ∧
      (wBad (hdrW 2 0 1)).fetch64 0 true ((wBad (hdrW 2 0 1)).target (0x20 : BitVec 24)) = .ok (hdrW 2 0 1) ∧
      fld (hdrW 2 0 1) 27 2 = 2 ∧ fld (hdrW 2 0 1) 29 3 ≠ 0 ∧ fld (hdrW 2 0 1) 48 10 ≠ 0 ∧
      (w0.take (causeOf .badTarget 0 0)).2 = false ∧ wLong.ctx.pc + 4 ≠ wLong.ctx.blockEnd ∧ wH.ctx.loops = [] := by decide +kernel

theorem witness_HardwareLoops :
    (0 : BitVec 12).toNat = 0 ∧ (5 : BitVec 12).toNat ≠ 0 ∧ wH.ctx.loops.length < 4 ∧ wH.mayRetire = true ∧
      wH.HeaderAt (wH.target (0x30 : BitVec 9)) (hdrW 1 0xFFFF 0) ∧ fld (hdrW 1 0xFFFF 0) 27 2 = 1 ∧
      wH.HeaderAt (wH.target (0x20 : BitVec 9)) (hdrW 0 0xFFFF 4) ∧ fld (hdrW 0 0xFFFF 4) 27 2 ≠ 1 ∧
      4 ≤ (wH.updCtx fun c => { c with loops := List.replicate 4 ⟨0, 1, 0, 0, 1, .ordinary⟩ }).ctx.loops.length ∧
      wH.Ready [.one (.h 1)] .none ∧ (wH.first [.one (.h 1)] .none).toNat % 2 ^ 32 ≠ 0 :=
  ⟨by decide, by decide, by decide, by decide, header_of (by decide), by decide, header_of (by decide), by decide, by decide,
    ready_of (by decide), by decide⟩

/-- wH at the end of its block, at 0x180, of a loop with a count. -/
def wEnd (rem : Nat) : State := wH.updCtx fun c =>
  { c with hdr := privAlias 0x180, pc := privAlias 0x18C, loops := [⟨privAlias 0x180, rem, 4, privAlias 0x100, 1, .ordinary⟩] }

theorem witness_BlockEnds :
    (∀ r, r ∈ [1, 2] → (wEnd r).ctx.pc = (wEnd r).ctx.blockEnd ∧ (wEnd r).ctx.len ≠ 0 ∧ (wEnd r).me.inl = none ∧
      (wEnd r).me.wait = none ∧ (wEnd r).me.trapping = none ∧ (wEnd r).me.act.isSome = true ∧
      ((wEnd r).ctx.loops.head?.map fun e => e.body) = some (wEnd r).ctx.hdr) ∧
      (wEnd 2).HeaderAt (privAlias 0x180) (hdrW 1 0xFFFF 0) :=
  ⟨by decide, header_of (by decide)⟩

/-- wH at the end of its block, at 0xF0, before the header at 0x100. -/
def wFall : State := wH.updCtx fun c => { c with hdr := privAlias 0xF0, pc := privAlias 0xFC }

theorem witness_BlockEnds_falls :
    wFall.ctx.pc = wFall.ctx.blockEnd ∧ wFall.ctx.loops = [] ∧
      wFall.HeaderAt (wFall.ctx.hdr + 8 + 4 * wordOf (wFall.ctx.len + wFall.ctx.len % 2)) (hdrW 0 0xFFFF 4) :=
  ⟨by decide, by decide, header_of (by decide)⟩

/-! ## Traps -/

/-- The conditions of `State.Enterable`, as one test. -/
def enterableB (s : State) (f : Nat) (sup : Bool) (tgt h : Word) : Bool :=
  Memory.wf s.mem && s.me.inl.isNone && decide (s.frameKey = some f) &&
  (List.range 16).all (fun n => (s.reg n).cond != .absent) &&
  (decide (s.ctx.pendings = []) && s.me.flight.all fun a => !a.failed?) &&
  (s.me.wait.isNone && s.parked.all fun p => p.core != s.cur && (List.range 64).all fun i => p.pa / 8 != frameWord f (8 * i) / 8) &&
  !s.frameBusy f && (List.range 64).all (fun i => s.tagAt (frameWord f (8 * i)) != tagArrival) &&
  (headerB s sup tgt h && decide (fld h 27 2 = 3)) && decide (s.translateHit s.cur sup (tgt + 8) .x ≠ .miss) &&
  [0, 4].all fun o => match s.fetchKey s.cur sup (tgt + o) with
    | .ok k => (List.range 64).all fun i => k / 8 != frameWord f (8 * i) / 8
    | _ => true

theorem enterable_of {s : State} {f : Nat} {sup : Bool} {tgt h : Word} (t : enterableB s f sup tgt h = true) :
    s.Enterable f sup tgt h := by
  simp only [enterableB, Bool.and_eq_true, List.all_eq_true, Bool.not_eq_true', Option.isNone_iff_eq_none, bne_iff_ne,
    decide_eq_true_eq, List.mem_range] at t
  obtain ⟨⟨⟨⟨⟨⟨⟨⟨⟨⟨ca, ou⟩, fr⟩, pr⟩, se⟩, qu⟩, dn⟩, st⟩, hd⟩, mp⟩, ap⟩ := t
  refine ⟨ca, ou, fr, pr, se, qu, dn, st, ⟨header_of hd.1, hd.2⟩, mp, fun o ho k hk => ?_⟩
  have h4 := ap o (by rcases ho with rfl | rfl <;> simp)
  rw [hk] at h4
  simpa using h4

/-- wH with a handler at 0x200, a frame at 0x400 and a service block at 0x200. -/
def wT : State :=
  (wH.updCtx fun c => { c with trap := { c.trap with tbase := privAlias 0x200 + 1, tframe := privAlias 0x400 } }).updMe fun k =>
    { k with sysvec := privAlias 0x200 + 1 }

theorem takes_wT : wT.TakesTraps (privBase 0 + 0x400) (hdrW 3 0xF 0) := ⟨by decide, by decide, enterable_of (by decide)⟩

theorem witness_TrapEntryIsMade :
    wT.TakesTraps (privBase 0 + 0x400) (hdrW 3 0xF 0) ∧ (causeOf .align 8 8).cause.direct = false ∧
      (wT.updMe fun k => { k with trapping := some (causeOf .align 8 8) }).TakesTraps (privBase 0 + 0x400) (hdrW 3 0xF 0) :=
  ⟨takes_wT, by decide, ⟨by decide, by decide, enterable_of (by decide)⟩⟩

theorem witness_BadHeadersAndRefusedWordsTrap_words :
    ((0x2C000000 : BitVec 32).extractLsb' 24 8).toNat ∈ unassignedOps ∧ wT.TakesTraps (privBase 0 + 0x400) (hdrW 3 0xF 0) ∧
      (w0.take (causeOf .illegalOpcode 0 0)).2 = false :=
  ⟨by decide, takes_wT, by decide⟩

/-- wT in its handler, with a frame that resumes the block at 0x100. -/
def wRet : State :=
  (((wT.updCtx fun c => { c with trap := { c.trap with intrap := true } }).write (privBase 0 + 0x400 + 0x100) 8
    (privAlias 0x108)).write (privBase 0 + 0x400 + 0x1C8) 8 (privAlias 0x100)).write (privBase 0 + 0x400 + 0x158) 8 1

theorem witness_TretReloadsTheFrame :
    wRet.ctx.trap.intrap = true ∧ wRet.frameKey = some (privBase 0 + 0x400) ∧ wRet.frameBusy (privBase 0 + 0x400) = false ∧
      wRet.mayRetire = true ∧ wRet.me.inl = none ∧ (∀ i, i < 64 → wRet.tagAt (frameWord (privBase 0 + 0x400) (8 * i)) ≠ tagPoison) ∧
      wRet.HeaderFor true (privAlias 0x100) (hdrW 0 0xFFFF 4) ∧ wRet.translateHit wRet.cur true (privAlias 0x108) .x ≠ .miss ∧
      (wRet.ctx.priv && bit (wRet.word (frameWord (privBase 0 + 0x400) 0x158)) 0) = true ∧
      wRet.word (frameWord (privBase 0 + 0x400) 0x1C8) = privAlias 0x100 ∧
      wRet.word (frameWord (privBase 0 + 0x400) 0x100) = privAlias 0x108 ∧
      (privAlias 0x108).toNat % 4 = 0 ∧ (privAlias 0x100).toNat + 8 ≤ (privAlias 0x108).toNat ∧
      (privAlias 0x108).toNat ≤ (privAlias 0x100).toNat + 8 + 4 * fld (hdrW 0 0xFFFF 4) 48 10 ∧
      wT.ctx.trap.intrap = false ∧ (wT.take (causeOf .privInstr 0 0)).2 = false :=
  ⟨by decide, by decide, by decide, by decide, by decide, by decide, header_of (by decide), by decide +kernel⟩

theorem witness_SysEntersTheService :
    wT.ctx.pc + 4 = wT.ctx.blockEnd ∧ (0xEFF : BitVec 12).toNat < 0xF00 ∧ wT.Ready [.one (.h 1)] .none ∧ wT.mayRetire = true ∧
      wT.ctx.trap.intrap = false ∧ bit wT.me.sysvec 0 = true ∧
      ((wT.took [.one (.h 1)] .none).counted fun n => n - 1).Enterable (privBase 0 + 0x400) true (hdrField wT.me.sysvec)
        (hdrW 3 0xF 0) ∧
      wLong.ctx.pc + 4 ≠ wLong.ctx.blockEnd ∧ (wLong.take (causeOf .callNotLast 0 0)).2 = false ∧
      (0xF00 ≤ (0xFFF : BitVec 12).toNat ∧ w0.ctx.priv = true ∧ (w0.take (causeOf .reservedField 0 0)).2 = false) ∧
      bit w0.me.sysvec 0 = false ∧ wRet.ctx.trap.intrap = true ∧ (w0.take (causeOf .privInstr 0 0)).2 = false :=
  ⟨by decide, by decide, ready_of (by decide), by decide, by decide, by decide, enterable_of (by decide), by decide +kernel⟩

/-! ## Memory instructions -/

/-- What an address translates to. -/
def xAt (s : State) (va : Word) (right : Right) : Xlated :=
  match s.translate s.cur s.ctx.priv va right with
  | .ok x => x
  | _ => ⟨0, .nowhere, false, false, 0, 0, 0, 0⟩

def acceptsB (s : State) (va : Word) (size : Nat) (right : Right) (x : Xlated) : Bool :=
  decide (va.toNat % size = 0) && s.me.inl.isNone && decide (s.translate s.cur s.ctx.priv va right = .ok x)

theorem accepts_of {s : State} {va : Word} {size : Nat} {right : Right} {x : Xlated} (t : acceptsB s va size right x = true) :
    s.accepts va size right x := by
  simp only [acceptsB, Bool.and_eq_true, Option.isNone_iff_eq_none, decide_eq_true_eq] at t
  obtain ⟨⟨al, ou⟩, tr⟩ := t
  exact ⟨al, by simp [ou], tr⟩

theorem takes_of {s : State} {pls : List Place}
    (t : decide (s.me.ringCount + (pls.filter fun p => !bypasses s.cur p).length ≤ 32) = true) : s.takes pls :=
  .inr (of_decide_eq_true t)

/-- The address that w0's registers hold. -/
def va0 : Word := privAlias 4096
def x0 (right : Right) : Xlated := xAt w0 va0 right

theorem witness_LoadsAreIssued_one :
    w0.mayRetire = true ∧ w0.uninjected ∧ w0.Ready [.one (.h 1)] (.one .push) ∧
      (w0.readied [.one (.h 1)] (.one .push)).accepts (offsetFrom (w0.first [.one (.h 1)] (.one .push)) 0 8) 8 .r (x0 .r) ∧
      (w0.readied [.one (.h 1)] (.one .push)).takes [(x0 .r).place] :=
  ⟨by decide +kernel, fun x h => by cases h; rfl, ready_of (by decide +kernel), accepts_of (by decide +kernel), takes_of (by decide +kernel)⟩

theorem witness_LoadsAreIssued_pair :
    w0.Ready [.one (.h 1)] (.pair (.h 14)) ∧
      (w0.readied [.one (.h 1)] (.pair (.h 14))).accepts (offsetFrom (w0.first [.one (.h 1)] (.pair (.h 14))) 0 8) 16 .r (x0 .r) ∧
      (w0.readied [.one (.h 1)] (.pair (.h 14))).accepts (offsetFrom (w0.first [.one (.h 1)] (.pair (.h 14))) 0 8 + 8) 8 .r
        (xAt w0 (va0 + 8) .r) ∧
      (w0.readied [.one (.h 1)] (.pair (.h 14))).takes [(x0 .r).place, (xAt w0 (va0 + 8) .r).place] :=
  ⟨ready_of (by decide +kernel), accepts_of (by decide +kernel), accepts_of (by decide +kernel), takes_of (by decide +kernel)⟩

theorem witness_LoadsAreIssued_run :
    w0.Ready [.one (.h 1)] (.run (.h 15) ((0 : BitVec 2).toNat + 1)) ∧ [x0 .r].length = (0 : BitVec 2).toNat + 1 ∧
      (w0.readied [.one (.h 1)] (.run (.h 15) 1)).accepts
        (offsetFrom (w0.first [.one (.h 1)] (.run (.h 15) 1)) 0 8 + wordOf (8 * 0)) 8 .r (x0 .r) ∧
      w0.Ready [.one (.h 1)] .none ∧
      (w0.readied [.one (.h 1)] .none).accepts (offsetFrom (w0.first [.one (.h 1)] .none) 0 1) 1 .r (x0 .r) :=
  ⟨ready_of (by decide +kernel), rfl, accepts_of (by decide +kernel), ready_of (by decide +kernel), accepts_of (by decide +kernel)⟩

theorem witness_StoresAreIssued_one :
    ∃ s2, w0.mayRetire = true ∧ w0.Ready [.one (.h 1), .one (.q 0)] .none ∧
      (w0.readied [.one (.h 1), .one (.q 0)] .none).accepts (offsetFrom (w0.first [.one (.h 1), .one (.q 0)] .none) 0 8) 8 .w (x0 .w) ∧
      (w0.readied [.one (.h 1), .one (.q 0)] .none).takes [(x0 .w).place] ∧
      (w0.readied [.one (.h 1), .one (.q 0)] .none).spendAll (clusterOf w0.cur) [(va0, (x0 .w).place, 8)] = .ok s2 ∧
      w0.ctx.priv = true :=
  ⟨_, by decide +kernel, ready_of (by decide +kernel), accepts_of (by decide +kernel), takes_of (by decide +kernel), rfl, by decide +kernel⟩

/-- w0 at level U, with 3 in h2: the tag that only S may write. -/
def wU : State := setH 2 3 (w0.updCtx fun c => { c with priv := false })

theorem witness_StoresAreIssued_tags :
    wU.Ready [.one (.h 1), .one (.h 2)] .none ∧ (wU.second [.one (.h 1), .one (.h 2)] .none).extractLsb' 0 2 = 3#2 ∧
      wU.ctx.priv = false ∧ (wU.take (causeOf .privReg 0 0)).2 = false ∧
      (wU.readied [.one (.h 1), .one (.h 2)] .none).accepts (offsetFrom (wU.first [.one (.h 1), .one (.h 2)] .none) 0 8) 8 .w
        (xAt wU va0 .w) :=
  ⟨ready_of (by decide +kernel), by decide +kernel, by decide +kernel, by decide +kernel, accepts_of (by decide +kernel)⟩

theorem witness_StoresAreIssued_pair :
    ∃ s2, w0.Ready [.one (.h 1), .pair (.q 14)] .none ∧
      (w0.readied [.one (.h 1), .pair (.q 14)] .none).accepts (offsetFrom (w0.first [.one (.h 1), .pair (.q 14)] .none) 0 8) 16 .w
        (x0 .w) ∧
      (w0.readied [.one (.h 1), .pair (.q 14)] .none).accepts (offsetFrom (w0.first [.one (.h 1), .pair (.q 14)] .none) 0 8 + 8) 8
        .w (xAt w0 (va0 + 8) .w) ∧
      (w0.readied [.one (.h 1), .pair (.q 14)] .none).takes [(x0 .w).place, (xAt w0 (va0 + 8) .w).place] ∧
      (w0.readied [.one (.h 1), .pair (.q 14)] .none).spendAll (clusterOf w0.cur)
        [(va0, (x0 .w).place, 8), (va0 + 8, (xAt w0 (va0 + 8) .w).place, 8)] = .ok s2 :=
  ⟨_, ready_of (by decide +kernel), accepts_of (by decide +kernel), accepts_of (by decide +kernel), takes_of (by decide +kernel), rfl⟩

theorem witness_StoresAreIssued_run :
    ∃ s2, (15 : Fin 16).val + (0 : BitVec 2).toNat + 1 ≤ 16 ∧ w0.Ready [.one (.h 1), .one (.h 15)] .none ∧
      (w0.readied [.one (.h 1), .one (.h 15)] .none).accepts
        (offsetFrom (w0.first [.one (.h 1), .one (.h 15)] .none) 0 8 + wordOf (8 * 0)) 8 .w (x0 .w) ∧
      (w0.readied [.one (.h 1), .one (.h 15)] .none).spendAll (clusterOf w0.cur)
        ([x0 .w].zipIdx.map fun p => (va0 + wordOf (8 * p.2), p.1.place, 8)) = .ok s2 :=
  ⟨_, by decide +kernel, ready_of (by decide +kernel), accepts_of (by decide +kernel), rfl⟩

/-- w0 with an address in h1 that no access of more than a byte may have. -/
def wOdd : State := setH 1 (privAlias 4097) w0

theorem witness_MisalignedAccessesTrap :
    wOdd.Ready [.one (.h 1)] (.one .push) ∧ wOdd.me.wait = none ∧
      (offsetFrom (wOdd.first [.one (.h 1)] (.one .push)) 0 2).toNat % 2 ≠ 0 ∧
      (wOdd.take (causeOf .align (privAlias 4097) (wordOf 2))).2 = false ∧ wOdd.Ready [.one (.h 1)] .none ∧
      wOdd.Ready [.one (.h 1), .one .z] .none ∧ wOdd.Ready [.one (.h 1)] (.pair .push) ∧ wOdd.Ready [.one (.h 1), .pair .z] .none ∧
      wOdd.Ready [.one (.h 1)] (.run (.h 12) 4) ∧ wOdd.Ready (stmUses (.h 1) (.h 12) 4) .none ∧
      (wOdd.take (causeOf .reservedField 0 0)).2 = false := by
  and_intros <;> first | exact ready_of (by decide +kernel) | decide +kernel

theorem canonical_of {s : State} (t : (Memory.wf s.mem && SMap.wf tagEmpty s.tags && SMap.wf false s.poison) = true) :
    s.Canonical := by
  simp only [Bool.and_eq_true] at t
  exact ⟨t.1.1, t.1.2, t.2⟩

theorem quiet_of {s : State} {k : Nat} (t : s.parked.isEmpty = true) : s.quietAt k := by
  intro p h
  rw [List.isEmpty_iff.mp t] at h
  cases h

/-- The key of the word at `va0`. -/
def k0 : Nat := privBase 0 + 4096

/-- w0 with one access under way, and a tag on its word. -/
def wFly (op : AccOp) (st : AccState) (tag : BitVec 2) : State :=
  ((w0.updMe fun k => { k with flight := [⟨7, op, va0, (x0 .w).pa, 0, true, false, false, false, false, false, true, 0, true, 0,
    0, false, st⟩] }).write k0 8 5).setTag k0 tag

/-- What a statement about the access of `wFly` asks for. -/
def flyB (s : State) : Bool :=
  Memory.wf s.mem && SMap.wf tagEmpty s.tags && SMap.wf false s.poison &&
  match s.me.flight.find? (fun a => a.id = 7) with
  | some x => x.live && !x.inl && s.mayPerform s.cur x && decide (s.place (dieOf s.cur) x.pa = .spad k0) && !x.migrating &&
      s.parked.isEmpty
  | none => false

theorem witness_HomesPerformAccesses :
    (∀ t, flyB (wFly (.load 8) .issued t) = true) ∧ (∀ t, flyB (wFly (.store 8 9 true) .issued t) = true) ∧
      k0 % 8 + 8 ≤ 8 ∧ (∀ t, (wFly (.load 8) .issued t).tagAt k0 = t) ∧ (wFly (.load 8) (.performed 5 0) 1).me.inl = none := by decide +kernel

/-- w0 with a word of 5 and a tag at `va0`. -/
def wTag (tag : BitVec 2) : State := (w0.write k0 8 5).setTag k0 tag

theorem witness_TaggedAccessesWait (t : BitVec 2) :
    (wTag t).Canonical ∧ (wTag t).mayRetire = true ∧ (wTag t).me.wait = none ∧ (x0 .r).place = .spad k0 ∧ (wTag t).quietAt k0 ∧
      k0 % 8 + 2 ^ (3 : BitVec 2).toNat ≤ 8 ∧ (wTag t).tagAt k0 = t ∧ (wTag t).Ready [.one (.h 1)] (.one .push) ∧
      ((wTag t).readied [.one (.h 1)] (.one .push)).accepts (offsetFrom ((wTag t).first [.one (.h 1)] (.one .push)) 0 8) 8 .r
        (xAt (wTag t) va0 .r) ∧ (xAt (wTag t) va0 .r).place = .spad k0 ∧
      ((wTag t).readied [.one (.h 1)] (.one .push)).mustWait (xAt (wTag t) va0 .r).strong (xAt (wTag t) va0 .r).pa = false ∧
      ownPrivate 0 (.spad k0) = true ∧ ((wTag t).take (causeOf .tagMismatch va0 2)).2 = false ∧
      (wTag t).Ready [.one (.h 1), .one (.q 0)] .none ∧
      ((wTag t).readied [.one (.h 1), .one (.q 0)] .none).accepts
        (offsetFrom ((wTag t).first [.one (.h 1), .one (.q 0)] .none) 0 8) 8 .w (xAt (wTag t) va0 .w) := by
  refine ⟨canonical_of ?_, ?_, ?_, by decide +kernel, quiet_of ?_, by decide +kernel, ?_, ready_of ?_, accepts_of ?_, ?_, ?_, by decide +kernel, ?_, ready_of ?_,
    accepts_of ?_⟩
  all_goals revert t; decide +kernel

/-! ## Atomics and arrivals -/

theorem witness_AtomicsAreIssued_one :
    ∃ s2, w0.mayRetire = true ∧ w0.Ready [.one (.h 1), .one (.q 0)] .none ∧
      (w0.readied [.one (.h 1), .one (.q 0)] .none).accepts (w0.first [.one (.h 1), .one (.q 0)] .none) 8 .w (x0 .w) ∧
      (w0.readied [.one (.h 1), .one (.q 0)] .none).takes [(x0 .w).place] ∧
      (w0.readied [.one (.h 1), .one (.q 0)] .none).spendAll (clusterOf w0.cur)
        [(w0.first [.one (.h 1), .one (.q 0)] .none, (x0 .w).place, 8)] = .ok s2 ∧
      (w0.take (causeOf .reservedField 0 0)).2 = false :=
  ⟨_, by decide +kernel, ready_of (by decide +kernel), accepts_of (by decide +kernel), takes_of (by decide +kernel), rfl, by decide +kernel⟩

/-- A wait for an atomic whose value has come back. -/
def wAcq : State := w0.updMe fun k => { k with wait := some { plainWait .loads with vals := [(3, some 0)] } }

theorem witness_AtomicsAreIssued_acquire :
    w0.me.wait = none ∧ wAcq.mayRetire = true ∧ wAcq.Ready [.one (.h 1), .one (.q 0)] .none ∧
      (wAcq.me.wait.map fun y => (y.what, y.vals)) = some (.loads, [(3, some 0)]) ∧ (0 : BitVec 4) ≠ 15 :=
  ⟨by decide +kernel, by decide +kernel, ready_of (by decide +kernel), by decide +kernel⟩

theorem witness_AtomicsAreIssued_answers :
    ∃ s2, w0.Ready [.one (.h 1), .one (.q 0)] (.one .push) ∧
      (w0.readied [.one (.h 1), .one (.q 0)] (.one .push)).accepts (w0.first [.one (.h 1), .one (.q 0)] (.one .push)) 8 .w (x0 .w) ∧
      w0.Ready [.one (.h 1), .pair (.q 0)] (.one .push) ∧
      (w0.readied [.one (.h 1), .pair (.q 0)] (.one .push)).accepts (w0.first [.one (.h 1), .pair (.q 0)] (.one .push)) 8 .w (x0 .w) ∧
      (w0.readied [.one (.h 1), .pair (.q 0)] (.one .push)).spendAll (clusterOf w0.cur)
        [(w0.first [.one (.h 1), .pair (.q 0)] (.one .push), (x0 .w).place, 8)] = .ok s2 :=
  ⟨_, ready_of (by decide +kernel), accepts_of (by decide +kernel), ready_of (by decide +kernel), accepts_of (by decide +kernel), rfl⟩

theorem witness_AtomicsAreIssued_two_parts :
    ∃ s2, w0.Ready [.pair (.h 2), .one (.q 0)] .none ∧
      (w0.readied [.pair (.h 2), .one (.q 0)] .none).accepts (w0.first [.pair (.h 2), .one (.q 0)] .none) 8 .w (x0 .w) ∧
      (w0.readied [.pair (.h 2), .one (.q 0)] .none).accepts (w0.second [.pair (.h 2), .one (.q 0)] .none) 8 .w (x0 .w) ∧
      (w0.readied [.pair (.h 2), .one (.q 0)] .none).accepts (w0.second [.pair (.h 2), .one (.q 0)] .none + 8) 8 .w
        (xAt w0 (va0 + 8) .w) ∧
      (w0.readied [.pair (.h 2), .one (.q 0)] .none).spendAll (clusterOf w0.cur)
        [(w0.first [.pair (.h 2), .one (.q 0)] .none, (x0 .w).place, 8),
          (w0.second [.pair (.h 2), .one (.q 0)] .none, (x0 .w).place, 8)] = .ok s2 :=
  ⟨_, ready_of (by decide +kernel), accepts_of (by decide +kernel), accepts_of (by decide +kernel), accepts_of (by decide +kernel), rfl⟩

theorem witness_AtomicsAreIssued_signals :
    ∃ s2 s3, w0.Ready [.one (.h 1), .one (.q 0), .one (.h 2)] .none ∧
      (w0.readied [.one (.h 1), .one (.q 0), .one (.h 2)] .none).accepts
        (w0.third [.one (.h 1), .one (.q 0), .one (.h 2)] .none) 8 .w (x0 .w) ∧
      (w0.readied [.one (.h 1), .one (.q 0), .one (.h 2)] .none).spendAll (clusterOf w0.cur) [(va0, (x0 .w).place, 8)] = .ok s2 ∧
      w0.Ready [.one (.h 1), .pair (.q 0), .one (.h 2)] .none ∧
      (w0.readied [.one (.h 1), .pair (.q 0), .one (.h 2)] .none).accepts
        (w0.first [.one (.h 1), .pair (.q 0), .one (.h 2)] .none) 16 .w (x0 .w) ∧
      (w0.readied [.one (.h 1), .pair (.q 0), .one (.h 2)] .none).spendAll (clusterOf w0.cur) [(va0, (x0 .w).place, 16)] = .ok s3 :=
  ⟨_, _, ready_of (by decide +kernel), accepts_of (by decide +kernel), rfl, ready_of (by decide +kernel), accepts_of (by decide +kernel), rfl⟩

/-- An arrival word with COUNT 3, GOAL 5 and a mode (R196). -/
def arrW (mode : Nat) : Word := BitVec.ofNat 64 (3 + 5 * 2 ^ 27 + mode * 2 ^ 62)

/-- `wFly` with an arrival word. -/
def wArr (n : Nat) (mode : Nat) : State := ((wFly (.arrive n 1) .issued 2).write k0 8 (arrW mode)).setTag k0 2

theorem witness_AtomicsAndArrivalsAtTheirHome_atomics (t : BitVec 2) :
    flyB (wFly (.atomic 0 8 1 false false) .issued t) = true ∧ flyB (wFly (.cas 8 5 6 false) .issued t) = true ∧
      flyB (wFly (.arm (arrW 0)) .issued t) = true ∧ k0 % 8 = 0 ∧
      (wFly (.atomic 0 8 1 false false) .issued t).tagAt k0 = t ∧ readBytes (wFly (.cas 8 5 6 false) .issued t).mem k0 8 = 5 := by
  revert t; decide +kernel

theorem witness_AtomicsAndArrivalsAtTheirHome_arrivals :
    flyB (wArr 1 1) = true ∧ fld ((wArr 1 1).word k0) 62 2 = 1 ∧ fld ((wArr 1 1).word k0) 0 27 = 3 ∧
      fld ((wArr 1 1).word k0) 27 27 = 5 ∧ (wArr 1 1).tagAt k0 = tagArrival ∧ 3 + 1 < 5 ∧ flyB (wArr 2 1) = true ∧ flyB (wArr 7 1) = true ∧
      fld ((wArr 1 3).word k0) 62 2 = 3 ∧ flyB (wArr (2 ^ 27) 1) = true := by decide +kernel

/-! ## Waits -/

theorem witness_CountedWaitsAndTimelines_drained :
    w0.mayRetire = true ∧ (∀ a ∈ w0.me.flight, a.failed? = false) ∧ w0.me.causes = [] ∧ w0.me.loadsOut ≤ 0 ∧ w0.me.storesOut ≤ 0 ∧
      (w0.me.act.map fun a => a.chLive).getD 0 ≤ 0 ∧ (w0.me.act.map fun a => a.mxLive).getD 0 ≤ 0 := by decide +kernel

/-- w0 with one load under way, at a given state. -/
def wLoad (st : AccState) : State := wFly (.load 8) st 1

theorem witness_CountedWaitsAndTimelines_outstanding :
    (∀ a ∈ (wLoad .issued).me.flight, a.failed? = false) ∧ (wLoad .issued).me.causes = [] ∧
      ¬((0 : BitVec 6) = 63 ∨ (wLoad .issued).me.loadsOut ≤ (0 : BitVec 6).toNat ∨ 62 ≤ (0 : BitVec 6).toNat) ∧
      (wLoad .issued).me.wait = none := by decide +kernel

/-- wLoad failed, with a cause of the matrix unit issued after it, or before. -/
def wCauses (after : Nat) : State :=
  (wLoad (.failed .memPoison va0 0)).updMe fun k => { k with causes := [⟨.mx, 1, engineRec .mxPoison va0 0 0, after⟩] }

/-- The failed accesses that a wait for all counts meets. -/
def met : Access → Bool := fun a => a.live && a.failed? && (((0 : BitVec 6) != 63 && a.isLoad) || ((0 : BitVec 6) != 63 && a.isStore))

theorem witness_CountedWaitsAndTimelines_failed :
    ((wCauses 8).me.flight.find? met).map (fun a => a.id) = some 7 ∧ ((wCauses 8).me.causes.all fun e => decide (7 < e.after)) = true ∧
      (((wCauses 8).drop (.access 7)).take ⟨.memPoison, va0, 0, 0, true, false, none⟩).2 = false ∧
      (((wCauses 8).me.flight.find? met).map fun a => a.deferred) = some ⟨.memPoison, va0, 0, 0, true, false, none⟩ := by
  decide +kernel

theorem witness_CountedWaitsAndTimelines_engine :
    ((wCauses 7).me.causes[0]?.map fun e => (e.ctx, e.after)) = some (.mx, 7) ∧ (0 : BitVec 6) ≠ 63 ∧
      ((wCauses 7).me.flight.find? met).map (fun a => decide (7 ≤ a.id)) = some true ∧ (wCauses 7).me.causes.length = 1 ∧
      (((wCauses 7).drop (.engine 0)).take (engineRec .mxPoison va0 0 0)).2 = false := by decide +kernel

theorem witness_CountedWaitsAndTimelines_handles :
    w0.Ready [.one .z, .one .z] (.one .push) ∧ w0.me.causes = [] ∧ w0.me.wait = none ∧ w0.first [.one .z, .one .z] (.one .push) = 0 ∧
      (setH 1 1 w0).first [.one (.h 1), .one .z] (.one .push) = 1 ∧
      (setH 1 (wordOf (2 + 4 * 7 + 256 * 11)) w0).first [.one (.h 1), .one .z] (.one .push) = wordOf (2 + 4 * 7 + 256 * 11) ∧
      w0.blob.channels.contains (11 * 32 + 0) = false ∧ (setH 1 3 w0).first [.one (.h 1), .one .z] (.one .push) = 3 ∧
      (w0.take (causeOf .badOperand 0 0)).2 = false :=
  ⟨ready_of (by decide), by decide +kernel⟩

/-- w0 with a word and a tag at `va0`, and a mask in h2. -/
def wWatch (v : Word) (tag : BitVec 2) (m : Word) : State := setH 2 m ((w0.write k0 8 v).setTag k0 tag)

/-- What a statement about `waitg` and `waitm` asks for. -/
def watchB (s : State) : Bool :=
  readyB s [.one (.h 1), .one (.h 2)] (.one .push) && s.mayRetire && s.me.wait.isNone &&
  acceptsB (s.readied [.one (.h 1), .one (.h 2)] (.one .push)) va0 8 .r (x0 .r) && decide ((x0 .r).place = .spad k0) &&
  s.parked.isEmpty && decide (k0 % 8 = 0) &&
  !(s.readied [.one (.h 1), .one (.h 2)] (.one .push)).mustWait (x0 .r).strong (x0 .r).pa && ownPrivate s.cur (.spad k0)

theorem witness_WordsAreWatched :
    watchB (wWatch (arrW 0) 2 0) = true ∧ (fld (arrW 0) 54 8 + 256 - fld (0 : Word) 0 8) % 256 < 128 ∧
      watchB (wWatch (arrW 0) 2 1) = true ∧ 128 ≤ (fld (arrW 0) 54 8 + 256 - fld (1 : Word) 0 8) % 256 ∧
      (∀ t, watchB (wWatch 5 t 5) = true ∧ (wWatch 5 t 5).tagAt k0 = t) ∧ (5 : Word) &&& 5 = 5 ∧ (5 : Word) &&& 2 ≠ 2 ∧
      watchB (wWatch 5 1 2) = true ∧ ((wWatch 5 3 5).take (causeOf .memPoison va0 0)).2 = false := by decide +kernel

/-- A launch with nothing in it. -/
def launch0 : Launch :=
  { idWord := 0, kind := 0, prio := 0, cp := 0, retry := 0, used := 0, drain := false, core := 0, any := false, msix := none
    part := 0, home := 0, stamp := 0, issuer := 0, sup := true, target := privAlias 0x200, targetPa := 0, args := [0, 0, 0, 0]
    compl := none, signal := none, badCause := none, phase := .running, live := 0, closed := true, faults := 0, first := none
    user := 0, failed := false, refused := false, parent := none, members := [], serialized := false, groups := [], gridWords := []
    slot := 0, gridDesc := 0, graphDesc := 0, stage := none, blocks := [], dirty := [], dirtyNm := [] }

/-- Core 0 runs member 0 of a team of cores 0 and 1, of group 0 of launch 1; core 1 may have arrived with a tag. -/
def wTeam (arrived : List (Nat × Word)) : State :=
  let g : Group := ⟨0, .running, 0, [⟨[0, 1], [0, 1], 0, ⟨arrived, [], []⟩, 0, false⟩], ⟨arrived, [], []⟩, 0, [], []⟩
  ({ w0 with launches := [(1, { launch0 with kind := 1, groups := [g] })] }).updMe fun k => { k with
    act := k.act.map (fun (a : Act) => { a with source := .member 1 0 0 0 })
    ctx := { k.ctx with lteam := wordOf (k0 + 64), lgroup := wordOf k0 } }

/-- What a statement about barriers asks for. -/
def teamB (s : State) (grp : Bool) : Bool :=
  readyB s [.one .z] .none && s.mayRetire && s.me.wait.isNone && s.me.flight.isEmpty && s.me.causes.isEmpty &&
  decide (s.me.storesOut = 0) && decide (s.me.member? = some (1, 0, 0, 0)) &&
  match s.launch? 1 with
  | none => false
  | some x => match x.barrier 0 0 grp with
    | none => false
    | some (b, cores, live) => decide (live.length = cores.length) && cores.contains s.cur && b.arrived.all (fun p => p.1 != s.cur) &&
        b.leaving.isEmpty && b.broken.isEmpty

theorem witness_BarriersJoinMembers :
    w0.ctx.lteam = 0 ∧ (w0.take (causeOf .barrierMismatch 0 0)).2 = false ∧ (∀ grp, teamB (wTeam []) grp = true) ∧
      (∀ grp, teamB (wTeam [(1, 0)]) grp = true) ∧ (∀ grp, teamB (wTeam [(1, 9)]) grp = true) ∧ (wTeam []).ctx.lteam ≠ 0 ∧
      bit ((wTeam []).word ((wTeam []).descKey 0 (wTeam []).ctx.lteam)) 11 = false := by decide +kernel

/-- w0 in a wait. -/
def wWait (what : WaitFor) (bounded : Bool) (s : State) : State :=
  s.updMe fun k => { k with wait := some ⟨what, bounded, va0, 0, .no, true, k0, .none, []⟩ }

theorem witness_BoundedWaitsExpire :
    (∀ what ∈ [WaitFor.port .n false, .tagged, .produce, .watch, .timeline, .queue, .stagePut, .reply],
      ((wWait what true w0).me.wait.map fun w => (w.what, w.bounded, w.served)) = some (what, true, .no)) ∧
      ({ wWait .stagePut true w0 with puts := [⟨0, k0, 0, 0, []⟩] }).putHeld 0 w0.me.outerCtx.priv = true ∧
      ((wWait .tagged true w0).take (causeOf .tagTimeout va0 0)).2 = false ∧ teamB (wTeam [(1, 0)]) true = true ∧
      ((wWait .tagged false w0).me.wait.map fun w => w.bounded) = some false := by decide +kernel

/-- wTeam waiting at its group's barrier, at which it has arrived. -/
theorem witness_BoundedWaitsExpire_barrier :
    let s := (wWait (.barrier true) true (wTeam [(0, 0)])).write (k0 + 64) 8 2
    s.mateSuspended s.cur true = false ∧ (s.take (causeOf .waitTimeout 0 0)).2 = false ∧ s.me.member? = some (1, 0, 0, 0) ∧ ((s.launch? 1).bind fun x => x.barrier 0 0 true) = some (⟨[(0, 0)], [], []⟩, [0, 1], [0, 1]) ∧
      (s.me.wait.map fun w => w.what) = some (.barrier true) := by decide +kernel

/-- w0 with its yield count spent. -/
def wSpent : State := w0.updCtx fun c => { c with ycnt := 0 }

theorem witness_BoundedWaitsExpire_overrun :
    wSpent.me.inl = none ∧ wSpent.ctx.ycnt = 0 ∧ wSpent.me.act.isSome = true ∧
      (wSpent.updCtx fun c => { c with spent := true }).ctx.spent = true ∧
      (((wSpent.updCtx fun c => { c with spent := true }).updCtx fun c => { c with spent := false }).take
        (causeOf .yieldOverrun 0 0)).2 = false := by decide +kernel

/-! ## Queues -/

/-- Words written one after another. -/
def putAll (k : Nat) (ws : List Word) (s : State) : State := ws.zipIdx.foldl (fun s p => s.write (k + 8 * p.2) 8 p.1) s

/-- A queue at `va0` of 4 slots at 0x2000 of the private scratchpad, with a slot size, a flags word, HEAD and TAIL, and a tag
on the first word of slot 0. -/
def wQ (size : Nat) (flags head tail : Word) (tag : BitVec 2) : State :=
  (putAll k0 [privAlias 0x2000, wordOf (4 + size * 2 ^ 32), head, tail, flags, 0, tail, 0] w0).setTag (privBase 0 + 0x2000) tag

/-- What a statement about a queue at `va0` asks for. -/
def queueB (s : State) (us : List Use) (d : DestSpec) (right : Right) : Bool :=
  Memory.wf s.mem && SMap.wf tagEmpty s.tags && SMap.wf false s.poison && s.mayRetire && s.me.wait.isNone &&
  decide ((x0 right).place = .spad k0) && (List.range 8).all (fun i => s.tagAt (k0 + 8 * i) != tagPoison) && decide (k0 % 64 = 0) &&
  s.parked.isEmpty && !bit (s.word (k0 + 32)) 0 && fld (s.word (k0 + 8)) 48 16 == 0 && fld (s.word (k0 + 32)) 3 61 == 0 &&
  fld (s.word (k0 + 8)) 0 32 == 4 && readyB s us d && acceptsB (s.readied us d) va0 64 right (x0 right) &&
  !(s.readied us d).mustWait (x0 right).strong (x0 right).pa && s.me.flight.isEmpty && s.me.causes.isEmpty &&
  decide (s.first us d = va0)

/-- The first word of slot 0. -/
def xSlot (right : Right) : Xlated := xAt w0 (privAlias 0x2000) right

theorem witness_QueueInstructionsComplete_reservation :
    queueB (wQ 8 0 0 3 0) [.one (.h 1)] (.one .push) .w = true ∧ ((3 : Word) - 0).toNat < 4 ∧
      queueB (wQ 1 0 0 4 0) [.one (.h 1)] (.one .push) .w = true ∧ 4 ≤ ((4 : Word) - 0).toNat ∧
      queueB (wQ 8 4 0 3 0) [.one (.h 1)] (.one .push) .w = true ∧ bit (4 : Word) 2 = true ∧
      ((wQ 8 4 0 3 0).take (causeOf .queueClosed va0 3)).2 = false := by decide +kernel

theorem witness_QueueInstructionsComplete_pop :
    queueB (wQ 8 2 0 1 1) [.one (.h 1)] (.one .push) .r = true ∧
      ((wQ 8 2 0 1 1).readied [.one (.h 1)] (.one .push)).accepts (privAlias 0x2000) 8 .r (xSlot .r) ∧
      (xSlot .r).place = .spad (privBase 0 + 0x2000) ∧ (wQ 8 2 0 1 1).tagAt (privBase 0 + 0x2000) = tagFull ∧
      ((wQ 8 2 0 1 1).readied [.one (.h 1)] (.one .push)).mustWait (xSlot .r).strong (xSlot .r).pa = false ∧
      queueB (wQ 8 0 0 1 0) [.one (.h 1)] (.one .push) .r = true ∧ (wQ 8 0 0 1 0).tagAt (privBase 0 + 0x2000) = tagEmpty ∧
      queueB (wQ 8 4 1 1 0) [.one (.h 1)] (.one .push) .r = true ∧ (wQ 8 4 1 1 0).word (k0 + 16) = (wQ 8 4 1 1 0).word (k0 + 48) :=
  ⟨by decide +kernel, accepts_of (by decide +kernel), by decide +kernel⟩

theorem witness_QueueInstructionsComplete_close :
    queueB (wQ 8 0 0 1 0) [.one (.h 1)] .none .w = true ∧ queueB (wQ 8 4 0 1 0) [.one (.h 1)] .none .w = true ∧
      (wQ 8 0 0 1 0).me.loadsOut = 0 ∧ (wQ 8 0 0 1 0).takes [(x0 .w).place] ∧ (wQ 8 0 0 1 0).takes [(xSlot .w).place] ∧
      ((wQ 8 0 0 1 0).readied [.one (.h 1)] .none).accepts (privAlias 0x2000) 8 .w (xSlot .w) :=
  ⟨by decide +kernel, by decide +kernel, by decide +kernel, takes_of (by decide +kernel), takes_of (by decide +kernel),
    accepts_of (by decide +kernel)⟩

theorem witness_QueueInstructionsComplete_push :
    ∃ s2, ((wQ 2 0 0 3 0).readied [.one (.h 1), .one (.q 0)] (.one .push)).spendAll (clusterOf (wQ 2 0 0 3 0).cur)
      [(privAlias 0x2038, (xAt w0 (privAlias 0x2038) .w).place, 8)] = .ok s2 := ⟨_, rfl⟩

theorem witness_QueueInstructionsComplete_publish :
    (∀ t, t = tagEmpty ∨ t = tagFull →
      queueB ((wQ 8 0 0 1 0).setTag k0 t) [.one (.h 1)] .none .w = true ∧ ((wQ 8 0 0 1 0).setTag k0 t).tagAt k0 = t) ∧
      (w0.me.storesOut = 0 ∧ ownPrivate 0 (x0 .w).place = true) ∧
      queueB (wQ 1 0 0 3 0) [.one (.h 1), .one (.q 0)] (.one .push) .w = true ∧
      queueB (wQ 2 0 0 3 0) [.one (.h 1), .one (.q 0)] (.one .push) .w = true ∧
      ((wQ 2 0 0 3 0).readied [.one (.h 1), .one (.q 0)] (.one .push)).accepts
        (privAlias 0x2000 + wordOf ((3 : Word).toNat % 4 * 2 * 8) + 8) 8 .w (xAt w0 (privAlias 0x2038) .w) ∧
      ((wQ 2 0 0 3 0).readied [.one (.h 1), .one (.q 0)] (.one .push)).takes [(xAt w0 (privAlias 0x2038) .w).place] :=
  ⟨by decide +kernel, by decide +kernel, by decide +kernel, by decide +kernel, accepts_of (by decide +kernel),
    takes_of (by decide +kernel)⟩

/-- A push that has reserved the slot at `va0`. -/
def wPush : State := w0.updMe fun k => { k with wait := some ⟨.produce, true, 0, 0, .no, false, va0.toNat, .none, []⟩ }

theorem witness_QueueInstructionsComplete_second_part :
    (wPush.me.wait.map fun w => (w.what, w.served, w.begun, w.slot)) = some (.produce, .no, false, va0.toNat) ∧
      wPush.Ready [.one (.h 1), .one (.q 0)] (.one .push) ∧ wPush.me.storesOut = 0 ∧
      (wPush.readied [.one (.h 1), .one (.q 0)] (.one .push)).accepts (wordOf va0.toNat) 8 .w (x0 .w) ∧
      (wPush.readied [.one (.h 1), .one (.q 0)] (.one .push)).mustWait (x0 .w).strong (x0 .w).pa = false ∧
      wPush.tagAt k0 = tagEmpty ∧ wPush.Canonical :=
  ⟨by decide +kernel, ready_of (by decide +kernel), by decide +kernel, accepts_of (by decide +kernel), by decide +kernel,
    by decide +kernel, canonical_of (by decide +kernel)⟩

/-! ## Copy channels -/

/-- w0 with commands in its copy inbox. -/
def wChan (ms : List ChCmd) : State := w0.updMe fun k => { k with chan := { k.chan with inbox := ms } }

/-- A chain command for the record at an address, with the records that it has started. -/
def chainAt (va : Word) (rs : List ChRun) : ChCmd := ⟨va, 0, true, 0, 1, true, 0, rs, 0, false⟩
def chain0 : ChCmd := chainAt va0 []

theorem witness_CopyChannelInstructions_chain :
    w0.mayRetire = true ∧ w0.Ready [.one (.h 1)] (.one .push) ∧ (w0.first [.one (.h 1)] (.one .push)).toNat % 64 = 0 ∧
      w0.me.chan.inbox.length < 8 ∧ 8 ≤ (wChan (List.replicate 8 chain0)).me.chan.inbox.length ∧
      (wOdd.first [.one (.h 1)] (.one .push)).toNat % 64 ≠ 0 ∧ (wOdd.take (causeOf .align (privAlias 4097) 64)).2 = false :=
  ⟨by decide, ready_of (by decide), by decide +kernel⟩

/-- w0 with a handle in h1 and an item in h2. -/
def wStat (h item : Word) : State := setH 2 item (setH 1 h w0)

/-- wStat with commands of context 7 of stack 11 issued by its activation. -/
def wNm (xs : List NmIssued) : State :=
  (wStat (wordOf (2 + 4 * 7 + 256 * 11)) 1).updMe fun k => { k with act := k.act.map (fun (a : Act) => { a with nm := xs }) }

/-- What a statement about `cstat` asks for: operands that stand ready and have these values. -/
def statB (h item : Word) : Bool :=
  let s := wStat h item
  readyB s [.one (.h 1), .one (.h 2)] (.one .push) && decide (s.first [.one (.h 1), .one (.h 2)] (.one .push) = h) &&
    decide (s.second [.one (.h 1), .one (.h 2)] (.one .push) = item)

/-- The handle of context 7 of stack 11, the last of both. -/
def lastNm : Word := wordOf (2 + 4 * 7 + 256 * 11)

theorem witness_CopyChannelInstructions_cstat :
    ([(0, 0), (1, 0), (0, 1), (1, 1), (1, 2), (0, 2), (lastNm, 0), (lastNm, 1), (lastNm, 2), (3, 0), (0, 3)].all
      fun p => statB p.1 p.2) = true := by decide +kernel

theorem witness_CopyChannelInstructions_contexts :
    w0.blob.channels.contains (11 * 32 + 0) = false ∧ ((wStat 0 2).take (causeOf .badOperand 0 0)).2 = false ∧
      ([[⟨11, 7, 5, 0⟩], []].all fun xs => decide ((wNm xs).me.act.map (fun a => a.nm) = some xs)) = true := by decide +kernel

theorem witness_CopyChannelInstructions_ccan : w0.Ready [] (.one .push) := ready_of (by decide +kernel)

/-- A copy, multicast or fill of 4 words from 0x2000 to 0x3000 of the private scratchpad, with a follow-on offset, a DONE
mode and a target. -/
def rec0 (op done foff : Nat) : List Word :=
  [wordOf (2 ^ 63 + op + 16 * done), privAlias 0x2000, if op = 1 then wordOf (0x3000 * 2 ^ 16) else privAlias 0x3000, 4, 0, 0,
    if op = 1 then 0x3800 else privAlias 0x3800, wordOf foff]

/-- wChan with the record in memory, and core 0's copy channel at it. -/
def wRec (op done foff : Nat) : State := putAll k0 (rec0 op done foff) (wChan [chain0])

/-- A read or write of a channel lands in scratchpad. -/
def hitB (s : State) (m : ChCmd) (va : Word) (right : Right) (k : Nat) : Bool :=
  match s.translateHit s.cur m.sup va right with
  | .ok x => decide (x.place = .spad k) && !x.mig && !s.chBehind s.cur m x.part
  | .fault _ _ => false
  | .miss => false

theorem hit_of {s : State} {m : ChCmd} {va : Word} {right : Right} {k : Nat} (t : hitB s m va right k = true) :
    ∃ x, s.translateHit s.cur m.sup va right = .ok x ∧ x.place = .spad k ∧ x.mig = false ∧ s.chBehind s.cur m x.part = false := by
  cases h : s.translateHit s.cur m.sup va right with
  | ok x =>
    simp only [hitB, h, Bool.and_eq_true, decide_eq_true_eq, Bool.not_eq_true'] at t
    exact ⟨x, rfl, t.1.1, t.1.2, t.2⟩
  | fault c i => simp [hitB, h] at t
  | miss => simp [hitB, h] at t

/-- The record that a state holds at eight words. -/
def recAt (s : State) (k : Nat) : Rec := (List.range 8).map fun i => BitVec.ofNat 64 (readBytes s.mem (k + 8 * i) 8)

/-- What a statement about a record that starts asks for, of a record at `va` whose words stand at `k`. -/
def startB (s : State) (va : Word) (k : Nat) : Bool :=
  Memory.wf s.mem && (s.me.chan.inbox.head?.any fun m => !m.cancelled && m.runs.isEmpty) &&
  ((List.range 8).all fun i => hitB s chain0 (va + wordOf (8 * i)) .r (k + 8 * i) && s.tagAt (k + 8 * i) != tagPoison) &&
  !(recAt s k).bad && (recAt s k).misaligned.isNone

theorem witness_TransferRecordsRun_start :
    startB (wRec 0 0 0) va0 k0 = true ∧ startB (wRec 2 0 0) va0 k0 = true ∧ bypasses 0 (.spad k0) = true := by decide +kernel

/-- wRec with a multicast to group 0, whose one member is core 0. -/
def wMulti : State :=
  { wRec 1 0 0 with routers := [(0, { (w0.router 0) with regs := [(routerKey 0 0x10000, wordOf (2 ^ 20 + 2 ^ 4))] })] }

theorem witness_TransferRecordsRun_multicast :
    startB wMulti va0 k0 = true ∧ recOp ((recAt wMulti k0).w 0) = 1 ∧ wMulti.members 0 0 (fld ((recAt wMulti k0).w 2) 0 12) = some [0] := by
  decide +kernel

/-- A page of core 1's private scratchpad, as core 0 reaches it through its cluster's buffer. -/
def farVa : Word := 0x40000000
def farK : Nat := privBase 1 + 4096
def wFar (s : State) : State :=
  s.updCluster 0 fun k => { k with tlb := [⟨0, 0x40000, 12, wordOf (farK + 0x1F), 0⟩] }

/-- wFar with a record there and the channel's request for it in the ring, or none yet. -/
def wFarRec (marks : List Access) : State :=
  wFar (putAll farK (rec0 0 0 0) ((wChan [chainAt farVa []]).updMe fun k => { k with flight := marks }))

/-- The channel's request at an address, injected. -/
def mark (va : Word) (write : Bool) : Access :=
  ⟨9, .chan 64 write, va, 0, 0, false, false, false, false, false, false, true, 1, true, 0, 0, false, .issued⟩

theorem witness_TransferRecordsRun_ring :
    startB (wFarRec []) farVa farK = true ∧ startB (wFarRec [mark farVa false]) farVa farK = true ∧
      bypasses 0 (.spad farK) = false ∧ (wFarRec []).mark? 0 farVa false = none ∧ (wFarRec []).me.ringCount < 32 ∧
      ((wFarRec [mark farVa false]).mark? 0 farVa false).map (fun a => a.injected) = some true := by decide +kernel

/-- wRec with its record running: bytes read, planes known, and words in hand. -/
def wRun (op done foff at_ planes : Nat) (pieces : List ChPiece) (chunks : List (Nat × Nat)) (landed passed : Bool) : State :=
  putAll k0 (rec0 op done foff) (wChan [chainAt va0 [⟨va0, rec0 op done foff, at_, 32, planes, privAlias 0x2000, [0], pieces,
    chunks, [], landed, passed, false, [], []⟩]])

/-- The only record of the channel's command. -/
def onlyRun (s : State) : Option ChRun := (s.me.chan.inbox.head?.bind fun m => m.runs.head?)

theorem witness_TransferRecordsRun_plane :
    (wRun 0 0 0 0 0 [] [] false false).Canonical ∧
      ((onlyRun (wRun 0 0 0 0 0 [] [] false false)).map fun u => (u.planes, u.done, u.total, u.pieces)) = some (0, 0, 32, []) :=
  ⟨canonical_of (by decide +kernel), by decide +kernel⟩

theorem witness_TransferRecordsRun_read (op : Nat) (h : op = 0 ∨ op = 2) :
    recOp ((rec0 op 0 0).getD 0 0) ≤ 2 ∧ Rec.lbs (rec0 op 0 0) = 0 ∧ Rec.xw (rec0 op 0 0) = 4 ∧ Rec.next (rec0 op 0 0) = 0 ∧
      ((onlyRun (wRun op 0 0 0 1 [] [] false false)).any fun u =>
        u.planes == 1 && u.done == 0 && u.pieces.isEmpty && u.before.isEmpty && u.members == [0]) = true ∧
      ∀ i : Nat, i < 4 → (wRun op 0 0 0 1 [] [] false false).tagAt (privBase 0 + 0x2000 + 8 * i) ≠ tagPoison ∧
        hitB (wRun op 0 0 0 1 [] [] false false) chain0 (privAlias 0x2000 + wordOfInt (8 * (i : Int))) .r (privBase 0 + 0x2000 + 8 * i) = true ∧
        hitB (wRun op 0 0 0 1 [] [] false false) chain0 (privAlias 0x3000 + wordOfInt (8 * (i : Int))) .w (privBase 0 + 0x3000 + 8 * i) = true := by
  rcases h with rfl | rfl <;> decide +kernel

/-- Words in hand, the second of them poisoned. -/
def piece0 : ChPiece := ⟨0, [some 7, none, some 9, some 1], [0], false⟩

theorem witness_TransferRecordsRun_write :
    ((onlyRun (wRun 0 0 0 32 1 [piece0] [] false false)).map fun u => (u.done, u.pieces)) = some (32, [piece0]) ∧
      (∀ i : Nat, i < 4 → hitB (wRun 0 0 0 32 1 [piece0] [] false false) chain0 (privAlias 0x3000 + wordOfInt (8 * (i : Int))) .w
          (privBase 0 + 0x3000 + 8 * i) = true ∧ (privBase 0 + 0x3000 + 8 * i) % 8 = 0 ∧
        (wRun 0 0 0 32 1 [piece0] [] false false).tagAt (privBase 0 + 0x3000 + 8 * i) ≠ tagArrival) ∧
      (wRun 0 0 0 32 1 [piece0] [] false false).parked = [] ∧ bypasses 0 (.spad (privBase 0 + 0x3000)) = true := by decide +kernel

/-- A call to a home that does not fail. -/
def isOk {α β : Type} : Except α β → Bool
  | .ok _ => true
  | .error _ => false

/-- The key of the completion target. -/
def kT : Nat := privBase 0 + 0x3800

theorem witness_TransferRecordsComplete_chunks :
    (wRun 0 1 0 32 1 [] [] false false).Canonical ∧
      ((onlyRun (wRun 0 1 0 32 1 [] [] false false)).map fun u => (u.members, u.cleared, u.landed, u.wrote 0)) =
        some ([0], false, false, 32) ∧
      hitB (wRun 0 1 0 32 1 [] [] false false) chain0 (privAlias 0x3800) .w kT = true ∧
      isOk ((((wRun 0 1 0 32 1 [] [] false false).write kT 8 (wordOf (2 ^ 40))).setTag kT 2).arrive (.spad kT) 32 0 0) = true ∧
      recDone ((rec0 0 1 0).getD 0 0) = 1 ∧ recDone ((rec0 0 2 0).getD 0 0) = 2 ∧
      hitB (wRun 0 2 0 32 1 [] [] false false) chain0 (privAlias 0x3800 + wordOf (8 * (0 / 64))) .w kT = true ∧
      (wRun 0 2 0 32 1 [] [] false false).tagAt kT = tagEmpty ∧ (wRun 0 2 0 32 1 [] [] false false).parked = [] :=
  ⟨canonical_of (by decide +kernel), by decide +kernel⟩

theorem witness_TransferRecordsComplete_landing :
    ((onlyRun (wRun 0 1 0 32 1 [] [(0, 0)] false false)).any fun u =>
        !u.landed && !u.passed && u.done == 32 && u.pieces.isEmpty && u.chunks == [(0, 0)] && u.final.isEmpty) = true ∧
      isOk ((((wRun 0 1 0 32 1 [] [(0, 0)] false false).write kT 8 (arrW 1)).setTag kT 2).arrive (.spad kT) 0 1 0) = true ∧
      ((onlyRun (wRun 0 0 0 32 1 [] [] true false)).map fun u => (u.landed, u.passed)) = some (true, false) ∧
      Rec.foff (rec0 0 0 0) = 0 ∧ Rec.foff (rec0 0 0 2) ≠ 0 ∧ recFmc ((rec0 0 0 2).getD 0 0) = false ∧
      (wRun 0 0 2 32 1 [] [] true false).inPart (wRun 0 0 2 32 1 [] [] true false).me.pid.toNat (recFcore ((rec0 0 0 2).getD 0 0)) = true ∧
      (wRun 0 0 2 32 1 [] [] true false).me.chan.undelivered chain0 < 4 ∧
      (∀ i, i < 4 → hitB (wRun 0 0 2 32 1 [] [] true false) chain0 (va0 + wordOf (32 * 2) + wordOf (8 * i)) .r (k0 + 64 + 8 * i) = true) ∧
      ((onlyRun (wRun 0 0 0 32 1 [] [] true true)).map fun u => (u.passed, u.cleared)) = some (true, false) ∧
      hitB (wRun 0 0 0 32 1 [] [] true true) chain0 va0 .w k0 = true ∧ (wRun 0 0 0 32 1 [] [] true true).tagAt k0 ≠ tagArrival := by
  decide +kernel

/-- Core 0 accepts follow-on commands, and its channel holds some, of a command whose record has had OWN cleared. -/
def wHeld (fs : List Follow) : State :=
  (wRun 0 0 2 32 1 [] [] true true).updMe fun k => { k with
    chan := { k.chan with held := fs, inbox := k.chan.inbox.map fun (m : ChCmd) =>
      { m with runs := m.runs.map fun (u : ChRun) => { u with cleared := true } } }
    ctx := { k.ctx with mx := { k.ctx.mx with follow := true } } }

/-- A follow-on command for core 0. -/
def follow0 : Follow := ⟨0, 0, 0, 0, 0, 0, 0, true, 1, va0⟩

theorem witness_TransferRecordsComplete_delivery :
    (wHeld [follow0]).me.chan.held = [] ++ follow0 :: [] ∧ (wHeld [follow0]).follows 0 = true ∧
      ((onlyRun (wHeld [])).map fun u => (u.cleared, Rec.next u.words)) = some (true, 0) ∧ (wHeld []).me.chan.held = [] ∧
      ((wHeld []).me.chan.inbox.map fun m => m.out) = [0] ∧ (wHeld []).me.susp = none := by decide +kernel

/-! ## Messages -/

/-- An envelope for core 0 of class 1 and a length (R295). -/
def env (cls len dest : Nat) : Word := wordOf (7 + dest * 2 ^ 32 + len * 2 ^ 48 + cls * 2 ^ 52)

/-- w0 with an envelope in h1. -/
def wEnv (e : Word) : State := setH 1 e w0

theorem witness_MessagesAreSent_send :
    readyB (wEnv (env 1 1 0)) [.one (.h 1)] .none = true ∧ (wEnv (env 1 1 0)).first [.one (.h 1)] .none = env 1 1 0 ∧
      readyB (wEnv (env 1 1 0)) [.one (.h 1), .one (.h 15)] .none = true ∧ (15 : Fin 16).val + 1 ≤ 16 ∧
      bit (env 1 1 0) 47 = false ∧ bit (env 1 1 0) 51 = false ∧ fld (env 1 1 0) 57 7 = 0 ∧ bit (env 1 1 0) 46 = false ∧
      fld (env 1 1 0) 52 5 < 24 ∧ w0.me.inl = none ∧ w0.inPart w0.me.pid.toNat (fld (env 1 1 0) 32 14) = true ∧
      (w0.core 0).hasRoom ⟨1, 7, 0, false, 0, [0]⟩ = true ∧ readyB (wEnv (env 1 1 0)) [.one (.h 1)] (.one .push) = true ∧
      w0.me.wait = none := by decide +kernel

/-- w0 with a reply awaited and in its inbox. -/
def wReply : State :=
  wWait .reply true (w0.updMe fun k => { k with disp := { k.disp with inbox := [⟨1, 7, 0, false, 0, [0]⟩] } })

theorem witness_MessagesAreSent_reply :
    wReply.Ready [] (.one .push) ∧ (wReply.me.wait.map fun w => w.what) = some .reply ∧
      wReply.me.disp.inbox = [] ++ ⟨1, 7, 0, false, 0, [0]⟩ :: [] ∧ fld (env 1 1 0) 52 5 = 1 ∧ fld (env 1 1 0) 32 14 = 0 ∧
      (7 : BitVec 32).toNat = fld (env 1 1 0) 0 32 :=
  ⟨ready_of (by decide +kernel), by decide +kernel⟩

/-- wEnv with the payload of an indirect send returned. -/
def wLoaded (e : Word) (n : Nat) : State :=
  (wEnv e).updMe fun k => { k with wait := some ⟨.loads, false, 0, 0, .no, true, 0, .none, List.replicate n (0, some 9)⟩ }

theorem witness_MessagesAreSent_indirect :
    readyB (wLoaded (env 1 1 0) 1) [.one (.h 1), .one (.q 0)] .none = true ∧ fld (env 1 1 0) 48 3 = 1 ∧
      (wLoaded (env 1 1 0) 1).first [.one (.h 1), .one (.q 0)] .none = env 1 1 0 ∧
      readyB (wLoaded (env 1 3 0) 3) [.one (.h 1), .one (.q 0)] .none = true ∧ fld (env 1 3 0) 48 3 = 3 ∧
      ((wLoaded (env 1 3 0) 3).me.wait.map fun w => (w.what, w.vals.map Prod.snd)) = some (.loads, [9, 9, 9].map some) ∧
      (wLoaded (env 1 3 0) 3).me.flight = [] ∧ ((wLoaded (env 1 1 0) 1).take (causeOf .badOperand 0 0)).2 = false := by decide +kernel

theorem witness_MessagesAreSent_refused :
    bit (env 1 1 0 ||| 2 ^ 47) 47 = true ∧ fld (env 24 1 0) 52 5 = 24 ∧ bit (env 1 1 0 ||| 2 ^ 46) 46 = true ∧
      w0.members w0.cur 2 (fld (env 1 1 0 ||| 2 ^ 46) 32 12) = none ∧ w0.inPart w0.me.pid.toNat (fld (env 1 1 0xC00) 32 14) = false ∧
      (w0.take (causeOf .msgDest 0 0xC00)).2 = false ∧ bit ((wEnv (env 1 1 0 ||| 2 ^ 46)).first [.one (.h 1)] (.one .push)) 46 = true := by decide +kernel

/-- w0 with a current message. -/
def wCur (v : Word) : State :=
  setH 1 v (w0.updMe fun k => { k with disp := { k.disp with current := some ⟨1, 7, 0, false, 3, [9]⟩ } })

theorem witness_MessagesArriveAndReduce_masks :
    (wEnv 0x80FFFFFF).Ready [.one (.h 1)] (.one .push) ∧ w0.mayRetire = true ∧ (0x80FFFFFF : Word) &&& 0x80FFFFFF = 0x80FFFFFF ∧
      w0.ctx.priv = true ∧ (0x40000000 : Word) &&& 0x80FFFFFF ≠ 0x40000000 ∧ (wU.take (causeOf .privReg 0 0x200)).2 = false ∧
      w0.me.disp.current = none ∧ (wCur 0).me.disp.current = some ⟨1, 7, 0, false, 3, [9]⟩ ∧
      (wCur 1).first [.one (.h 1)] (.one .push) = 1 ∧ (wCur 2).first [.one (.h 1)] (.one .push) = 2 :=
  ⟨ready_of (by decide +kernel), by decide +kernel⟩

/-- Tree 0 of cluster 0, whose target is at `va0`, with contributions waiting: its control word is given. -/
def wTree (ctl : Nat) (waiting : List Contrib) : State :=
  { setH 1 0 w0 with routers := [(0, { (w0.router 0) with
      regs := [(routerKey 2 0x20000, wordOf ctl), (routerKey 2 0x20008, wordOf k0)], waiting := waiting })] }

/-- Core 0 is the only member: of a root, or of a child of the router to the east. -/
def rootCtl : Nat := 2 ^ 20 + 2 ^ 21 + 2 ^ 4
def childCtl : Nat := 2 ^ 20 + 2 ^ 22 + 2 ^ 4
/-- Cores 0 and 1 are members. -/
def pairCtl : Nat := rootCtl + 2 ^ 5

theorem witness_MessagesArriveAndReduce_redn :
    (wTree rootCtl []).Ready [.one (.h 1), .pair (.q 0)] .none ∧ fld ((wTree rootCtl []).first [.one (.h 1), .pair (.q 0)] .none) 0 8 = 0 ∧
      bit ((wTree rootCtl []).rtree 0 0).1 20 = true ∧ bit ((wTree rootCtl []).rtree 0 0).1 4 = true ∧
      ((wTree rootCtl []).router 0).waiting = [] ∧ (wTree rootCtl []).me.wait = none ∧
      readyB (wWait .reduction false (wTree rootCtl [])) [.one (.h 1), .pair (.q 0)] .none = true ∧
      ((wWait .reduction false (wTree rootCtl [])).me.wait.map fun y => y.what) = some .reduction ∧ bit (w0.rtree 0 0).1 20 = false ∧ (w0.take (causeOf .rtTreeInvalid 0 0)).2 = false :=
  ⟨ready_of (by decide +kernel), by decide +kernel⟩

/-- A contribution of core 0 to tree 0. -/
def contrib0 : Contrib := ⟨0, true, 0, WsPair.zero, 0⟩

theorem witness_MessagesArriveAndReduce_rounds :
    ((wTree rootCtl [contrib0]).router 0).waiting = [] ++ contrib0 :: [] ∧ ((wTree rootCtl [contrib0]).router 0).round = [] ∧
      (∀ i, i < 16 → bit ((wTree rootCtl []).rtree 0 0).1 (4 + i) = true → i = 0) ∧
      (∀ i, i < 4 → bit ((wTree rootCtl []).rtree 0 0).1 i = false) ∧ bit ((wTree rootCtl []).rtree 0 0).1 21 = true ∧
      bit ((wTree pairCtl []).rtree 0 0).1 5 = true ∧ bit ((wTree childCtl []).rtree 0 0).1 21 = false ∧
      linkTo 0 (fld ((wTree childCtl []).rtree 0 0).1 22 2) = some 1 ∧
      (∀ o ∈ [0, 8, 16], w0.place 0 (fld ((wTree rootCtl []).rtree 0 0).2 0 52 + o) = .spad (k0 + o)) ∧
      isOk (((w0.write (k0 + 16) 8 (wordOf (2 ^ 40))).setTag (k0 + 16) 2).arrive (.spad (k0 + 16)) 16 1 0) = true := by decide +kernel

/-- w0 with a message on its way to core 0 or the kiosk. -/
def wMsg (dest : Nat) : State := { w0 with msgs := [⟨dest, ⟨1, 7, 0, false, 0, [9]⟩, false⟩] }

theorem witness_MessagesArriveAndReduce_accept :
    (wMsg 0).msgs = [] ++ ⟨0, ⟨1, 7, 0, false, 0, [9]⟩, false⟩ :: [] ∧ ((wMsg 0).core 0).hasRoom ⟨1, 7, 0, false, 0, [9]⟩ = true ∧
      (wMsg 0x3FFF).msgs = [] ++ ⟨0x3FFF, ⟨1, 7, 0, false, 0, [9]⟩, false⟩ :: [] := by decide +kernel

/-- w0 with an inline message whose first slot is given. -/
def wInl (slot : Word) : State :=
  w0.updMe fun k => { k with disp := { k.disp with inbox := [⟨1, 7, 0, true, 0, [slot, 0, 0]⟩] } }

theorem witness_MessagesArriveAndReduce_inline :
    (wInl 0xB5000000).me.disp.inbox = [] ++ ⟨1, 7, 0, true, 0, [0xB5000000, 0, 0]⟩ :: [] ∧ (wInl 0).me.inl = none ∧ (wInl 0).me.trapping = none ∧
      (wInl 0).me.inlHold = false ∧ (wInl 0).me.cmask.getLsbD 1 = false ∧
      decodeWord ((⟨1, 7, 0, true, 0, [0xB5000000, 0, 0]⟩ : Message).slot 0) = .hret ∧
      decodeWord ((⟨1, 7, 0, true, 0, [0xDE000001, 0, 0]⟩ : Message).slot 0) = .gate 1 ∧ inlineAllows (.gate 1) = false :=
  ⟨by decide +kernel, by decide +kernel, by decide +kernel, by decide +kernel, rfl, rfl, by decide +kernel⟩

/-! ## Tasks and launches -/

/-- w0 with a deque of 8 slots at 0x4000 of the private scratchpad, with a head and a tail. -/
def wDq (head tail : Nat) : State :=
  w0.updMe fun k => { k with dqcfg := wordOf (2 ^ 24 + 3 * 2 ^ 20 + 0x100 * 2 ^ 6), dqpos := wordOf (head + tail * 2 ^ 32) }

/-- What every statement about task instructions asks for. -/
def taskB (s : State) : Bool :=
  Memory.wf s.mem && SMap.wf tagEmpty s.tags && SMap.wf false s.poison && s.mayRetire && s.me.act.isSome && s.me.inl.isNone &&
  s.me.flight.isEmpty && s.me.causes.isEmpty && decide (s.me.storesOut = 0)

/-- The key of a deque slot. -/
def slotKey (pos : Nat) : Nat := privBase 0 + (0x100 * 64 + 64 * (pos % 2 ^ 3)) % 0x20000

theorem witness_TaskInstructionsRun_spawn :
    taskB (wDq 0 7) = true ∧ bit (wDq 0 7).me.dqcfg 24 = true ∧ readyB (wDq 0 7) [.one (.h 1)] .none = true ∧
      readyB (wDq 0 7) [.one (.h 1), .one (.h 13), .one (.h 14), .one (.h 15)] .none = true ∧ (13 : Fin 16).val + 3 ≤ 16 ∧
      (fld (wDq 0 7).me.dqpos 32 32 + 2 ^ 32 - fld (wDq 0 7).me.dqpos 0 32) % 2 ^ 32 < 2 ^ fld (wDq 0 7).me.dqcfg 20 4 ∧
      (∀ j, j < 8 → (wDq 0 7).tagAt (slotKey 7 + 8 * j) ≠ tagArrival) ∧ (wDq 0 7).parked.isEmpty = true ∧
      bit w0.me.dqcfg 24 = false ∧ (w0.take (causeOf .dequeFull 0 0)).2 = false ∧
      2 ^ fld (wDq 0 8).me.dqcfg 20 4 ≤ (fld (wDq 0 8).me.dqpos 32 32 + 2 ^ 32 - fld (wDq 0 8).me.dqpos 0 32) % 2 ^ 32 := by decide +kernel

theorem witness_TaskInstructionsRun_take :
    (wDq 0 1).Ready [] (.run (.h 8) 5) ∧ (fld (wDq 0 1).me.dqpos 32 32 + 2 ^ 32 - fld (wDq 0 1).me.dqpos 0 32) % 2 ^ 32 ≠ 0 ∧
      w0.Ready [] (.run (.h 0) 5) ∧ bit w0.me.dqcfg 24 = false ∧ w0.Ready [.one .z] (.run (.h 4) 5) ∧ w0.me.wait = none ∧
      (w0.first [.one .z] (.run (.h 4) 5)).toNat < 8 ∧ 8 ≤ (w0.first [.one (.h 1)] (.run (.h 4) 5)).toNat ∧
      (w0.take (causeOf .badOperand 0 0)).2 = false ∧ w0.Ready [] (.one .push) :=
  ⟨ready_of (by decide +kernel), by decide +kernel, ready_of (by decide +kernel), by decide +kernel, ready_of (by decide +kernel),
    by decide +kernel, by decide +kernel, by decide +kernel, by decide +kernel, ready_of (by decide +kernel)⟩

/-- w0 at the `yield` of a yield block. -/
def wYield : State := w0.updCtx fun c => { c with kind := .yield }

theorem witness_TaskInstructionsRun_yield :
    taskB wYield = true ∧ 1 ≤ (4096 : BitVec 13).toNat ∧ (4096 : BitVec 13).toNat ≤ 4096 ∧ wYield.ctx.kind = .yield ∧
      wYield.ctx.pc = wYield.ctx.hdr + 8 ∧ wYield.requested wYield.cur = false ∧ w0.ctx.kind ≠ .yield ∧
      (w0.take (causeOf .yieldPlacement 0 0)).2 = false ∧ 4096 < (4097 : BitVec 13).toNat ∧
      (w0.take (causeOf .reservedField 0 0)).2 = false := by decide +kernel

theorem witness_TaskInstructionsRun_tready :
    ∃ s2, taskB w0 = true ∧ w0.Ready [.one (.h 1)] (.one .push) ∧
      (w0.readied [.one (.h 1)] (.one .push)).accepts (w0.first [.one (.h 1)] (.one .push)) 64 .w (x0 .w) ∧
      (w0.readied [.one (.h 1)] (.one .push)).takes [(x0 .w).place] ∧
      (w0.readied [.one (.h 1)] (.one .push)).spendAll (clusterOf w0.cur)
        [(w0.first [.one (.h 1)] (.one .push), (x0 .w).place, 64)] = .ok s2 :=
  ⟨_, by decide +kernel, ready_of (by decide +kernel), accepts_of (by decide +kernel), takes_of (by decide +kernel), rfl⟩

/-- w0 waiting at the pergola root, served or not. -/
def wPop (sv : Served) : State :=
  w0.updMe fun k => { k with wait := some ⟨.dieQueue, true, 0, 0, sv, true, 0, .run (.h 8) 5, []⟩ }

theorem witness_TaskInstructionsRun_qdie :
    taskB (wPop .no) = true ∧ ((wPop .no).me.wait.map fun w => (w.what, w.bounded, w.served, w.dests)) =
        some (.dieQueue, true, .no, .run (.h 8) 5) ∧ (8 : Fin 16).val + 5 ≤ 16 ∧
      (wPop (.value 0)).Ready [.one .z] (.run (.h 8) 5) ∧ ((wPop (.value 0)).me.wait.map fun w => w.served) = some (.value 0) ∧
      (wPop (.value 0)).place 0 (0 : Word).toNat = .hbm hbmBase :=
  ⟨by decide +kernel, by decide +kernel, by decide, ready_of (by decide +kernel), by decide +kernel⟩

/-- w0 with the words of a launch descriptor returned. -/
def wLd (g0 : Nat) : State :=
  w0.updMe fun k => { k with wait := some ⟨.loads, false, 0, 0, .no, true, 0, .none,
    [(0, some (wordOf g0)), (1, some (privAlias 0x200)), (2, some 0), (3, some 0), (4, some 0), (5, some 0), (6, some 0), (7, some 0)]⟩ }

theorem witness_TaskInstructionsRun_launch :
    taskB (wLd 0) = true ∧ (wLd 0).Ready [.one (.h 1)] (.one .push) ∧ ((wLd 0).first [.one (.h 1)] (.one .push)).toNat % 64 = 0 ∧
      ((wLd 0).me.wait.map fun w => (w.what, w.vals.map Prod.snd)) =
        some (.loads, [0, privAlias 0x200, 0, 0, 0, 0, 0, 0].map some) ∧
      ldBad [0, privAlias 0x200, 0, 0, 0, 0, 0, 0] = none ∧ ldBad [0x80000000, privAlias 0x200, 0, 0, 0, 0, 0, 0] = some 0 ∧
      ((wLd 0).part 0).pceil < fld (wordOf 8) 3 6 ∧ ldBad [8, privAlias 0x200, 0, 0, 0, 0, 0, 0] = none ∧
      (wLd 0).inPart 0 (fld (0 : Word) 16 14) = true ∧
      (wLd 0).engineFull (((wLd 0).readied [.one (.h 1)] (.one .push)).homeOf [0, privAlias 0x200, 0, 0, 0, 0, 0, 0]) = false ∧
      ((wLd 0).die (((wLd 0).readied [.one (.h 1)] (.one .push)).homeOf [0, privAlias 0x200, 0, 0, 0, 0, 0, 0])).backlog = [] ∧
      ((wLd 0).take (causeOf .launchPrio 0 (wordOf 1))).2 = false :=
  ⟨by decide +kernel, ready_of (by decide +kernel), by decide +kernel⟩

/-! ## Dispatchers -/

/-- Core 0 idle, with its deque. -/
def wIdle (head tail : Nat) : State := (wDq head tail).updMe fun k => { k with act := none }

/-- What every statement about an idle core asks for. -/
def idleB (s : State) : Bool :=
  Memory.wf s.mem && SMap.wf tagEmpty s.tags && SMap.wf false s.poison && s.coreLive s.cur && s.me.act.isNone && s.me.inl.isNone &&
  s.me.trapping.isNone && s.me.disp.asking.isNone && !s.halted s.cur && s.me.disp.stage.isNone && s.me.disp.inbox.isEmpty &&
  s.parked.isEmpty

/-- Core 0 idle, with an activation suspended in its save area. -/
def wSusp : State := (wIdle 0 0).updMe fun k => { k with susp := some (placedAct w0) }

theorem witness_DispatchersChooseWork_resume :
    [idleB wSusp, wSusp.me.susp == some (placedAct w0), (placedAct w0).ending == none, wSusp.me.suspCtx.fresh == none,
      !wSusp.requested wSusp.cur, wSusp.me.chan.inbox == [], wSusp.tagAt (saveArea 0 + 0x100) != tagPoison,
      wSusp.tagAt (saveArea 0 + 0x108) != tagPoison].all id = true := by decide +kernel

/-- Core 0 idle, with launch 1 targeted at it. -/
def wTgt : State := { (wIdle 0 0).updMe fun k => { k with disp := { k.disp with targeted := [1] } } with launches := [(1, launch0)] }

theorem witness_DispatchersChooseWork_select :
    idleB wTgt = true ∧ wTgt.me.susp = none ∧ wTgt.me.disp.targeted = [] ++ 1 :: [] ∧ wTgt.launch? 1 = some launch0 ∧ launch0.prio < 64 ∧
      (∀ b, b < 4 → bit (vget 0 wTgt.me.rring b) 24 = false) ∧ fld wTgt.me.dord 0 2 = 0 ∧ idleB (wIdle 0 1) = true ∧
      (wIdle 0 1).me.disp.targeted = [] ∧ (wIdle 0 1).me.susp = none ∧ bit (wIdle 0 1).me.dqcfg 24 = true ∧
      (fld (wIdle 0 1).me.dqpos 32 32 + 2 ^ 32 - fld (wIdle 0 1).me.dqpos 0 32) % 2 ^ 32 ≠ 0 := by decide +kernel

/-- Core 1 asks core 0 for a task. -/
def wThief (head tail : Nat) : State := (wDq head tail).updCore 1 fun k => { k with disp := { k.disp with asking := some 0 } }

theorem witness_DispatchersChooseWork_steal :
    (wThief 0 1).coreLive (wThief 0 1).cur = true ∧ ((wThief 0 1).core 1).disp.asking = some (wThief 0 1).cur ∧ 1 ≠ (wThief 0 1).cur ∧
      ((wThief 0 1).core 1).inl = none ∧ bit (wThief 0 1).me.dqcfg 24 = true ∧
      (fld (wThief 0 1).me.dqpos 32 32 + 2 ^ 32 - fld (wThief 0 1).me.dqpos 0 32) % 2 ^ 32 = 1 ∧
      (fld (wThief 0 0).me.dqpos 32 32 + 2 ^ 32 - fld (wThief 0 0).me.dqpos 0 32) % 2 ^ 32 = 0 := by decide +kernel

/-- A ready push waits at core 0, whose ring 0 has 16 entries at 0x5000. -/
def wRing : State :=
  w0.updMe fun k => { k with
    disp := { k.disp with pushes := [⟨k0, 0⟩] }
    rring := vset k.rring 0 (wordOf (2 ^ 24 + 4 * 2 ^ 20 + 0x5000 / 8 * 2 ^ 3)) }

theorem witness_DispatchersChooseWork_push :
    wRing.me.disp.pushes = ⟨k0, 0⟩ :: [] ∧ fld (wRing.word (k0 + 56)) 58 6 / 16 = 0 ∧ bit (vget 0 wRing.me.rring 0) 24 = true ∧
      (fld (vget 0 wRing.me.rrpos 0) 32 32 + 2 ^ 32 - fld (vget 0 wRing.me.rrpos 0) 0 32) % 2 ^ 32 < 2 ^ fld (vget 0 wRing.me.rring 0) 20 4 ∧
      wRing.parked.isEmpty = true := by decide +kernel

/-- Core 0 waits at the root of die 0, whose queue has one slot at HBM address 0. -/
def wRoot (qdie : Bool) : State :=
  (wPop .no).updDie 0 fun d => { d with
    regs := [(0x1000, 4)], pops := [⟨0, 0, qdie⟩], pgpos := vset d.pgpos 0 (wordOf (2 ^ 32)) }

theorem witness_DispatchersChooseWork_pop :
    ((wRoot true).die 0).pops = [] ++ ⟨0, 0, true⟩ :: [] ∧ fld (SMap.get 0 ((wRoot true).die 0).regs (0x1000 + 32 * 0)) 0 5 = 4 ∧
      (fld (vget 0 ((wRoot true).die 0).pgpos 0) 32 32 + 2 ^ 32 - fld (vget 0 ((wRoot true).die 0).pgpos 0) 0 32) % 2 ^ 32 ≠ 0 ∧
      (wRoot true).me.wait.isSome = true ∧ ((wRoot true).core 0).inl = none ∧ (wRoot false).place 0 0 = .hbm hbmBase := by decide +kernel

/-- Core 0 at a `yield` with a pre-emption request. -/
def wPre : State :=
  ((w0.updCtx fun c => { c with latch := some (.yield 1), kind := .yield }).updDie 0 fun d => { d with preq := [(0, 1)] })

theorem witness_DispatchersChooseWork_preempt :
    wPre.Canonical ∧ wPre.coreLive wPre.cur = true ∧ wPre.me.act.isSome = true ∧ wPre.me.susp = none ∧ wPre.me.inl = none ∧
      wPre.me.trapping = none ∧ wPre.requested wPre.cur = true ∧ wPre.me.ctx.latch = some (.yield 1) ∧ wPre.me.flight = [] ∧
      wPre.me.mx.inbox = [] ∧ wPre.me.chan.inbox = [] ∧ wPre.me.wait = none ∧
      (∀ a, a < 4 → (vget Accum.reset wPre.me.mx.accs a).cond = .clean) ∧ wPre.halted wPre.cur = false ∧ wPre.parked = [] ∧
      wPre.me.ctx.trellis.length ≤ 16 ∧ wPre.me.ctx.loops.length ≤ 4 :=
  ⟨canonical_of (by decide +kernel), by decide +kernel⟩

/-! ## Launches and grids -/

/-- Launch 1 at the engine of die 0. -/
def wEng (l : Launch) : State := { (w0.updDie 0 fun d => { d with engine := [1] }) with launches := [(1, l)] }

theorem witness_LaunchesProceed_enqueue :
    (wEng { launch0 with phase := .queued }).Canonical ∧
      (wEng { launch0 with phase := .queued }).launch? 1 = some { launch0 with phase := .queued } ∧
      ((wEng { launch0 with phase := .queued }).die 0).engine = 1 :: [] ∧ launch0.home = 0 ∧ launch0.badCause = none ∧
      launch0.any = false ∧ launch0.target.toNat % 64 = 0 ∧ (privAlias 0x208).toNat % 64 ≠ 0 ∧
      ((wEng { launch0 with phase := .serial }).core launch0.core).disp.targeted.length < 4 ∧
      1 ∉ ((wEng { launch0 with phase := .queued }).die 0).backlog ∧ launch0.refused = false :=
  ⟨canonical_of (by decide +kernel), by decide +kernel⟩

theorem witness_LaunchesProceed_retire :
    launch0.phase = .running ∧ launch0.kind = 0 ∧ launch0.live = 0 ∧ launch0.closed = true ∧ launch0.groups = [] ∧ launch0.dirty = [] ∧
      launch0.dirtyNm = [] ∧ launch0.parent = none ∧ launch0.stage = none ∧ launch0.compl = none ∧
      (∀ i, i < 8 → w0.place 0 (k0 + 8 * i) = .spad (k0 + 8 * i) ∧ (k0 + 8 * i) % 8 = 0 ∧ w0.tagAt (k0 + 8 * i) ≠ tagArrival) ∧
      w0.parked = [] := by decide +kernel

theorem witness_LaunchesProceed_signal :
    launch0.signal = none ∧ launch0.msix = none ∧ k0 % 8 = 0 ∧ w0.place 0 k0 = .spad k0 ∧
      isOk (((w0.write k0 8 (arrW 0)).setTag k0 2).arrive (.spad k0) 1 1 0) = true ∧ w0.host.pending = [] := by decide +kernel

/-- A 4 by 1 by 1 grid with the vector (1, 0, 0), and groups of one team of one core, at 0x200. -/
def gridWords0 : List Word := [1, wordOf (3 + 2 ^ 60), privAlias 0x200, wordOf (1 + 2 ^ 6 + 2 ^ 13), 1, 0, 0, 0]

def gridL (g : Group) : Launch :=
  { launch0 with kind := 1, closed := false, groups := [g], gridWords := gridWords0, gridDesc := k0, part := 1 }

/-- The grid as launch 1 on board 0 of die 0, with group 0 in a phase; core 5 is an idle pool core of its partition. -/
def wGrid (phase : GroupPhase) (live : List Nat) (closed : Bool) : State :=
  let g : Group := ⟨0, phase, 0, if phase = .released then [] else [⟨[5], live, 0, Barrier.empty, 0, false⟩], Barrier.empty, 0, [], []⟩
  { ((w0.updCore 5 fun k => { k with dord := 4, pid := 1 }).updDie 0 fun d => { d with
      boards := vset d.boards 0 ⟨some 1, k0, [], closed, false⟩ }) with
    launches := [(1, gridL g)]
    parts := [(1, ⟨true, [0], 0, 0, privBase 0 + 0x8000, 0x8000, 0, [], []⟩)] }

/-- What every statement about the grid asks for. -/
def gridB (s : State) : Bool :=
  Memory.wf s.mem && SMap.wf tagEmpty s.tags && SMap.wf false s.poison &&
  match s.launch? 1 with
  | none => false
  | some l => (l.group? 0).isSome && decide (l.groups.length = 1) && decide (l.home < 4) && decide (l.slot < 8) &&
      decide ((vget Board.reset (s.die l.home).boards l.slot).launch = some 1)

theorem witness_GridsAdvance_place :
    gridB (wGrid .released [] false) = true ∧
      ((wGrid .released [] false).launch? 1).bind (wGrid .released [] false).groupPlace = some (0, [[5]]) ∧
      (((wGrid .released [] false).launch? 1).map fun l => ((l.group? 0).map fun g => (g.phase, g.desc), l.kind, l.closed)) =
        some (some (.released, 0), 1, false) ∧
      (vget Board.reset ((wGrid .released [] false).die 0).boards 0).closed = false ∧
      ((wGrid .released [] false).part 1).clusters.Nodup ∧ (wGrid .released [] false).ends (isMemberOf 1 0) = false ∧ 0 < gridCores gridWords0 ∧
      (wGrid .released [] false).arenaFind 1 (groupBytes gridWords0) = some (privBase 0 + 0x8000) := by decide +kernel

theorem witness_GridsAdvance_retire :
    gridB (wGrid .running [] false) = true ∧
      (((wGrid .running [] false).launch? 1).map fun l => ((l.group? 0).map fun g => (g.phase, g.teams.map fun t => t.live, g.dirty)))
        = some (some (.running, [[]], [])) ∧ gridB (wGrid .released [] true) = true ∧ bit (1 : Word) 0 = true ∧ bit (0 : Word) 0 = false := by decide +kernel

/-- A member of the grid's group 0 on core 0. -/
def wMember : State :=
  { wGrid .running [0] false with cores := SMap.put (wGrid .running [0] false).cores 0 { w0.me with
      act := some { placedAct w0 with gang := some (1, 0, 0, 0) }, ctx := { w0.ctx with lgrid := wordOf k0 } } }

theorem witness_GridsAdvance_gid :
    wMember.mayRetire = true ∧ wMember.Ready [] (.one .push) ∧ wMember.ctx.lgrid ≠ 0 ∧ (wMember.me.act.map fun x => x.gang) =
      some (some (1, 0, 0, 0)) ∧ gridB wMember = true ∧ w0.ctx.lgrid = 0 ∧ (w0.take (causeOf .privInstr 0 0)).2 = false ∧
      (w0.take (causeOf .reservedField 0 0)).2 = false := by
  refine ⟨?_, ready_of ?_, ?_, ?_, ?_, ?_, ?_, ?_⟩ <;> decide +kernel

/-! ## Stages -/

/-- A stage descriptor at 0x1000 of cluster 0's shared scratchpad, its queues beyond. -/
def kD : Nat := sharedBase 0 + 0x1000
def stage0 : Stage :=
  ⟨1, 0, 0, false, sharedBase 0 + 0x2000, sharedBase 0 + 0x2040,
    [wordOf (1 + 2 ^ 3 + 8 * 2 ^ 12 + 2 * 2 ^ 18 + 2 ^ 22), 0, 0, 0, 1, 0, 0, 0], [(0, sharedBase 0 + 0x3000)], none, [], []⟩

/-- A stage with its control word, entry 0 (and entry 1, where asked), slots of 2 words in four-slot queues, and an overload
depth; core 0 holds its address in h1. -/
def wStage (ctl : Nat) (entries : List Word) (tail : Word) : State :=
  let q := fun off => putAll (sharedBase 0 + off) [privAlias (0x200000 + off + 0x1000), wordOf (4 + 2 * 2 ^ 32), 0, tail, 0]
  { putAll kD ([wordOf ctl, 0, 0, 0, wordOf (1 + 0 * 2 ^ 16), 0, 0, 0] ++ entries) (q 0x2000 (setH 1 (privAlias 0x201000) w0)) with
    stages := [(kD, stage0)] }

/-- STATE 1, keys of 8 bits in record word 1, one twin more allowed, a number of instances. -/
def ctl0 (n : Nat) : Nat := 1 + 2 ^ 3 + 8 * 2 ^ 12 + 2 * 2 ^ 18 + n * 2 ^ 22

/-- An entry: its core, its queue, its bound. -/
def entry0 (core q bound : Nat) : Word := wordOf (core + q * 2 ^ 14 + 2 ^ 19 + bound * 2 ^ 20)

/-- What every statement about the stage asks for, attached or not. -/
def descB (s : State) : Bool :=
  Memory.wf s.mem && SMap.wf tagEmpty s.tags && SMap.wf false s.poison && decide (unitOf kD = 16) && decide (unitOf (kD + 127) = 16) &&
  decide (kD % 64 = 0) && s.parked.isEmpty && (List.range 16).all (fun i => s.tagAt (kD + 8 * i) != tagPoison) && s.mayRetire

def stageB (s : State) : Bool := descB s && (s.stage? kD).isSome

/-- The stage's address translated. -/
def xD (right : Right) : Xlated := xAt w0 (privAlias 0x201000) right

/-- An instruction over h1, and over a second operand, reaches the descriptor. -/
def hereB (s : State) (us : List Use) (d : DestSpec) (right : Right) : Bool :=
  readyB s us d && acceptsB (s.readied us d) (s.first us d) 64 right (xD right) &&
  !(s.readied us d).mustWait (xD right).strong (xD right).pa && decide ((xD right).place = .spad kD)

/-- One instance, on core 3. -/
def wOne : State := wStage (ctl0 1) [entry0 3 0 0] 0

/-- The stage closed. -/
def wShut : State := wStage (ctl0 1 + 2 ^ 26) [entry0 3 0 0] 0

theorem witness_StagesTakeRecords_put :
    let us := [Use.one (.h 1), .one (.h 15)]
    [stageB wOne, stageB wShut, hereB wOne us (.one .push) .w, wOne.me.wait == none, fld (wOne.stWord kD 0) 3 3 == 1,
      fld (wOne.stWord kD 0) 12 6 == 8, fld (wOne.stWord kD 0) 6 6 + 8 ≤ 64, fld (wOne.word (stage0.inq + 8)) 32 16 == 2,
      (15 : Fin 16).val + (2 - 1) ≤ 16, fld (wOne.word (stage0.inq + 8)) 0 32 == 2 ^ 2, fld (wOne.word (stage0.inq + 8)) 48 16 == 0,
      wOne.word (stage0.inq + 32) == 0, wOne.me.flight == [], wOne.me.storesOut == 0,
      stage0.resolved (wOne.stQueueFor kD (wOne.stKey kD (((wOne.readied us (.one .push)).me.vals [] us).drop 1))).1,
      fld (wOne.word kD) 0 2 == 1, !bit (wOne.word kD) 26,
      hereB wShut us (.one .push) .w, bit (wShut.word kD) 26, !(wShut.take (causeOf .queueClosed (privAlias 0x201000) 0)).2,
      hereB wShut [.one (.h 1)] .none .w, !(wShut.take (causeOf .stageState (privAlias 0x201000) 1)).2,
      hereB wOne [.one (.h 1)] .none .w, hereB wOne [.one (.h 1)] (.one .push) .r].all id = true := by decide +kernel

/-- A put of core 0 waits at the stage's home. -/
def wPut (sv : Served) : State :=
  { wOne with puts := [⟨0, kD, 0, 0, [5]⟩] }.updMe fun k => { k with wait := some ⟨.stagePut, true, 0, 0, sv, true, 0, .none, []⟩ }

theorem witness_StagesTakeRecords_apply :
    (wPut .no).puts = [] ++ ⟨0, kD, 0, 0, [5]⟩ :: [] ∧ readyB (wPut (.value 0)) [] (.one .push) = true ∧
      [stageB (wPut .no), (wPut .no).stQueueFor kD ((wPut .no).stKey kD [5]) == (0, false),
        !bit ((wPut .no).word (stage0.inq + 32)) 0, stage0.resolved 0,
        ((wPut .no).word (stage0.queue 0 + 24) - (wPut .no).word (stage0.queue 0 + 16)).toNat
          < fld ((wPut .no).word (stage0.queue 0 + 8)) 0 32,
        (List.range 2).all fun i => (wPut .no).stSlotWord stage0 0 0 i == sharedBase 0 + 0x3000 + 8 * i,
        (sharedBase 0 + 0x3000) % 8 == 0, stage0.queue 0 % 64 == 0, kD + 128 ≤ stage0.queue 0,
        stage0.queue 0 + 64 ≤ sharedBase 0 + 0x3000, (wPut .no).me.inl == none].all id = true := by decide +kernel

/-- wOne with two records in its queue and an overload depth. -/
def wOver : State := { wStage (ctl0 1) [entry0 3 0 0] 2 with stages := [(kD, { stage0 with words := stage0.words.set 4 (wordOf (1 + 2 ^ 32)) })] }

theorem witness_StagesTakeRecords_overload :
    [stageB wOver, fld (wOver.stWord kD 4) 32 16 == 1, !bit (wOver.word kD) 2, decide (0 ∈ wOver.stInstances kD),
      1 ≤ (wOver.word (stage0.queue 0 + 24) - wOver.word (stage0.queue 0 + 16)).toNat].all id = true := by decide +kernel

/-- The stage in a partition that holds cluster 0, whose core 2 is an idle pool core; h2 holds a key or an entry's number. -/
def wTwin (n : Nat) (entries : List Word) (arg : Nat) : State :=
  { setH 2 (wordOf arg) (wStage (ctl0 n) entries 0) with parts := [(0, ⟨true, [0], 0, 0, 0, 0, 0, [], []⟩)] }.updCore 2 fun k =>
    { k with dord := 4 }

/-- The order's instruction reaches the descriptor with its argument. -/
def orderB (s : State) (arg : Nat) : Bool :=
  let us := [Use.one (.h 1), .one (.h 2)]
  descB s && hereB s us (.one .push) .w && decide ((s.second us (.one .push)).toNat = arg)

theorem witness_TwinsAndMergesAreOrdered_begun :
    let s := wTwin 1 [entry0 3 0 0] 200
    let t := wTwin 2 [entry0 3 0 0, entry0 4 1 100] 1
    [orderB s 200, stageB s, fld (s.word kD) 0 2 == 1, !bit (s.word kD) 26, 200 < 2 ^ fld (s.stWord kD 0) 12 6,
      (List.range 8).all fun i => !bit (s.word (kD + 64 + 8 * i)) 19 || (i == 0 && fld (s.word (kD + 64)) 20 44 != 200),
      s.stRoute kD 200 == 0, fld (s.word kD) 22 4 < min 8 (fld (s.stWord kD 0) 18 4), s.freeCore 0 0 == some 2,
      fld (s.word (kD + 64)) 0 14 == 3, fld (s.word (kD + 64)) 14 3 == 0,
      orderB t 1, stageB t, fld (t.word kD) 0 2 == 1, !bit (t.word kD) 26, fld (t.word kD) 22 4 == 2].all id = true := by
  decide +kernel

/-- A refusal takes its cause in a state. -/
def refusedB (s : State) (c : Cause) (info : Nat) : Bool := !(s.take (causeOf c (privAlias 0x201000) (wordOf info))).2

theorem witness_TwinsAndMergesAreOrdered_refused :
    let bare := { wTwin 1 [entry0 3 0 0] 200 with stages := [] }
    let shut := wTwin 4 [entry0 3 0 0] 200
    let low := wTwin 1 [entry0 3 0 0] 0
    let many := wTwin 2 [entry0 3 0 0, entry0 4 1 100] 200
    [orderB bare 200, bare.stage? kD == none, refusedB bare .stageState (fld (bare.word kD) 0 2),
      orderB (wTwin (1 + 2 ^ 4) [entry0 3 0 0] 200) 200, stageB shut, bit ((wTwin (1 + 2 ^ 4) [entry0 3 0 0] 200).word kD) 26,
      refusedB shut .stageState 1, orderB low 0, stageB low, fld (low.word (kD + 64)) 20 44 == 0, bit (low.word (kD + 64)) 19,
      fld (low.word kD) 0 2 == 1, !bit (low.word kD) 26, refusedB low .badOperand 0, orderB many 200, stageB many,
      min 8 (fld (many.stWord kD 0) 18 4) ≤ fld (many.word kD) 22 4, 200 < 2 ^ fld (many.stWord kD 0) 12 6,
      refusedB many .stageTwin 2].all id = true := by decide +kernel

/-! ## Floating-point instructions -/

theorem witness_RoundingIsCorrect :
    Fmt.e2m1 ∈ [Fmt.f64, .f32, .f16, .bf16, .e5m2, .e4m3, .e2m1] ∧ (5 : Nat) ≠ 0 ∧
      (Fmt.e2m1.round 0 false false 5 0).flags.getLsbD 2 = false ∧ (Fmt.e4m3.round 1 true true 1000 0).flags.getLsbD 2 = true ∧
      (Fmt.e2m1.round 3 false false 5 0).flags.getLsbD 4 = true ∧ 1 % 2 = 1 := by decide +kernel

theorem witness_SumsAndProductsAreExact :
    (let k : Int := ((2 : Int).natAbs : Int) + (0 : Int).natAbs
     let units := fun (neg : Bool) (m : Nat) (e : Int) => (if neg then -1 else 1 : Int) * (m * 2 ^ (e + k).toNat : Nat)
     0 ≤ (0 : Int) + k ∧ (11 : Nat) ≠ 0 ∧ units false 11 0 = units false 3 2 + units true 1 0 ∧
       units false 3 2 + units true 12 0 = 0) ∧ (3 : Nat) * 1 ≠ 0 ∧ (3 : Nat) * 0 = 0 ∧ (Fp.inf true).isNan = false ∧
      false ≠ true := by decide +kernel

/-- w0 with a format in FMT and with flags and trap enables in FPS. -/
def wFp (fmt fps : Word) : State := w0.updCtx fun c => { c with fmt := fmt, fps := fps }

theorem witness_LanewiseInstructions :
    (wFp 5 0).mayRetire = true ∧ readyB (wFp 5 0) [.one (.h 1)] (.one .push) = true ∧
      readyB (wFp 5 0) [.one (.h 1), .one .z] (.one .push) = true ∧
      readyB (wFp 5 0) [.one (.h 1), .one (.h 2), .one (baseOf (.h 3))] (.one (.h 3)) = true ∧
      (wFp 5 0).format 0 = 5 ∧ (wFp 5 0).format 1 = 1 ∧ (wFp 0 0).format 0 = 0 ∧ (wFp 5 0).format 7 = 7 ∧
      ((wFp 5 0).take (causeOf .fmtIllegal 0 7)).2 = false ∧ 6 ≤ (6 : BitVec 3).toNat ∧
      ((wFp 5 0).take (causeOf .reservedField 0 0)).2 = false := by decide +kernel

theorem witness_LanewiseInstructions_traps (n : Nat) (hn : n < 5) :
    State.untrapped (wFp 5 0) [flDZ, flOF ||| flNX] ∧ raisedBy [BitVec.ofNat 5 (2 ^ n)] n ∧
      bit (wFp 5 (wordOf (2 ^ (5 + n)))).ctx.fps (5 + n) = true ∧
      (∀ m, m < n → bit (wFp 5 (wordOf (2 ^ (5 + n)))).ctx.fps (5 + m) = false) ∧ bit (1 : Word) 0 = true ∧
      ((wFp 5 (wordOf (2 ^ (5 + n)))).take (causeOf (fpCause n) 0 1)).2 = false := by
  refine ⟨fun m hm h => ?_, ⟨_, List.mem_singleton.mpr rfl, ?_⟩, ?_, ?_, by decide, ?_⟩
  · clear h; revert m; decide
  all_goals revert n; decide

theorem witness_LanewiseInstructions_mask :
    ∀ j : Nat, bit (1 : Word) j = true ↔ ∃ f, [flDZ][j]? = some f ∧ f.getLsbD 1 = true := by
  intro j
  by_cases h : j = 0
  · subst h; decide
  · obtain ⟨i, rfl⟩ : ∃ i, j = i + 1 := ⟨j - 1, by omega⟩
    simp [bit]

theorem witness_ConversionsAndPacking :
    (wFp 5 0).mayRetire = true ∧ readyB (wFp 5 0) [.one (.q 3)] (.one (.h 15)) = true ∧
      readyB (wFp 5 0) [.one (.h 1), .one .z] (.one .push) = true ∧ readyB (wFp 5 0) [.one (.h 1), .one (.h 2)] (.one .push) = true ∧
      readyB (wFp 5 0) [.one (.h 1), .one (.h 2), .one (.q 0)] (.one .push) = true ∧
      (wFp 5 0).format 7 = 7 ∧ 64 / (fmtAt 5).width = 8 ∧ 64 / (fmtAt 1).width = 1 ∧ 64 / (fmtAt 7).width = 16 ∧
      (wFp 5 0).format 2 = 2 ∧ ((wFp 5 0).format 2, false, Fmt.f64) ∈ [(2, false, Fmt.f64), (3, false, .f32)] ∧
      ((wFp 5 0).take (causeOf .fmtIllegal 0 7)).2 = false := by decide +kernel

theorem witness_PackedIntegersAndWideSums :
    (wFp 5 0).mayRetire = true ∧ readyB (wFp 5 0) [.one (.h 1), .one (.h 2)] (.one .push) = true ∧ (5 : BitVec 3).toNat < 6 ∧
      readyB (wFp 5 0) [.one (.h 1), .one .z, .one (baseOf (.h 3))] (.one (.h 3)) = true ∧
      readyB (wFp 5 0) [.pair (.h 2), .pair (.q 14)] (.pair .push) = true ∧
      (wsAddOv ⟨1, 0⟩ ⟨0, 0⟩).2 = false ∧ bit (wFp 5 0).ctx.fps 7 = false ∧
      readyB (wFp 5 0) [.pair (.h 2), .one .z] (.pair (.h 14)) = true ∧ readyB (wFp 5 0) [.pair (.h 2), .one .z] (.one .push) = true ∧
      1 ≤ (wFp 5 0).format 0 ∧ (wFp 5 0).format 0 ≤ 6 ∧ fld (wFp 7 0).ctx.fmt 0 3 = 7 ∧ fld (wFp 5 0).ctx.fmt 0 3 = 5 ∧
      readyB (wFp 5 0) [.one (.h 1), .one (.h 2), .one (.h 7)] (.pair .push) = true ∧
      readyB (wFp 5 0) [.one (.h 1), .one (.h 2)] (.pair .push) = true := by decide +kernel

/-- The largest power of two that an anchor holds: its double is beyond the wide sum. -/
def wsTop : WsPair := (wsMake ⟨2 ^ 110, 8192⟩ false).1

/-- w0 with that pair in h2:h3 and in h4:h5, and the overflow trap enabled or not. -/
def wTop (fps : Word) : State := setH 5 wsTop.hi (setH 4 wsTop.lo (setH 3 wsTop.hi (setH 2 wsTop.lo (wFp 5 fps))))

theorem witness_PackedIntegersAndWideSums_traps :
    let y := ((wTop 0x80).readied [.pair (.h 2), .pair (.h 4)] (.pair .push)).me.vals [] [.pair (.h 2), .pair (.h 4)]
    let refuses := fun (s : State) (c : Cause) (info lanes : Word) => !(s.take (causeOf c info lanes)).2
    [(wTop 0x80).mayRetire, readyB (wTop 0x80) [.pair (.h 2), .pair (.h 4)] (.pair .push),
      (wsAddOv ⟨y.getD 0 0, y.getD 1 0⟩ ⟨y.getD 2 0, y.getD 3 0⟩).2, bit (wTop 0x80).ctx.fps 7, !bit (wTop 0).ctx.fps 7,
      (wsMulOv wsTop (.fin false 2 0)).2, refuses (wTop 0x80) .fpOverflow 0 1,
      refuses (wFp 5 0) .reservedField 0 0, refuses (wFp 5 0) .fmtIllegal 0 5, refuses (wFp 0 0) .fmtIllegal 0 0,
      6 ≤ (6 : BitVec 3).toNat, (1 : BitVec 4) != 0, (wFp 0 0).format 0 == 0, (wFp 7 0).format 0 == 7,
      readyB (wFp 0 0) [.pair (.h 2), .one .z] (.one .push), readyB (wFp 7 0) [.pair (.h 2), .one .z] (.one .push),
      readyB (wFp 7 0) [.one (.h 1), .one (.h 2), .one (.h 7)] (.pair .push),
      readyB (wFp 0 0) [.one (.h 1), .one (.h 2)] (.pair .push), refuses (wFp 7 0) .fmtIllegal 0 7].all id = true := by decide +kernel

theorem witness_PackedIntegersAndWideSums_make :
    (0 : Int) = 0 ∧ (-5 : Int) ≠ 0 ∧ (wsMake ⟨-5, 0⟩ true).2 = false ∧ (wsMake ⟨1, 10000⟩ false).2 = true ∧
      WsPair.nan.val = .nan ∧ (WsPair.inf true).val = .inf true ∧ wsTop.val = .fin ⟨2 ^ 110, 8192⟩ false := by decide +kernel

/-! ## System instructions -/

theorem witness_ControlRegisterAccess :
    w0.mayRetire = true ∧ cregRights (0x3FF : BitVec 12).toNat = none ∧ (w0.take (causeOf .reservedField 0 0)).2 = false ∧
      cregRights 2 = some (.u, .u) ∧ cregRights 0x23F = some (.s, .s) ∧ cregRights 1 = some (.u, .none) ∧
      RegRight.admits .s w0.ctx.priv = true ∧ RegRight.admits .s wU.ctx.priv = false ∧ RegRight.admits .none w0.ctx.priv = false ∧
      readyB w0 [] (.one .push) = true ∧ readyB w0 [.one (.h 1)] .none = true ∧ readyB w0 [.one (.h 1)] (.one .push) = true ∧
      readyB wU [] (.one .push) = true ∧ readyB wU [.one (.h 1)] .none = true ∧
      (wU.take (causeOf .privReg 0 (wordOf 0x23F))).2 = false ∧ cregBad 0x600 15 = true ∧ cregBad 0x600 16 = false ∧
      cregBad 2 7 = false ∧ (0x102 : Nat) ∉ [2, 0x201, 0x409] ∧ cregBad 0x102 va0 = false ∧
      w0.first [.one (.h 1)] .none = va0 ∧ bit (0x80000000 : Word) 31 = true := by decide +kernel

/-! ## Translation -/

/-- w0 with an invalidation of one page of ASID 5 in h2:h3, and its arrival word's address in h1. -/
def wXinv : State := setH 3 5 (setH 2 (wordOf (7 * 4096)) w0)

theorem witness_TranslationIsManaged_xinv :
    readyB wXinv [.pair (.h 2), .one (.h 1)] .none = true ∧ wXinv.mayRetire = true ∧ wXinv.ctx.priv = true ∧ wU.ctx.priv = false ∧
      readyB wU [.pair (.h 2), .one (.h 1)] .none = true ∧
      (wU.take (causeOf .privInstr 0 0)).2 = false ∧
      fld (wXinv.second [.pair (.h 2), .one (.h 1)] .none) 18 46 = 0 ∧ fld (wXinv.first [.pair (.h 2), .one (.h 1)] .none) 6 6 = 0 ∧
      fld (wXinv.first [.pair (.h 2), .one (.h 1)] .none) 56 8 = 0 ∧ fld (wXinv.first [.pair (.h 2), .one (.h 1)] .none) 0 6 ≤ 44 ∧
      acceptsB (wXinv.readied [.pair (.h 2), .one (.h 1)] .none) (wXinv.third [.pair (.h 2), .one (.h 1)] .none) 8 .w (x0 .w) = true := by decide +kernel

/-- wU with the unmapped address 0 in h1, and a walk that found no leaf. -/
def wUnmapped : State :=
  setH 1 0 (wU.updCluster 0 fun k => { k with misses := [⟨[0], 0, 0, 0, 0, some (.miss 0 false)⟩] })

theorem witness_TranslationIsManaged_xprobe :
    readyB w0 [.one (.h 1)] (.one .push) = true ∧
      (w0.readied [.one (.h 1)] (.one .push)).translate 0 w0.ctx.priv (w0.first [.one (.h 1)] (.one .push)) .r = .ok (x0 .r) ∧
      (x0 .r).rights < 8 ∧ (x0 .r).attr < 4 ∧ (x0 .r).source < 4 ∧ (x0 .r).pa < 2 ^ 52 ∧
      readyB wUnmapped [.one (.h 1)] (.one .push) = true ∧
      (wUnmapped.readied [.one (.h 1)] (.one .push)).translate 0 wUnmapped.ctx.priv (wUnmapped.first [.one (.h 1)] (.one .push)) .r =
        .fault .xlateMiss (missInfo 0 false) := by decide +kernel

/-- w0 with a miss queued whose walk is not made, of a table at 0 whose entry 0 leads to the table itself and whose entry 5
is a leaf. -/
def wMiss (root : Word) : State :=
  ((w0.write hbmBase 8 1).write (hbmBase + 40) 8 (wordOf (9 * 4096 + 0x1F))).updCluster 0 fun k => { k with
    misses := [⟨[0], 3, root, 0x5000, 0, none⟩] }

theorem witness_TranslationIsManaged_walk :
    ((wMiss 0).cluster 0).misses[0]? = some ⟨[0], 3, 0, 0x5000, 0, none⟩ ∧
      ((wMiss 0).walk (dieOf 0) 0 0x5000).1 = .leaf (wordOf (9 * 4096 + 0x1F)) 12 ∧
      ((wMiss 0x1000).cluster 0).misses[0]? = some ⟨[0], 3, 0x1000, 0x5000, 0, none⟩ ∧
      ((wMiss 0x1000).walk (dieOf 0) 0x1000 0x5000).1 = .miss 4 false := by decide +kernel

/-- w0 with an arrival word and an invalidation on its way. -/
def wInval : State :=
  ((w0.write k0 8 (arrW 0)).setTag k0 tagArrival).updCluster 0 fun k => { k with
    invals := [⟨wordOf (7 * 4096), 0, 5, false, false, (x0 .w).pa, 1, 0⟩], tlb := [⟨5, 7, 12, 1, 0⟩, ⟨6, 7, 12, 1, 0⟩] }

theorem witness_TranslationIsManaged_inval :
    (wInval.cluster 0).invals = ⟨wordOf (7 * 4096), 0, 5, false, false, (x0 .w).pa, 1, 0⟩ :: [] ∧
      wInval.place (0 / 256) (x0 .w).pa = .spad k0 ∧ wInval.tagAt k0 = tagArrival ∧ wInval.parked.isEmpty = true ∧
      arrMode (wInval.word k0) = 0 ∧ arrCount (wInval.word k0) + 1 < arrTarget (wInval.word k0) := by decide +kernel

/-- Granules of partition 1 in quarantine. -/
def wQuar : State := { w0 with tgen := 4, kiosk := { w0.kiosk with quarantine := [⟨8, 2, 1, 3⟩] } }

theorem witness_TranslationIsManaged_quarantine :
    (⟨8, 2, 1, 3⟩ : Quarantined) ∈ wQuar.kiosk.quarantine ∧ 3 < wQuar.qgen := by
  refine ⟨?_, ?_⟩ <;> decide +kernel

/-! ## The ends of activations -/

/-- w0's activation, from a source. -/
def wAct (src : Source) (l : Option Nat) : State :=
  { w0.updMe fun k => { k with act := some { placedAct w0 with source := src, launch := l } } with launches := [(1, launch0)] }

theorem witness_ActivationsAndInlineCodeEnd_done :
    (wAct (.slot k0) (some 1)).me.inl = none ∧ (wAct (.slot k0) (some 1)).mayRetire = true ∧ (wAct (.slot k0) (some 1)).me.flight = [] ∧
      (wAct (.slot k0) (some 1)).me.causes = [] ∧ ((wAct (.slot k0) (some 1)).me.act.map fun x => (x.chLive, x.mxLive, x.nm, x.held)) =
        some (0, 0, [], []) ∧ readyB (wAct (.slot k0) (some 1)) [.one (.h 1)] .none = true ∧ portsOf [.one (.h 1)] = [] ∧
      (wAct (.slot k0) (some 1)).launch? 1 = some launch0 ∧ launch0.parent = none ∧
      (wAct (.tcb k0) none).word (k0 + 48) = 0 ∧ k0 % 64 = 0 ∧ (wAct (.tcb k0) none).parked.isEmpty = true ∧
      Memory.wf (wAct (.tcb k0) none).mem = true := by decide +kernel

/-- The message that inline code runs. -/
def inl0 : Message := ⟨1, 7, 0, true, 0, [wordOf (0xB5000000 + 0xD7000000 * 2 ^ 32)]⟩

/-- w0 with inline code running against its inbox. -/
def wHret : State := w0.updMe fun k => { k with
  inl := some ⟨k.ctx, none, inl0, 1, false⟩, disp := { k.disp with inbox := [{ inl0 with tag := 6 }, inl0] } }

/-- The key of a team's descriptor, and a team that has stopped: its one member, on core 1, stands in a block like that of core 0, and
its checkpoint, in shared scratchpad, leads back to the first instruction with one live register. -/
def wStopped : State :=
  let g : Group := ⟨0, .running, 0, [⟨[1], [1], 0, Barrier.empty, k0, true⟩], Barrier.empty, 0, [], []⟩
  let s := { setH 1 (wordOf k0) w0 with launches := [(1, { launch0 with kind := 1, groups := [g] })] }
  let s := (s.updCore 1 fun _ => { w0.me with act := some { placedAct w0 with gang := some (1, 0, 0, 0) } }).writeWord
    (k0 + 24) (wordOf (sharedBase 0 + 0x4000))
  let s := (s.writeWord (privBase 1) (hdrW 0 0 0)).writeWord (privBase 1 + 8) 0xD7000000
  [(0x18, 77), (0x100, w0.ctx.pc), (0x108, 8), (0x158, 1), (0x1C8, w0.ctx.hdr)].foldl
    (fun s p => s.writeWord (sharedBase 0 + 0x4000 + p.1) p.2) s

/-- The conditions under which the stopped team resumes, with its one member. -/
theorem witness_ActivationsAndInlineCodeEnd_team :
    let s0 := ((wStopped.took [.one (.h 1)] .none).updLaunch 1
      fun x => x.updTeam 0 0 fun tm => { tm with stopped := false, bar := ⟨[], [], []⟩ }).writeWord k0
        (setFld (wStopped.word k0) 5 3 (fld (wStopped.word k0) 5 3 + 1))
    let frame := s0.ckptAt 1 ((wStopped.word (k0 + 24)).toNat + 512 * 0)
    [readyB wStopped [.one (.h 1)] .none, wStopped.ctx.priv, wStopped.mayRetire, wStopped.ctx.pc + 4 == wStopped.ctx.blockEnd,
      wStopped.descKey 0 (wStopped.first [.one (.h 1)] .none) == k0, (wStopped.stoppedTeam k0).map (fun p => (p.1, p.2.1, p.2.2.1)) == some (1, 0, 0),
      (wStopped.stoppedTeam k0).map (fun p => (p.2.2.2.cores, p.2.2.2.live)) == some ([1], [1]), k0 % 8 == 0, wStopped.parked.isEmpty,
      Memory.wf wStopped.mem, SMap.wf tagEmpty wStopped.tags, SMap.wf false wStopped.poison,
      (wStopped.core 1).ctx.len != 0, (wStopped.core 1).inl == none, (frameReads frame).all fun o => (frame o).isSome,
      (s0.resumeBlock 1 ((wStopped.core 1).ctx.priv && bit ((frame 0x158).getD 0) 0) frame).isSome,
      fld ((frame 0x108).getD 0) 3 1 == 1, fld ((frame 0x108).getD 0) 4 1 == 0].all id = true := by decide +kernel

theorem witness_ActivationsAndInlineCodeEnd_hret :
    wHret.me.inl = some ⟨w0.ctx, none, inl0, 1, false⟩ ∧ wHret.me.flight = [] ∧ wHret.me.disp.inbox[1]? = some inl0 ∧
      (∀ j, j < 1 → wHret.me.disp.inbox[j]? ≠ some inl0) ∧ wLong.ctx.pc + 4 ≠ wLong.ctx.blockEnd ∧
      (wLong.take (causeOf .callNotLast 0 0)).2 = false ∧ w0.ctx.pc + 4 = w0.ctx.blockEnd ∧
      readyB wU [.one (.h 1)] .none = true ∧ wU.ctx.priv = false ∧ wU.ctx.pc + 4 = wU.ctx.blockEnd ∧
      (wU.take (causeOf .privInstr 0 0)).2 = false ∧ readyB w0 [.one (.h 1)] .none = true ∧ w0.ctx.priv = true ∧
      w0.stoppedTeam (w0.descKey 0 (w0.first [.one (.h 1)] .none)) = none := by decide +kernel

/-! ## The matrix unit -/

/-- Word 0 of an image: one element of one product, kinds 5 and 5, no scales, output f32. -/
def img (opc : Nat) : Word :=
  wordOf (opc + 5 * 2 ^ 8 + 5 * 2 ^ 11 + 15 * 2 ^ 14 + 2 * 2 ^ 20 + 2 ^ 27 + 2 ^ 32 + 2 ^ 37)

/-- w0 configured for such an image, with the image's first word and a second in h2 and h3. -/
def wMx (x y : Word) : State :=
  (setH 3 y (setH 2 x w0)).updCtx fun c => { c with mx := { c.mx with fmta := 5, fmtb := 5, tdim := wordOf (1 + 2 ^ 5 + 2 ^ 10) } }

theorem witness_MatrixCommandsAreIssued :
    (wMx va0 va0).mayRetire = true ∧ (wMx va0 va0).me.mx.queued < 8 ∧ readyB (wMx va0 va0) [.one (.h 2)] (.one .push) = true ∧
      readyB (wMx va0 va0) [.one (.h 2), .one (.h 3)] (.one .push) = true ∧
      ((wMx va0 va0).readied [.one (.h 2), .one (.h 3)] (.one .push)).mxCheck 0 (img 0)
        (wordOf (fld va0 0 23 + fld va0 0 23 * 2 ^ 23)) 0 = none ∧
      ((wMx va0 va0).readied [.one (.h 2), .one (.h 3)] (.one .push)).mxCheck 0 (img 2) va0 0 = none ∧
      (((wMx va0 va0).readied [.one (.h 2), .one (.h 3)] (.one .push)).mxCheck 0 (img 2) 1 0).isSome = true ∧
      ((wMx va0 va0).take (causeOf .mxAddr 1 4)).2 = false ∧ 0xFF000000000000 ≤ va0.toNat ∧ va0.toNat < 0xFF000000000000 + 2 ^ 23 ∧
      readyB (wMx (img 0) 0) [.one (.h 2), .one (.h 3)] .none = true ∧
      (wMx (img 0) 0).first [.one (.h 2), .one (.h 3)] .none = img 0 ∧ bit (img 0) 26 = false ∧ fld (img 0) 60 4 = 0 ∧
      fld (img 0) 18 2 ≠ 3 ∧ fld (img 0) 27 5 = 1 ∧ fld (img 0) 32 5 = 1 ∧ fld (img 0) 37 7 = 1 ∧ fld va0 46 18 ≠ 0 := by decide +kernel

/-- w0 whose loads of an image are back. -/
def wBack (vs : List Word) : State :=
  w0.updMe fun k => { k with wait := some ⟨.loads, false, 0, 0, .no, true, 0, .none, vs.zipIdx.map fun p => (p.2, some p.1)⟩ }

theorem witness_MatrixCommandsAreIssued_tcmd :
    readyB (wBack [img 1, 0, 0, 0]) [.one (.h 1)] (.one .push) = true ∧
      ((wBack [img 1, 0, 0, 0]).readied [.one (.h 1)] (.one .push)).localKey 0 va0 32 = some k0 ∧
      ((wBack [img 1, 0, 0, 0]).readied [.one (.h 1)] (.one .push)).localKey 0 (va0 + 24) 8 = some (k0 + 24) ∧
      (wBack [img 1, 0, 0, 0]).me.wait.map (fun w => (w.what, w.vals)) =
        some (.loads, [(0, some (img 1)), (1, some 0), (2, some 0), (3, some 0)]) ∧ (wBack [img 1, 0, 0, 0]).me.flight = [] ∧
      (wOdd.first [.one (.h 1)] (.one .push)).toNat % 32 ≠ 0 ∧ (wOdd.take (causeOf .mxAddr (privAlias 4097) 5)).2 = false := by decide +kernel

/-- A command of w0's unit behind one that has finished. -/
def mx0 (opc : Nat) (w1 : Word) : MxCmd := ⟨img opc, w1, 0, 0, 0, none, 0, true, 2, true, 0, 0, false⟩
def wUnit (m : MxCmd) : State :=
  w0.updMe fun k => { k with mx := { k.mx with inbox := [{ mx0 1 0 with value := 1, done := true }, m], issued := 2 } }

/-- What a statement about a command's work asks for. -/
def unitB (m : MxCmd) : Bool :=
  let s := wUnit m
  Memory.wf s.mem && SMap.wf tagEmpty s.tags && SMap.wf false s.poison && !imBad m.w0 m.w1 m.w2 &&
  (s.mxCheck 0 m.w0 m.w1 m.w2).isNone && !s.mxBehind 0 m && decide ((vget Accum.reset s.me.mx.accs 0).cond = .clean) &&
  SMap.wf WsPair.zero (vget Accum.reset s.me.mx.accs 0).elems && (s.mxPoisoned 0 m.w0 m.w1 m.w2).isNone

theorem witness_MatrixCommandsWork_local :
    unitB (mx0 0 (wordOf (4096 + 4096 * 2 ^ 23))) = true ∧ imOpc (img 0) = 0 ∧ unitB (mx0 1 0) = true ∧
      unitB (mx0 5 va0) = true ∧ unitB (mx0 6 va0) = true ∧ unitB (mx0 7 va0) = true ∧ imOpc (img 7) = 7 ∧
      (wUnit (mx0 1 0)).me.mx.inbox = { mx0 1 0 with value := 1, done := true } :: [mx0 1 0] ∧ (mx0 1 0).from? = none := by decide +kernel

/-- A write of a command lands in the private scratchpad, where no tag stops it. -/
def landsB (m : MxCmd) (va : Word) (k n : Nat) : Bool :=
  let s := wUnit m
  (match s.translateHit 0 m.sup va .w with
    | .ok x => decide (x.place = .spad k) && !x.mig
    | _ => false) && decide (k % 8 + n ≤ 8) && s.parked.isEmpty && s.tagAt k != tagArrival && s.tagAt k != tagPoison

theorem witness_MatrixCommandsWork_memory :
    unitB { mx0 2 va0 with pos := 1 } = true ∧ unitB { mx0 3 va0 with pos := 1 } = true ∧ unitB { mx0 4 va0 with pos := 512 } = true ∧
      unitB (mx0 2 va0) = true ∧ landsB (mx0 2 va0) (va0 + wordOf 0) k0 4 = true ∧ elemBytes (img 2) = 4 ∧ imM (img 2) * imN (img 2) = 1 ∧
      unitB (mx0 3 va0) = true ∧ landsB (mx0 3 va0) (va0 + wordOf 0) k0 4 = true ∧ unitB (mx0 4 va0) = true ∧
      (∀ p, p < 512 → landsB (mx0 4 va0) (va0 + wordOf (8 * p)) (k0 + 8 * p) 8 = true) := by decide +kernel

/-! ## Rings, stacks and migration -/

/-- w0 with one access on its ring, and a store budget. -/
def wOnRing : State :=
  (wFly (.load 8) .issued 1).updMe fun k => { k with flight := k.flight.map fun a => { a with injected := false } }

/-- A line of stack 0, channel 0, all of whose bytes wait to be written. -/
def line0 : QLine := ⟨hbmBase, 2 ^ 64 - 1⟩

/-- w0 with that line in its channel's write queue, and row 1 of bank 0 activated beyond a threshold. -/
def wStack : State := w0.updStack 0 fun k => { k with wq := [(0, [line0])], openRow := [(0, 2)], counts := [(1, 600)], actth := 512 }

theorem witness_RingsAndStacksAdvance_ring :
    wOnRing.clusterLive 0 = true ∧ ((wOnRing.core 0).flight.filter fun a => !a.injected).length = 1 ∧
      ((wOnRing.core 0).flight.map Access.id).Nodup ∧ (wOnRing.core 1).flight = [] ∧ (w0.cluster 0).sbrate ≠ 0 ∧
      (w0.cluster 0).sblevel + (0 : Nat) ≤ (w0.cluster 0).capacity ∧
      (w0.cluster 0).sblevel ≤ (w0.cluster 0).capacity ∧ (w0.cluster 0).capacity < (w0.cluster 0).sblevel + (7 : Nat) := by decide +kernel

theorem witness_RingsAndStacksAdvance_queue :
    SMap.get [] (wStack.stack 0).wq 0 = [line0] ∧ stackOf line0.line = 0 ∧ channelOf line0.line = 0 ∧
      SMap.find (wStack.stack 0).errs (line0.line / 64 * 64) = none ∧ SMap.wf [] (wStack.stack 0).wq = true ∧
      SMap.risingFrom none (wStack.stack 0).openRow = true ∧ SMap.wf 0 (wStack.stack 0).counts = true ∧
      SMap.wf 0 (wStack.stack 0).refRow = true ∧ fld (wStack.stack 0).actth 0 16 ≤ SMap.get 0 (wStack.stack 0).counts (rowKey 0 0 1) := by decide +kernel

/-- A page on the move from page 16 to stack 0. -/
def mig0 : Mig := ⟨16, true, hbmBase / 4096, 1, 0, 0⟩
def wMoving : State := w0.updStack 0 fun k => { k with migs := [mig0] }

theorem witness_RingsAndStacksAdvance_pull :
    (wMoving.stack 0).migs[0]? = some mig0 ∧ mig0.valid = true ∧ bit mig0.present 1 = false ∧
      (∀ i, i < 1 → bit mig0.present i = true) ∧ stackOf (mig0.new * 4096 + 64 * 1) = 0 ∧
      wMoving.wqFull (.hbm (mig0.new * 4096 + 64 * 1)) = false ∧
      wMoving.place 0 (mig0.old * 4096 + 64 * 1) = .hbm (hbmBase + 4 * 0x1000000000 + 4096 + 64) ∧
      (hbmBase + 4 * 0x1000000000 + 4096 + 64) % 64 = 0 ∧ mig0.new * 4096 + 64 * 1 ≠ hbmBase + 4 * 0x1000000000 + 4096 + 64 ∧
      wMoving.offline (hbmBase + 4 * 0x1000000000 + 4096 + 64) = false ∧
      wMoving.poisoned (hbmBase + 4 * 0x1000000000 + 4096 + 64) = false ∧
      wMoving.errorAt (hbmBase + 4 * 0x1000000000 + 4096 + 64) = none ∧ Memory.wf wMoving.mem = true := by decide +kernel

/-! ## Near-memory commands -/

/-- A block of a fill of 8 words at an address. -/
def fillBlock (y : Word) : List Word := [wordOf (3 + 8 * 2 ^ 32), y, 0, 5, 0, 0, 0, 0]

/-- w0 whose loads of a block are back, a handle of stack 0's context 0 in h2; a range entry maps stack 0's first 64 KiB. -/
def wEcmd (ws : List Word) : State :=
  (setH 2 2 (wBack ws)).updCluster 0 fun k => { k with
    srange := vset k.srange 0 ⟨wordOf hbmBase, wordOf (hbmBase + 0xFFFF), 0, 0xF⟩ }

/-- The outcome of a translation of an extent. -/
def resolved (s : State) (y : Word) : Except Cause Nat := (s.resolve s.cur s.ctx.priv y 64 .w).1

def isBad : Except Cause Nat → Bool
  | .ok _ => false
  | .error _ => true

theorem witness_NearMemoryCommandsEnterAndEnd_ecmd :
    readyB (wEcmd (fillBlock (wordOf hbmBase))) [.one (.h 1), .one (.h 2)] (.one .push) = true ∧
      (wEcmd (fillBlock (wordOf hbmBase))).mayRetire = true ∧
      (wEcmd (fillBlock (wordOf hbmBase))).second [.one (.h 1), .one (.h 2)] (.one .push) = 2 ∧
      (wEcmd []).handleOk 2 = true ∧ (wEcmd []).handleOk 3 = false ∧ va0.toNat % 64 = 0 ∧
      ((wEcmd []).take (causeOf .badOperand 0 0)).2 = false ∧
      ((wEcmd (fillBlock (wordOf hbmBase))).me.wait.map fun w => (w.what, w.vals.map (fun p => p.2))) =
        some (.loads, (fillBlock (wordOf hbmBase)).map some) ∧ (wEcmd []).me.flight = [] ∧
      ((wEcmd []).nmCtx 0 0).inbox.length < 16 ∧
      ((wEcmd []).readied [.one (.h 1), .one (.h 2)] (.one .push)).nmBehind 0 0 = false ∧
      fld ((fillBlock (wordOf hbmBase)).getD 0 0) 0 4 = 3 ∧ fld ((fillBlock (wordOf hbmBase)).getD 0 0) 32 32 = 8 := by decide +kernel

def nmIdle : NmCmd := ⟨fillBlock 64, 0, 1, 0, 0, 1, 0, 0, 0, 0, [], [], none, 0, 0⟩

theorem witness_NearMemoryCommandsEnterAndEnd_extents :
    (match resolved ((wEcmd []).took [.one (.h 1), .one (.h 2)] (.one .push)) (wordOf hbmBase) with
      | .ok pa => decide (pa = hbmBase)
      | .error _ => false) = true ∧
      isBad (resolved ((wEcmd []).took [.one (.h 1), .one (.h 2)] (.one .push)) 64) = true ∧
      16 ≤ (((wEcmd []).updNm 0 0 fun x => { x with inbox := List.replicate 16 nmIdle }).nmCtx 0 0).inbox.length ∧
      (wOdd.first [.one (.h 1)] (.one .push)).toNat % 64 ≠ 0 ∧ (wOdd.take (causeOf .align (privAlias 4097) 64)).2 = false := by decide +kernel

/-- A command of core 0 with an OP, a count, and a matrix of one element. -/
def nm0 (op count : Nat) (y x : Nat) : NmCmd :=
  ⟨[wordOf (op + (if op = 0 then 2 * 2 ^ 8 else 0) + count * 2 ^ 32), 0, 0, wordOf 0x3F800000, 0, 0, 0,
    if op = 0 then wordOf (1 + 2 ^ 32) else 0], 0, 0, 0, 0, 1, y, x, 0, hbmBase + 0x2000, [], if op = 0 then [0x3F800000] else [], none, 0, 0⟩

/-- w0 with that command at the head of context 0 of stack 0. -/
def wNmc (m : NmCmd) (pos : Nat) (done : Bool) : State :=
  (w0.updNm 0 0 fun x => { x with inbox := [m], pos := pos, done := done }).updMe fun k => { k with
    act := k.act.map (fun (a : Act) => { a with nm := [⟨0, 0, 1, 0⟩] }) }

theorem witness_NearMemoryCommandsEnterAndEnd_ends :
    ((wNmc { nm0 3 8 hbmBase 0 with bad := some (nmRec 0 .nmCmd 0 0) } 0 false).nmCtx 0 0).done = false ∧
      (wNmc (nm0 3 8 hbmBase 0) 0 false).cores.map (fun p => p.1) = [0] ∧
      ((wNmc (nm0 3 8 hbmBase 0) 0 false).me.act.map fun a => a.nm) = some [⟨0, 0, 1, 0⟩] ∧
      ((wNmc (nm0 3 8 hbmBase 0) 1 true).nmCtx 0 0).done = true ∧ ((wNmc (nm0 3 8 hbmBase 0) 1 true).nmCtx 0 0).skipped = 0 ∧
      (nm0 3 8 hbmBase 0).words.getD 4 0 = 0 ∧ isOk ((wArr 0 0).arrive (.spad k0) 64 1 0) = true ∧
      (wArr 0 0).place (dieOf 0) (x0 .w).pa = .spad k0 := by decide +kernel

/-- A line of stack 0 takes writes and can be read. -/
def lineB (s : State) (k : Nat) : Bool :=
  decide (s.place 0 k = .hbm k) && !s.offline k && (s.errorAt k).isNone && !s.poisoned k && !s.wqFull (.hbm k) && decide (k % 64 = 0)

/-- What every statement about a running command asks for. -/
def nmB (s : State) (m : NmCmd) : Bool :=
  Memory.wf s.mem && SMap.wf tagEmpty s.tags && SMap.wf false s.poison && decide ((s.nmCtx 0 0).inbox = m :: []) &&
  !(s.nmCtx 0 0).done && m.bad.isNone && m.moving.isEmpty

theorem witness_NearMemoryCommandsWork_lines :
    nmB (wNmc (nm0 3 8 hbmBase 0) 0 false) (nm0 3 8 hbmBase 0) = true ∧ lineB (wNmc (nm0 3 8 hbmBase 0) 0 false) hbmBase = true ∧
      nmB (wNmc (nm0 4 8 (hbmBase + 64) hbmBase) 0 false) (nm0 4 8 (hbmBase + 64) hbmBase) = true ∧
      lineB (wNmc (nm0 4 8 (hbmBase + 64) hbmBase) 0 false) (hbmBase + 64) = true ∧
      (nm0 4 8 (hbmBase + 64) hbmBase).x + 8 * 8 ≤ (nm0 4 8 (hbmBase + 64) hbmBase).y ∧
      ({ wNmc (nm0 4 8 (hbmBase + 64) hbmBase) 0 false with poison := [(hbmBase, true)] }).poisoned hbmBase = true ∧
      nmB (wNmc (nm0 1 17 (hbmBase + 64) hbmBase) 1 false) (nm0 1 17 (hbmBase + 64) hbmBase) = true ∧
      lineB (wNmc (nm0 1 17 (hbmBase + 64) hbmBase) 1 false) (hbmBase + 128) = true ∧ 16 * 1 < 17 := by decide +kernel

/-- A zero of f32 is finite. -/
theorem witness_NearMemoryCommandsWork_reduce :
    nmB (wNmc (nm0 2 16 hbmBase (x0 .w).pa) 0 false) (nm0 2 16 hbmBase (x0 .w).pa) = true ∧
      ((wNmc (nm0 2 16 hbmBase (x0 .w).pa) 0 false).nmCtx 0 0).special = none ∧
      (∀ i, i < 16 → Fmt.f32.decode (readBytes (wNmc (nm0 2 16 hbmBase (x0 .w).pa) 0 false).mem (hbmBase + 4 * i) 4) =
        .fin false 0 (-149)) ∧
      nmB (wNmc (nm0 2 16 hbmBase (x0 .w).pa) 1 false) (nm0 2 16 hbmBase (x0 .w).pa) = true ∧ 16 ≤ 16 * 1 ∧
      w0.place (dieOf 0) ((x0 .w).pa + 0) = .spad k0 ∧ w0.place (dieOf 0) ((x0 .w).pa + 0 + 8) = .spad (k0 + 8) ∧
      k0 % 16 = 0 ∧ w0.parked.isEmpty = true ∧ w0.tagAt k0 = tagEmpty ∧ w0.tagAt (k0 + 8) = tagEmpty ∧
      nmB (wNmc (nm0 0 0 hbmBase (x0 .w).pa) 0 false) (nm0 0 0 hbmBase (x0 .w).pa) = true ∧
      fmtOf (fld ((nm0 0 0 hbmBase (x0 .w).pa).words.getD 0 0) 8 3) = some .f32 ∧ lineB w0 hbmBase = true := by decide +kernel

/-- The move of `mig0` all present, and the command that made it. -/
def wMoved : State := (wNmc (nm0 5 1 hbmBase (16 * 4096)) 1 false).updStack 0 fun k => { k with
  migs := [{ mig0 with present := BitVec.allOnes 64 }] }

theorem witness_NearMemoryCommandsWork_migrate :
    nmB (wNmc (nm0 5 1 hbmBase (16 * 4096)) 0 false) (nm0 5 1 hbmBase (16 * 4096)) = true ∧
      (((wNmc (nm0 5 1 hbmBase (16 * 4096)) 0 false).stack 0).migs.filter fun g => g.valid).length + 1 ≤ 64 ∧
      nmB wMoved (nm0 5 1 hbmBase (16 * 4096)) = true ∧
      findIdx (fun g : Mig => g.valid && decide (g.new = (nm0 5 1 hbmBase (16 * 4096)).y / 4096 + 0) && decide (g.ctx.toNat = 0))
        (wMoved.stack 0).migs 0 = some (0, { mig0 with present := BitVec.allOnes 64 }) ∧
      (wMoved.stack 0).migs.Nodup ∧ lineB wMoved (hbmBase + 0x2000) = true ∧ (nm0 5 1 hbmBase (16 * 4096)).leaf = hbmBase + 0x2000 := by decide +kernel

/-! ## Control space, start-up, partitions -/

theorem witness_ControlSpaceIsWritten :
    (11 : Nat) < 12 ∧ clusterExists 0 = true ∧ SMap.wf 0 (w0.die 0).preq = true ∧
      blockOf ctlBase = .router 0 0 0 ∧ blockOf (ctlBase + 2 ^ 40) = .engine 0 0 ∧ blockOf (ctlBase + 2 ^ 40 + 0x2100) = .engine 0 0x2100 ∧
      w0.ctlRead (ctlBase + 2 ^ 40 + 0x3008) = none ∧ w0.place 0 (x0 .w).pa = .spad k0 ∧ (x0 .w).pa % 8 = 0 ∧ w0.parked.isEmpty = true ∧
      w0.place 0 0 = .hbm hbmBase ∧ lineB w0 hbmBase = true ∧ Memory.wf w0.mem = true ∧ w0.tagAt k0 ≠ tagPoison ∧
      w0.place 0 (ctlBase + 3 * 2 ^ 40 + 0x88) = .ctl (ctlBase + 3 * 2 ^ 40 + 0x88) ∧
      blockOf (ctlBase + 3 * 2 ^ 40 + 0x88) = .mailbox 0 0x88 ∧ bit (w0.mail 0 0x40) 17 = false ∧
      bit ((w0.setMail 0 0x40 (wordOf (2 ^ 17))).mail 0 0x40) 17 = true := by decide +kernel

/-- An access of core 0 that has left for external memory. -/
def extAcc : Access := 
  ⟨7, .load 8, 0x1000, extBase + 64, 0, true, false, false, false, false, false, true, 0, true, 0, 0, false, .issued⟩
def wExt : State := w0.updMe fun k => { k with flight := [extAcc] }

theorem witness_ControlSpaceIsWritten_timeout :
    extAcc ∈ wExt.me.flight ∧ (wExt.me.flight.map Access.id).Nodup ∧ externalOf (wExt.place (dieOf 0) extAcc.nextPart.pa) = some (extBase + 64) ∧
      extAcc.injected = true ∧ extAcc.parts ≠ [] ∧ SMap.wf 0 wExt.links = true := by decide +kernel

/-- An event of partition 2, and a ring that is full. -/
def event0 : Event := ⟨1, 0, 0, 0, some 2⟩
def wEvent : State := { w0 with kiosk := { w0.kiosk with events := [event0], rings := [(34, List.replicate 256 event0)] } }

/-- w0 with a request in a mailbox, at a stage of start-up: its command and arguments. -/
def wAsk (mb stage op : Nat) (args : List Word) : State :=
  let s := ([wordOf (op + 5 * 2 ^ 32)] ++ args).zipIdx.foldl (fun s p => s.setMail mb (8 * p.2) p.1) w0
  { s with kiosk := { s.kiosk with doors := [⟨mb, 0x3FFF, wordOf (op + 5 * 2 ^ 32), args⟩], stage := stage } }

def askB (mb stage op : Nat) (args : List Word) : Bool :=
  let s := wAsk mb stage op args
  decide (s.kiosk.doors.find? (fun d => d.mb == mb) = some ⟨mb, 0x3FFF, wordOf (op + 5 * 2 ^ 32), args⟩) && SMap.wf 0 s.kiosk.mail && SMap.wf [] s.kiosk.rings &&
  SMap.wf 0 s.kiosk.routes && decide (s.kiosk.stage = stage) && decide (fld (wordOf (op + 5 * 2 ^ 32)) 0 16 = op)

theorem witness_StartUpAndEvents :
    w0.stackEnabled 11 = true ∧ wEvent.kiosk.events = event0 :: [] ∧ (SMap.get [] wEvent.kiosk.rings 34).length = 256 ∧
      (SMap.get [] wEvent.kiosk.rings 0).length < 256 ∧ askB 0 1 1 [] = true ∧ askB 34 2 0x99 [] = true ∧
      askB 0 2 0x50 [120] = true ∧ askB 0 2 0x50 [0] = true ∧ askB 0 2 0x51 [] = true ∧ askB 34 2 0x51 [3] = true ∧
      ({ wAsk 34 2 0x51 [3] with parts := [(2, ⟨true, [0], 0, 0, 0, 0, 0, [], []⟩)] }.updCore 3 fun k => { k with pid := 2 }).inPart 2 3 = true ∧
      askB 0 2 0x40 [] = true := by decide +kernel

/-- A management request of core 3. -/
def wMgmt : State := { w0 with kiosk := { w0.kiosk with requests := [(3, ⟨31, 7, 3, false, 0, [1]⟩)] } }

theorem witness_StartUpAndEvents_request :
    wMgmt.kiosk.requests = (3, ⟨31, 7, 3, false, 0, [1]⟩) :: [] ∧ (7 : BitVec 32).toNat % 256 ≠ 0x20 := by
  refine ⟨?_, ?_⟩ <;> decide +kernel

/-- A request at the kiosk, while a partition holds cluster 1. -/
def wKiosk (op p : Nat) (args : List Word) : State :=
  { wAsk 0 2 op args with parts := [(p, ⟨true, [1], 0, 0, 0, 0, 0, [], []⟩)], cores := [] }

/-- Partition `p` is to hold one cluster, which the host's first word lists. -/
def partArgs (p : Nat) : List Word := [wordOf p, 0, 1, 2, 0, wordOf (2 ^ 16 + 1)]

def gives (l : List Nat) : Except Nat (List Nat) → Bool
  | .ok m => decide (m = l)
  | .error _ => false

/-- What every statement about such a request asks for. -/
def kioskB (op p : Nat) (args : List Word) : Bool :=
  let s := wKiosk op p args
  askB 0 2 op args &&
  gives [0] (s.askClusters ⟨0, 0x3FFF, args⟩ (args.getD 1 0) (args.getD 2 0) fun _ => false) &&
  decide (fld (args.getD 0 0) 4 60 = 0) && decide (fld (args.getD 4 0) 6 58 = 0) && decide (fld (args.getD 5 0) 32 32 = 0) &&
  decide (fld (args.getD 5 0) 16 16 ≠ 0)

theorem witness_PartitionsAndLoadsAreServed_stages :
    (∀ op, op ∈ [0x10, 0x20, 0x30, 0x31, 0x32] → askB 0 1 op [] = true ∧ askB 34 2 op [] = true) ∧
      ((wAsk 34 2 0x10 []).part 2).exists? = false ∧ (1 : Word).toNat % 64 ≠ 0 := by decide +kernel

theorem witness_PartitionsAndLoadsAreServed_parts :
    kioskB 0x30 1 (partArgs 3) = true ∧ kioskB 0x30 3 (partArgs 3) = true ∧ ((wKiosk 0x30 1 (partArgs 3)).part 3).exists? = false ∧
      ((wKiosk 0x30 3 (partArgs 3)).part 3).exists? = true ∧ kioskB 0x31 3 (partArgs 3) = true ∧
      gives [0] ((wKiosk 0x31 3 (partArgs 3)).askClusters ⟨0, 0x3FFF, partArgs 3⟩ 0 1 fun k => k == 3) = true ∧
      ((wKiosk 0x31 3 (partArgs 3)).part 3).moving = [] ∧ ((wKiosk 0x31 3 (partArgs 3)).part 3).moved = [] ∧ kioskB 0x32 3 (partArgs 3) = true ∧
      SMap.risingFrom none (wKiosk 0x32 3 (partArgs 3)).parts = true ∧ (wKiosk 0x32 3 (partArgs 3)).launches = [] ∧
      (∀ c ∈ (wKiosk 0x32 3 (partArgs 3)).partCores 3, ((wKiosk 0x32 3 (partArgs 3)).core c).quiet = true) ∧
      (wKiosk 0x32 3 (partArgs 3)).stackEngines = [] := by decide +kernel

/-- Granules enough for a partition stand free, whatever the arena's size is. -/
theorem witness_PartitionsAndLoadsAreServed_granules :
    ∃ s : State, ∃ g u, s.takeGranules (1 + Config.arenaGranules + 2) = some (g, u) ∧ g < 0x9000000 :=
  ⟨{ w0 with kiosk := { w0.kiosk with freed := [(5, 1 + Config.arenaGranules + 2)] } }, 5, _,
    by simp [State.takeGranules, findIdx]; rfl, by decide⟩

/-- A file of a good header alone: its signature would begin where it ends. -/
def bareFile : List Byte :=
  natBytes 4 0x4C475744 ++ natBytes 4 0x10000 ++ natBytes 8 0 ++
    (entrySizes.zipIdx.map fun p => natBytes 8 144 ++ natBytes 4 (if p.2 = 7 then 1 else 0) ++ natBytes 4 p.1).flatten

/-- That file in the host's memory. -/
def wFile : State :=
  (bareFile.zipIdx).foldl (fun s p => { s with mem := writeByte s.mem (extBase + 4096 + p.2) p.1 }) (wKiosk 0x10 1 [])

/-- A file whose header is bad, and one whose header is good and whose signature is not. -/
theorem witness_PartitionsAndLoadsAreServed_load :
    askB 33 2 0x10 [] = true ∧ ((wKiosk 0x10 1 []).part 1).exists? = true ∧
      ((wKiosk 0x10 1 []).askBytes ⟨1, 0x3FFF, []⟩ 0 4).isSome = true ∧ (readDof #[0, 0, 0, 0]).badHeader = true ∧
      wFile.askBytes ⟨1, 0x3FFF, []⟩ 4096 144 = some bareFile ∧ (readDof bareFile.toArray).badHeader = false ∧
      (readDof bareFile.toArray).badSignature = true ∧
      (wKiosk 0x10 1 []).askBytes ⟨1, 0x3FFF, []⟩ (wordOf (2 ^ 40)) 1 = none := by decide +kernel

/-! ## Encoding, the step and the form of memory -/

theorem witness_EncodingsRoundTrip :
    Instr.wf (.nop) = true ∧ (encode .nop).isSome = true ∧ ([0#8, 0#8, 0#8] : List Byte).length < 4 := by decide

theorem witness_StepRunsTheDecodedInstruction :
    w0.turns = .core 0 :: [] ∧ w0.coreLive 0 = true ∧ (w0.core 0).trapping = none ∧ (w0.core 0).inl = none ∧
      (w0.core 0).act.isSome = true ∧ { w0 with turns := [] }.stopped (w0.core 0) = false ∧ w0.ctx.len ≠ 0 ∧
      w0.ctx.latch = none ∧ w0.ctx.atEnd = false ∧ w0.ctx.spent = false ∧ (placedAct w0).ending = none ∧
      w0.me.act = some (placedAct w0) ∧
      (match { w0 with turns := [] }.fetch32 0 w0.ctx.priv w0.ctx.pc with
        | .ok w => decide (w = 0xD7000000#32)
        | _ => false) = true ∧ (wHret.core 0).inl.isSome = true := by decide +kernel

theorem witness_EveryStepKeepsTheFormOfMemory : ∃ t, w0.Canonical ∧ step w0 = .next t := ⟨_, canonical_of (by decide +kernel), rfl⟩

/-! ## Well-formedness: an ill-formed term for each check -/

theorem test_wf_refuses_source_with_a_meaning : (Instr.add (.bad 36) .z .push false).wf = false := by decide
theorem test_wf_refuses_destination_with_a_meaning : (Instr.add .z .z (.bad 20) false).wf = false := by decide
theorem test_wf_refuses_sys_of_resume_team : (Instr.sys .z 0xF01).wf = false := by decide
theorem test_wf_refuses_illegal_opcode_of_a_legal_word : (Instr.illegalOpcode 0xD7000000).wf = false := by decide
theorem test_wf_refuses_reserved_field_of_a_legal_word : (Instr.reservedField 0xD7000000).wf = false := by decide
theorem test_wf_accepts_reserved_operands : (Instr.add (.bad 37) .z (.bad 21) false).wf = true := by decide

/-! ## Single steps, with values that the spec works -/

/-- The top of the trellis after an instruction; none where it gives no next state. -/
def topAfter (i : Instr) (s : State) : Option Word :=
  match exec i s with
  | .next t => t.ctx.trellis.head?.map fun x => x.val
  | _ => none

/-- The two top entries after an instruction. -/
def topPair (i : Instr) (s : State) : Option (List Word) :=
  match exec i s with
  | .next t => some ((t.ctx.trellis.take 2).map fun x => x.val)
  | _ => none

/-- w0 with two words in h1 and h2. -/
def wTwo (x y : Word) : State := setH 2 y (setH 1 x w0)

/-- The example after R136. -/
theorem test_add_w : topAfter (.add (.h 1) (.h 2) .push true) (wTwo 0x7FFFFFFF 1) = some 0xFFFFFFFF80000000 := by decide

/-- The example after R136. -/
theorem test_minu_w : topAfter (.minu (.h 1) (.h 2) .push true) (wTwo 0xFFFFFFFF 0x100000000) = some 0 := by decide

/-- The example after R136. -/
theorem test_mulh : topAfter (.mulh (.h 1) (.h 2) .push false) (wTwo (-1) (-1)) = some 0 := by decide

/-- The example after R136. -/
theorem test_mulhu : topAfter (.mulhu (.h 1) (.h 2) .push false) (wTwo (-1) (-1)) = some 0xFFFFFFFFFFFFFFFE := by decide

/-- R136: the 32-bit form tests the low half of B. -/
theorem test_divu_w_by_zero :
    (match exec (.divu (.h 1) (.h 2) .push true) (setH 2 0x100000000 wT) with
      | .next t => decide (t.ctx.trap.tcause = wordOf Cause.intDivzero.code.toNat) && t.ctx.trap.intrap
      | _ => false) = true := by decide +kernel

/-- The examples after R137. -/
theorem test_bitc_bswap_w : topAfter (.bitc (.h 1) .push 4 true) (wTwo 0x11223344 0) = some 0x44332211 := by decide
theorem test_bitc_brev_w : topAfter (.bitc (.h 1) .push 3 true) (wTwo 1 0) = some 0xFFFFFFFF80000000 := by decide

/-- The example of R139. -/
theorem test_ldkx : topAfter (.ldkx (.h 1) .push 24) (wTwo 0x7F800000000 0) = some 0x00FF000000000018 := by decide

/-- The example of R144: low words −1 and 2, then high words 5 and 7 with the carry. -/
theorem test_addc_low : topPair (.addc (.h 1) (.h 2) .push .z false) (wTwo (-1) 2) = some [1, 1] := by decide
theorem test_addc_high :
    topPair (.addc (.h 1) (.h 2) .push (.q 0) false) ((wTwo 5 7).updCtx fun c => c.push ⟨1, none⟩) = some [0, 13] := by decide

/-- The examples after R104. -/
theorem test_cvtx_e2m3 : topAfter (.cvtx (.h 1) false 0 .push) (wTwo 0x1F 0) = some 0x4F := by decide +kernel
theorem test_cvtx_e3m2 : topAfter (.cvtx (.h 1) false 1 .push) (wTwo 0x3F 0) = some 0xCF := by decide +kernel
theorem test_cvtx_int4 : topAfter (.cvtx (.h 1) false 2 .push) (wTwo 8 0) = some 0xD0 := by decide +kernel

/-- The block of the example after R119: 1.5 times 0.5, at anchor 8080. -/
theorem test_pdot_block :
    topPair (.pdot (.h 1) (.h 2) .push 0 false 0) ((wTwo 3 1).updCtx fun c => { c with fmt := 7 }) = some [0x6000000000007E40, 0] := by
  decide +kernel

/-- The same example: the `e5m2` scale 0x3E and the `e8m0` scale 0x7C give 9 × 2^−6. -/
theorem test_wsscl_e5m2_e8m0 :
    wsMul (wsMul ⟨0, 0x6000000000007E40⟩ (scaleOf 1 0x3E)) (scaleOf 0 0x7C) = ⟨0, 0x4800000000007E38⟩ := by decide +kernel

/-- The same example: with tensor scales 2 and 1 its rounding to `bf16` is exact. -/
theorem test_wsrnd_bf16 :
    Fmt.bf16.ofWsScaled 0 false ⟨0, 0x4800000000007E38⟩ ((Fmt.bf16.decode 0x4000).times (Fmt.bf16.decode 0x3F80)) = ⟨0x3E90, 0⟩ := by
  decide +kernel

/-- The example after R114: 0.75 and −5 × 2^−18. -/
theorem test_wsadd_exact :
    wsAdd ⟨0, 0x6000000000007E40⟩ (wsMake ⟨-5, -18⟩ false).1 = ⟨0, 0x5FFF600000007E40⟩ := by decide +kernel

/-- The example after R115: 2^120, 1 and −2^120 in that order leave a lost zero. -/
theorem test_wsadd_lost :
    wsAdd (wsAdd (wsMake ⟨1, 120⟩ false).1 (wsMake ⟨1, 0⟩ false).1) (wsMake ⟨-1, 120⟩ false).1 = ⟨0, 1⟩ := by decide +kernel

/-! ## The assembler -/

/-- The instruction word of a written form. A target lies 128 bytes before the block's header. -/
def wordOfLine (l : String) : Option Nat :=
  match parseLine isOpcode l.toList with
  | .ok (some st) =>
    match encodeStmt (σ := Nat) ⟨fun t => do (← parseExpr t).eval fun _ => .error .unresolved, fun _ _ => .ok (.inl (-16))⟩ st with
    | .ok e => some e.word
    | .error _ => none
  | _ => none

/-- The worked encodings after R60. -/
theorem test_line_fadd : wordOfLine "fadd:bf16x4:rz  q0, h2 -> h5" = some 0x400122B4 := by decide +kernel
theorem test_line_ld : wordOfLine "ld:d:consume  [h3+16] -> h6" = some 0x604C6E02 := by decide +kernel
theorem test_line_br : wordOfLine "br:ltu  h4, h5, top" = some 0x305159F0 := by decide +kernel
theorem test_line_waitc : wordOfLine "waitc  _, #0, _, _" = some 0x79FC0FFF := by decide +kernel

/-- The worked encoding after R164. -/
theorem test_line_cvt : wordOfLine "cvt:e2m1x16:sat:from=f32x2:part=7  h1 -> q0" = some 0x5247A872 := by decide +kernel

/-- R69: SZ is always written. R49: an immediate in its range. -/
theorem test_line_no_size : wordOfLine "ld [h3+16] -> h6" = none := by decide +kernel
theorem test_line_range : wordOfLine "addi h2, #4096" = none := by decide +kernel

/-- R76: 0.1 rounds to 0x3DCCCCCD in `f32`; 464 is a tie that goes to 448 in `e4m3`, and above it no finite value is left. -/
theorem test_literal_f32 : (Fmt.f32.literal "0.1".toList).toOption = some 0x3DCCCCCD := by decide +kernel
theorem test_literal_e4m3 : (Fmt.e4m3.literal "464".toList).toOption = some 0x7E := by decide +kernel
theorem test_literal_e4m3_beyond : (Fmt.e4m3.literal "465".toList).toOption = none := by decide +kernel

/-- The program of "A complete program in bytes" (spec/04_assembly_objects.md), without its comments. -/
def progSum : String :=
  ".section code, text\n.region sum, 8, private\n.entry start, live=h0-h2\nadd h0, h1\nst:d [h2+0], q0\ndone\n" ++
  ".launch start, core=0x0000, args=(5, 7, sum)\n.end\n"

/-- The bytes of `code` that the spec gives for it: the header, three words and the pad word. -/
theorem test_assemble_sum :
    ((assemble (List.replicate 32 0) [] [progSum.toList]).toOption.map fun f => (f.drop 408).take 24) =
      some [0x00, 0x00, 0x00, 0x18, 0x07, 0x00, 0x03, 0xF8, 0x00, 0x18, 0x41, 0x00, 0x00, 0x0C, 0x48, 0x61, 0x00, 0x00, 0x00, 0xC2,
        0x00, 0x00, 0x00, 0x00] := by
  decide +kernel

end Sys2Proof.Tests
end

section
/-! PROOF. What wakes, fills and pops leave of registers, trellis and ports, and the values that source operands read
(spec/03_encoding.md R50–R53; spec/06_core_state.md R120–R124). -/

namespace Sys2Proof.Machine

variable {s t : State} {us : List Use} {d : DestSpec} {n : Nat}

/-! ## Registers after a wake and a fill (R121, R122) -/

/-- Bank 1 lies off, or has been off since its last wake. -/
def Ctx.BankOff (c : Ctx) : Prop := c.gate ≠ 0 ∧ (c.gate = 2 ∨ c.bankLost = true)

/-- A register once it has been filled from the core's save area. -/
def State.filledReg (s : State) (n : Nat) : Reg := ⟨(s.savedReg s.cur n).getD 0, .present, none⟩

/-- The state in which fills begin: bank 1 woken if an operand names it. -/
def State.woken (s : State) (us : List Use) (d : DestSpec) : State :=
  if (namedRegs us d).any fun n => decide (8 ≤ n) then s.updCtx Ctx.wake else s

theorem State.readied_eq_fills : s.readied us d = (filledRegs us d).foldl State.fillOne (s.woken us d) := rfl

theorem State.bankWasOff_iff : s.bankWasOff us d ↔ (∃ n ∈ namedRegs us d, 8 ≤ n) ∧ s.ctx.BankOff := Iff.rfl

theorem State.reg_updCtx {f : Ctx → Ctx} : (s.updCtx f).reg n = vget Reg.reset (f s.ctx).regs n := by
  simp [State.reg]

theorem Ctx.wake_regs_of_not_off {c : Ctx} (h : ¬c.BankOff) : c.wake.regs = c.regs := by
  unfold Ctx.wake
  split
  · rfl
  next hg =>
    split
    next ho => exact absurd ⟨hg, ho.symm⟩ h
    next => rfl

theorem vget_eq_getElem {α : Type} {m i : Nat} (x : α) (v : Vector α m) (h : i < m) : vget x v i = v[i] := by
  simp [vget, h]

theorem Ctx.wake_reg_of_off {c : Ctx} (h : c.BankOff) (hn : n < 16) :
    vget Reg.reset c.wake.regs n =
      if 8 ≤ n ∧ (vget Reg.reset c.regs n).cond = .present then zeroReg else vget Reg.reset c.regs n := by
  obtain ⟨hg, ho⟩ := h
  unfold Ctx.wake
  rw [if_neg hg, if_pos ho.symm]
  rw [vget_eq_getElem _ _ hn, vget_eq_getElem _ _ hn, Vector.getElem_mapFinIdx]
  exact ite_congr rfl (fun h => by rw [h.2]; rfl) fun _ => rfl

theorem State.OnlyBanks.filledReg (h : s.OnlyBanks t) (n : Nat) : t.filledReg n = s.filledReg n := by
  simp only [State.filledReg, h.savedReg, h.cur]

theorem State.woken_banks : s.OnlyBanks (s.woken us d) := by
  unfold State.woken
  split
  · exact .updCtx Ctx.wake_rest
  · exact .refl s

/-- A wake leaves every register of bank 0, and every register if bank 1 has not been off. -/
theorem State.woken_reg_of_kept (hn : n < 16) (h : 8 ≤ n → ¬s.bankWasOff us d) : (s.woken us d).reg n = s.reg n := by
  unfold State.woken
  split
  next ha =>
    have hnamed : ∃ m ∈ namedRegs us d, 8 ≤ m := by simpa using ha
    rw [State.reg_updCtx]
    by_cases ho : s.ctx.BankOff
    · have hlow : ¬8 ≤ n := fun h8 => h h8 ⟨hnamed, ho⟩
      rw [Ctx.wake_reg_of_off ho hn, if_neg fun hc => hlow hc.1]
      rfl
    · rw [Ctx.wake_regs_of_not_off ho]
      rfl
  next => rfl

theorem State.woken_reg_of_lost (hn : n < 16) (h8 : 8 ≤ n) (hp : (s.reg n).cond = .present) (h : s.bankWasOff us d) :
    (s.woken us d).reg n = zeroReg := by
  obtain ⟨hnamed, ho⟩ := State.bankWasOff_iff.mp h
  have ha : ((namedRegs us d).any fun m => decide (8 ≤ m)) = true := by simpa using hnamed
  rw [State.woken, if_pos ha, State.reg_updCtx, Ctx.wake_reg_of_off ho hn, if_pos ⟨h8, hp⟩]

theorem State.woken_cond : ((s.woken us d).reg n).cond = (s.reg n).cond := by
  unfold State.woken
  split
  · rw [State.reg_updCtx, Ctx.wake_cond]
    rfl
  · rfl

theorem State.fillOne_of_not_absent (h : (s.reg n).cond ≠ .absent) : s.fillOne n = s := if_neg h

theorem State.fillOne_reg_same (hn : n < 16) (h : (s.reg n).cond = .absent) : (s.fillOne n).reg n = s.filledReg n := by
  have hf : s.fillOne n = s.updCtx fun c => { c with regs := vset c.regs n (s.filledReg n) } := if_pos h
  rw [hf, State.reg_updCtx, vget_vset _ _ _ _ _ hn, if_pos rfl]

theorem State.fillOne_reg_other {m : Nat} (h : n ≠ m) : (s.fillOne m).reg n = s.reg n := by
  unfold State.fillOne
  split
  · rw [State.reg_updCtx]
    by_cases hm : m < 16
    · rw [vget_vset _ _ _ _ _ hm, if_neg h]
      rfl
    · rw [vset_beyond _ _ _ hm]
      rfl
  · rfl

theorem State.fillAll_reg_of_not_absent {ns : List Nat} (h : (s.reg n).cond ≠ .absent) :
    (ns.foldl State.fillOne s).reg n = s.reg n := by
  induction ns generalizing s with
  | nil => rfl
  | cons m ms ih =>
    have hm : (s.fillOne m).reg n = s.reg n := by
      by_cases hnm : n = m
      · subst hnm; rw [State.fillOne_of_not_absent h]
      · exact State.fillOne_reg_other hnm
    rw [List.foldl_cons, ih (by rwa [hm]), hm]

theorem State.fillAll_reg_of_absent {ns : List Nat} (hn : n < 16) (hm : n ∈ ns) (h : (s.reg n).cond = .absent) :
    (ns.foldl State.fillOne s).reg n = s.filledReg n := by
  induction ns generalizing s with
  | nil => cases hm
  | cons m ms ih =>
    rw [List.foldl_cons]
    by_cases hnm : n = m
    · subst hnm
      have hr := State.fillOne_reg_same hn h
      rw [State.fillAll_reg_of_not_absent (by rw [hr]; simp [State.filledReg]), hr]
    · have hr : (s.fillOne m).reg n = s.reg n := State.fillOne_reg_other hnm
      rw [ih ((List.mem_cons.mp hm).resolve_left hnm) (by rwa [hr]), (s.fillOne_banks m).filledReg]

/-- A present register stands as it was, unless it lies in a bank whose values are lost. -/
theorem State.readied_reg_of_kept (hn : n < 16) (hp : (s.reg n).cond = .present) (h : 8 ≤ n → ¬s.bankWasOff us d) :
    (s.readied us d).reg n = s.reg n := by
  rw [State.readied_eq_fills, State.fillAll_reg_of_not_absent (by rw [State.woken_cond, hp]; simp),
    State.woken_reg_of_kept hn h]

theorem State.readied_reg_of_lost (hn : n < 16) (h8 : 8 ≤ n) (hp : (s.reg n).cond = .present) (h : s.bankWasOff us d) :
    (s.readied us d).reg n = zeroReg := by
  rw [State.readied_eq_fills, State.fillAll_reg_of_not_absent (by rw [State.woken_cond, hp]; simp),
    State.woken_reg_of_lost hn h8 hp h]

theorem State.readied_reg_of_absent (hn : n < 16) (hm : n ∈ filledRegs us d) (h : (s.reg n).cond = .absent) :
    (s.readied us d).reg n = s.filledReg n := by
  rw [State.readied_eq_fills, State.fillAll_reg_of_absent hn hm (by rw [State.woken_cond, h]), State.woken_banks.filledReg]

/-- Every register that a source reads is among those that are filled. -/
theorem mem_filledRegs_of_mem_regs {u : Use} (hu : u ∈ us) (hn : n ∈ u.regs) : n ∈ filledRegs us d := by
  have hsrc : n ∈ (us.map Use.regs).flatten := List.mem_flatten.mpr ⟨_, List.mem_map_of_mem hu, hn⟩
  have hpair : n ∈ ((namedRegs us d).map fun m => [m / 2 * 2, m / 2 * 2 + 1]).flatten :=
    List.mem_flatten.mpr ⟨_, List.mem_map_of_mem (List.mem_append_left _ hsrc), by simp; omega⟩
  exact List.mem_filter.mpr ⟨hpair, by simp only [List.contains_iff_mem.mpr hsrc, Bool.true_or]⟩

/-! ## The trellis and the ports while operands are taken (R52, R123) -/

@[simp] theorem portsOf_nil : portsOf [] = [] := rfl
@[simp] theorem portsOf_port_cons (p : Port) (us : List Use) : portsOf (.one (.port p) :: us) = p :: portsOf us := rfl

theorem State.OnlyBanks.trellis (h : s.OnlyBanks t) : t.ctx.trellis = s.ctx.trellis := by
  have := congrArg Ctx.trellis h.context
  exact this

theorem State.OnlyBanks.fifo (h : s.OnlyBanks t) (p : Port) : t.me.fifo p = s.me.fifo p := by
  rw [h.mine]
  rfl

theorem Core.fifo_setFifo (k : Core) (p q : Port) (l : List Word) :
    (k.setFifo p l).fifo q = if q = p then l else k.fifo q := by
  cases p <;> cases q <;> rfl

/-- Pops take from each FIFO as many words as the list names its port. -/
theorem Core.fifo_pops (k : Core) (ps : List Port) (q : Port) :
    (ps.foldl (fun k p => k.setFifo p ((k.fifo p).drop 1)) k).fifo q = (k.fifo q).drop (ps.count q) := by
  induction ps generalizing k with
  | nil => rfl
  | cons p ps ih =>
    rw [List.foldl_cons, ih, Core.fifo_setFifo]
    by_cases hq : q = p
    · subst hq
      rw [if_pos rfl, List.drop_drop, List.count_cons_self, Nat.add_comm]
    · rw [if_neg hq, List.count_cons_of_ne (Ne.symm hq)]

theorem State.took_fifo (p : Port) : (s.took us d).me.fifo p = (s.me.fifo p).drop ((portsOf us).count p) := by
  rw [State.took, State.popped, State.me_updMe, Core.fifo_pops, (s.readied_banks us d).fifo]

/-! ## Values (R50–R53, R120–R124) -/

/-- A first source that reads a register reads it as it stands once banks are woken and registers filled. -/
theorem State.first_reg (n : Fin 16) : s.first (.one (.h n) :: us) d = ((s.readied (.one (.h n) :: us) d).reg n.val).val := rfl

theorem Core.val_trellis {k : Core} {seen : List Port} {i : Fin 16} {x : Slot} (h : k.ctx.trellis[i.val]? = some x) :
    k.val seen (.q i) = x.val := by
  simp [Core.val, h]

theorem Core.pairVal_trellis {k : Core} {seen : List Port} {i : Fin 16} {lo hi : Slot}
    (hlo : k.ctx.trellis[i.val + 1]? = some lo) (hhi : k.ctx.trellis[i.val]? = some hi) :
    k.pairVal seen (.q i) = [lo.val, hi.val] := by
  simp [Core.pairVal, hlo, hhi]

/-- A word that a FIFO holds is the one that a read of its port takes, once the words before it have been taken. -/
theorem Core.val_port {k : Core} {seen : List Port} {p : Port} (h : seen.count p < (k.fifo p).length) :
    (k.fifo p)[seen.count p]? = some (k.val seen (.port p)) := by
  simp [Core.val, h]

theorem Use.trellis_of_read {c : Ctx} {i : Fin 16} (h : (Use.one (.q i)).unread c = none) : i.val < c.trellis.length := by
  simpa [Use.unread] using h

theorem Use.trellis_of_read_pair {c : Ctx} {i : Fin 16} (h : (Use.pair (.q i)).unread c = none) :
    i.val + 1 < c.trellis.length := by
  simp only [Use.unread] at h
  split at h
  · cases h
  · simpa using h

/-- R52, R120: qn is the n-th youngest entry. -/
theorem State.first_trellis {i : Fin 16} (h : s.Ready [.one (.q i)] d) :
    ∃ x, s.ctx.trellis[i.val]? = some x ∧ s.first [.one (.q i)] d = x.val := by
  have hlt := Use.trellis_of_read (h.live (.one (.q i)) (by simp))
  have hx := List.getElem?_eq_getElem hlt
  refine ⟨_, hx, Core.val_trellis (seen := []) ?_⟩
  rw [← State.ctx, (s.readied_banks [.one (.q i)] d).trellis, hx]

/-- R53: a trellis pair takes its high word from qn and its low word from qn+1. -/
theorem State.pair_trellis {i : Fin 16} (h : s.Ready [.pair (.q i)] d) :
    ∃ lo hi, s.ctx.trellis[i.val + 1]? = some lo ∧ s.ctx.trellis[i.val]? = some hi ∧
      s.first [.pair (.q i)] d = lo.val ∧ s.second [.pair (.q i)] d = hi.val := by
  have hlt := Use.trellis_of_read_pair (h.live (.pair (.q i)) (by simp))
  have hlo := List.getElem?_eq_getElem hlt
  have hhi := List.getElem?_eq_getElem (Nat.lt_of_succ_lt hlt)
  have hv : (s.readied [.pair (.q i)] d).me.vals [] [.pair (.q i)] =
      [s.ctx.trellis[i.val + 1].val, s.ctx.trellis[i.val].val] := by
    rw [Core.vals, Core.vals, List.append_nil]
    apply Core.pairVal_trellis <;> rw [← State.ctx, (s.readied_banks [.pair (.q i)] d).trellis]
    · exact hlo
    · exact hhi
  exact ⟨_, _, hlo, hhi, by rw [State.first, hv]; rfl, by rw [State.second, hv]; rfl⟩

/-- R121: an absent register is read from the core's save area, which is not poisoned there. -/
theorem State.first_absent {i : Fin 16} (h : s.Ready [.one (.h i)] d) (ha : (s.reg i.val).cond = .absent) :
    s.savedReg s.cur i.val = some (s.first [.one (.h i)] d) := by
  have hm : i.val ∈ filledRegs [.one (.h i)] d :=
    mem_filledRegs_of_mem_regs (u := .one (.h i)) (by simp) (by simp [Use.regs])
  obtain ⟨v, hv⟩ := Option.isSome_iff_exists.mp (h.saved _ hm ha)
  rw [State.first_reg, State.readied_reg_of_absent i.isLt hm ha, State.filledReg, hv]
  rfl

/-- R52, R123: a port is read at the oldest word of its FIFO. -/
theorem State.first_port {p : Port} (h : s.Ready (.one (.port p) :: us) d) :
    (s.me.fifo p)[0]? = some (s.first (.one (.port p) :: us) d) := by
  have hlt : 0 < (s.me.fifo p).length :=
    Nat.lt_of_lt_of_le (List.count_pos_iff.mpr List.mem_cons_self) (h.ports p List.mem_cons_self).2
  rw [← (s.readied_banks (.one (.port p) :: us) d).fifo] at hlt ⊢
  exact Core.val_port (seen := []) hlt

/-- R52: a second field that names the same port reads the next word. -/
theorem State.second_port {p : Port} (h : s.Ready [.one (.port p), .one (.port p)] d) :
    (s.me.fifo p)[1]? = some (s.second [.one (.port p), .one (.port p)] d) := by
  have hone : [p].count p = 1 := List.count_singleton_self
  have hlt : [p].count p < (s.me.fifo p).length := by
    simpa [Nat.lt_iff_add_one_le] using (h.ports p List.mem_cons_self).2
  rw [← (s.readied_banks [.one (.port p), .one (.port p)] d).fifo] at hlt ⊢
  have hv := Core.val_port hlt
  rwa [hone] at hv

/-- Settles O1: each form of source is read in the state whose banks are woken and registers filled, which keeps the
trellis and the FIFOs. -/
theorem sourceOperandValues : Obligations.SourceOperandValues := by
  intro s d
  refine ⟨fun n h => State.first_trellis h, fun n h => State.pair_trellis h, fun n h => ⟨?_, ?_, ?_⟩, fun _ => rfl,
    fun _ => ⟨rfl, rfl⟩, fun p h => ⟨State.first_port h, ?_⟩,
    fun p h => ⟨State.first_port h, State.second_port h, ?_⟩⟩
  · intro hp hon
    rw [State.first_reg, State.readied_reg_of_kept n.isLt hp fun h8 ho => hon ⟨h8, ho⟩]
  · rintro hp ⟨h8, ho⟩
    rw [State.first_reg, State.readied_reg_of_lost n.isLt h8 hp ho, zeroReg]
  · exact State.first_absent h
  · simp [State.took_fifo]
  · simp [State.took_fifo]

end Sys2Proof.Machine
end

section
/-! PROOF. The integer operations of R135 write their results at both widths, and a zero divisor traps
(spec/07_core_integer.md R134–R136). -/

namespace Sys2Proof.Machine

/-! ## The operations of R135 as operations on bit vectors

Each is the premise that `alu_atWidth` asks of an operation on numbers. -/

section Operations

variable {n : Nat}

theorem opAdd_toNat (p q : BitVec n) : opAdd n p.toNat q.toNat = (p + q).toNat := (BitVec.toNat_add p q).symm

theorem opSub_toNat (p q : BitVec n) : opSub n p.toNat q.toNat = (p - q).toNat := by
  have hq := q.isLt
  rw [opSub, BitVec.toNat_sub]
  congr 1
  omega

theorem opAnd_toNat (p q : BitVec n) : opAnd n p.toNat q.toNat = (p &&& q).toNat := (BitVec.toNat_and p q).symm

theorem opOr_toNat (p q : BitVec n) : opOr n p.toNat q.toNat = (p ||| q).toNat := (BitVec.toNat_or p q).symm

theorem opXor_toNat (p q : BitVec n) : opXor n p.toNat q.toNat = (p ^^^ q).toNat := (BitVec.toNat_xor p q).symm

theorem opAndn_toNat (p q : BitVec n) : opAndn n p.toNat q.toNat = (p &&& ~~~q).toNat := by
  rw [opAndn, BitVec.toNat_and, BitVec.toNat_not]

theorem opMul_toNat (p q : BitVec n) : opMul n p.toNat q.toNat = (p * q).toNat := (BitVec.toNat_mul p q).symm

/-- Bits n to 2n − 1 of an integer are its floored quotient by 2^n. -/
theorem extractLsb'_ofInt_high (i : Int) :
    (BitVec.ofInt (n + n) i).extractLsb' n n = BitVec.ofInt n (i / (2 ^ n : Nat)) := by
  have hM : (0 : Int) < (2 ^ n : Nat) := by positivity
  have hr : 0 ≤ i % ((2 ^ n : Nat) * (2 ^ n : Nat) : Int) := Int.emod_nonneg _ (by positivity)
  have hsplit : i / (2 ^ n : Nat) % (2 ^ n : Nat) = i % ((2 ^ n : Nat) * (2 ^ n : Nat)) / (2 ^ n : Nat) % (2 ^ n : Nat) := by
    conv_lhs => rw [← Int.emod_add_mul_ediv i ((2 ^ n : Nat) * (2 ^ n : Nat)), mul_assoc,
      Int.add_mul_ediv_left _ _ hM.ne', Int.add_mul_emod_self_left]
  apply BitVec.eq_of_toNat_eq
  rw [BitVec.extractLsb'_toNat, BitVec.toNat_ofInt, BitVec.toNat_ofInt, Nat.shiftRight_eq_div_pow, hsplit, pow_add]
  push_cast at hr ⊢
  lift i % (2 ^ n * 2 ^ n : Int) to Nat using hr with r
  norm_cast

theorem opMulh_toNat (hn : 1 < n) (p q : BitVec n) :
    opMulh n p.toNat q.toNat = ((p.signExtend (n + n) * q.signExtend (n + n)).extractLsb' n n).toNat := by
  rw [opMulh, sextInt_toNat hn.le, sextInt_toNat hn.le, wrapInt_ofInt, BitVec.signExtend, BitVec.signExtend,
    ← BitVec.ofInt_mul, extractLsb'_ofInt_high]

theorem opMulhu_toNat (p q : BitVec n) :
    opMulhu n p.toNat q.toNat = ((p.zeroExtend (n + n) * q.zeroExtend (n + n)).extractLsb' n n).toNat := by
  have hlt : p.toNat * q.toNat < 2 ^ n * 2 ^ n := Nat.mul_lt_mul'' p.isLt q.isLt
  have hwide : ∀ x : BitVec n, (x.zeroExtend (n + n)).toNat = x.toNat := fun x =>
    BitVec.toNat_setWidth_of_le (Nat.le_add_right n n)
  rw [opMulhu, BitVec.extractLsb'_toNat, BitVec.toNat_mul, hwide, hwide, pow_add, Nat.mod_eq_of_lt hlt,
    Nat.shiftRight_eq_div_pow, Nat.mod_eq_of_lt (Nat.div_lt_of_lt_mul hlt)]

theorem opSll_toNat (p q : BitVec n) : opSll n p.toNat q.toNat = (p <<< (q.toNat % n)).toNat := by
  rw [opSll, BitVec.toNat_shiftLeft, Nat.shiftLeft_eq]

theorem opSrl_toNat (p q : BitVec n) : opSrl n p.toNat q.toNat = (p >>> (q.toNat % n)).toNat := by
  rw [opSrl, BitVec.toNat_ushiftRight, Nat.shiftRight_eq_div_pow]

theorem opSra_toNat (hn : 1 < n) (p q : BitVec n) : opSra n p.toNat q.toNat = (p.sshiftRight (q.toNat % n)).toNat := by
  rw [opSra, sextInt_toNat hn.le, wrapInt_ofInt, BitVec.sshiftRight_eq, Int.shiftRight_eq_div_pow]

/-- The bits that leave at the top fill the places that a shift to the left leaves free. -/
theorem opRol_toNat (hn : 1 < n) (p q : BitVec n) : opRol n p.toNat q.toNat = (p.rotateLeft q.toNat).toNat := by
  have hk : q.toNat % n < n := Nat.mod_lt _ hn.le
  have hp : p.toNat < 2 ^ (n - q.toNat % n) * 2 ^ (q.toNat % n) := by
    rw [← pow_add, Nat.sub_add_cancel hk.le]
    exact p.isLt
  have htop : p.toNat / 2 ^ (n - q.toNat % n) < 2 ^ (q.toNat % n) := Nat.div_lt_of_lt_mul hp
  have htop' : p.toNat / 2 ^ (n - q.toNat % n) < 2 ^ n := htop.trans (Nat.pow_lt_pow_right Nat.one_lt_two hk)
  rw [opRol, BitVec.toNat_rotateLeft, Nat.shiftRight_eq_div_pow, ← Nat.shiftLeft_eq, Nat.shiftLeft_add_eq_or_of_lt htop,
    Nat.or_mod_two_pow, Nat.mod_eq_of_lt htop']

theorem opMin_toNat (hn : 1 < n) (p q : BitVec n) : opMin n p.toNat q.toNat = (if p.toInt ≤ q.toInt then p else q).toNat := by
  rw [opMin, sextInt_toNat hn.le, sextInt_toNat hn.le, apply_ite BitVec.toNat]

theorem opMax_toNat (hn : 1 < n) (p q : BitVec n) : opMax n p.toNat q.toNat = (if q.toInt ≤ p.toInt then p else q).toNat := by
  rw [opMax, sextInt_toNat hn.le, sextInt_toNat hn.le, apply_ite BitVec.toNat]

theorem opMinu_toNat (p q : BitVec n) : opMinu n p.toNat q.toNat = (if p.toNat ≤ q.toNat then p else q).toNat := by
  rw [opMinu, apply_ite BitVec.toNat]

theorem opMaxu_toNat (p q : BitVec n) : opMaxu n p.toNat q.toNat = (if q.toNat ≤ p.toNat then p else q).toNat := by
  rw [opMaxu, apply_ite BitVec.toNat]

theorem ofBool_decide_toNat (hn : 0 < n) (c : Prop) [Decidable c] :
    ofBool (decide c) = (if c then 1#n else 0#n).toNat := by
  rw [apply_ite BitVec.toNat, BitVec.toNat_ofNat, BitVec.toNat_ofNat, Nat.mod_eq_of_lt (Nat.one_lt_two_pow hn.ne'),
    Nat.zero_mod]
  simp [ofBool]

theorem opSlt_toNat (hn : 1 < n) (p q : BitVec n) :
    opSlt n p.toNat q.toNat = (if p.toInt < q.toInt then 1#n else 0#n).toNat := by
  rw [opSlt, sextInt_toNat hn.le, sextInt_toNat hn.le, ofBool_decide_toNat hn.le]

theorem opSltu_toNat (hn : 1 < n) (p q : BitVec n) :
    opSltu n p.toNat q.toNat = (if p.toNat < q.toNat then 1#n else 0#n).toNat :=
  ofBool_decide_toNat hn.le _

/-- The quotient that no n bits hold, of −2^(n−1) by −1, wraps at both sides. -/
theorem opDiv_toNat (hn : 1 < n) (p q : BitVec n) : opDiv n p.toNat q.toNat = (p.sdiv q).toNat := by
  have hdiv : BitVec.ofInt n (p.toInt.tdiv q.toInt) = p.sdiv q :=
    BitVec.eq_of_toInt_eq (by rw [BitVec.toInt_ofInt, BitVec.toInt_sdiv])
  rw [opDiv, sextInt_toNat hn.le, sextInt_toNat hn.le, wrapInt_ofInt, hdiv]

theorem opDivu_toNat (p q : BitVec n) : opDivu n p.toNat q.toNat = (p.udiv q).toNat := rfl

theorem opRem_toNat (hn : 1 < n) (p q : BitVec n) : opRem n p.toNat q.toNat = (p.srem q).toNat := by
  rw [opRem, sextInt_toNat hn.le, sextInt_toNat hn.le, wrapInt_ofInt, ← BitVec.toInt_srem, BitVec.ofInt_toInt]

theorem opRemu_toNat (p q : BitVec n) : opRemu n p.toNat q.toNat = (p.umod q).toNat := rfl

end Operations

/-! ## The instructions -/

variable {s : State} {a b : Src} {d : Dst} {w : Bool} {f : Nat → Nat → Nat → Nat}
  {g : (n : Nat) → BitVec n → BitVec n → BitVec n}

/-- An instruction of two operands whose operation agrees with one on bit vectors writes that one's result. -/
theorem binary_alu_run (hfg : ∀ n, 1 < n → ∀ p q : BitVec n, f n p.toNat q.toNat = (g n p q).toNat)
    (h : s.Ready [.one a, .one b] (.one d)) (hr : s.mayRetire = true) :
    binary a b d (alu f w) s = .next (s.writes [.one a, .one b] d
      (atWidth g w (s.first [.one a, .one b] (.one d)) (s.second [.one a, .one b] (.one d)))).retired := by
  rw [binary_run h hr, alu_atWidth hfg]
  rfl

/-- The low n bits of a divisor are 0 just where the word that holds them is. -/
theorem lowBits_aluWidth_eq_zero {y : Word} :
    lowBits (aluWidth w) y = 0 ↔ (if w then (y.truncate 32).zeroExtend 64 else y) = 0 := by
  cases w
  · rw [aluWidth, if_neg Bool.false_ne_true, if_neg Bool.false_ne_true, lowBits_eq, BitVec.setWidth_eq]
    exact BitVec.toNat_inj (y := 0#64)
  · rw [aluWidth, if_pos rfl, if_pos rfl, lowBits_eq, ← BitVec.toNat_setWidth_of_le (w := 32) (w' := 64) (by decide)]
    exact BitVec.toNat_inj (y := 0#64)

/-- A check that passes changes nothing. -/
theorem require_ok {ok : Bool} {c : Cause} {addr info : Word} (h : ok = true) : require ok c addr info s = .ok ((), s) := by
  rw [h, require_true, CM.pure_run]

theorem require_error {ok : Bool} {c : Cause} {addr info : Word} (h : ok = false) :
    require ok c addr info s = .error (.trap (causeOf c addr info) .nothing) := by
  rw [h, require_false, raise_run]

/-- R135: a division whose divisor is not 0 writes its result. -/
theorem division_run (hfg : ∀ n, 1 < n → ∀ p q : BitVec n, f n p.toNat q.toNat = (g n p q).toNat)
    (h : s.Ready [.one a, .one b] (.one d)) (hr : s.mayRetire = true)
    (hd : lowBits (aluWidth w) (s.second [.one a, .one b] (.one d)) ≠ 0) :
    division f a b d w s = .next (s.writes [.one a, .one b] d
      (atWidth g w (s.first [.one a, .one b] (.one d)) (s.second [.one a, .one b] (.one d)))).retired := by
  rw [← alu_atWidth hfg]
  refine run_ops (s1 := s.writes _ _ _) h ?_ (by simpa [State.writes] using hr)
  exact CM.bind_ok (require_ok (bne_iff_ne.mpr hd))

/-- R136: a division by 0 is undone and takes its cause. -/
theorem division_trap (h : s.Ready [.one a, .one b] (.one d))
    (hd : lowBits (aluWidth w) (s.second [.one a, .one b] (.one d)) = 0) (ht : (s.take (causeOf .intDivzero 0 0)).2 = false) :
    division f a b d w s = .next (s.take (causeOf .intDivzero 0 0)).1 := by
  refine run_trap ?_ (by decide) ht
  rw [CM.bind_ok (ops_run h)]
  exact CM.bind_error (require_error (bne_eq_false_iff_eq.mpr hd))

/-- Settles O5: every operation of R135 is that of its bit vectors, and a division asks first whether its divisor is 0. -/
theorem integerOperationResults : Obligations.IntegerOperationResults := by
  intro s a b d w h x y next divisor trap
  have hzero : lowBits (aluWidth w) y = 0 ↔ divisor = 0 := lowBits_aluWidth_eq_zero
  refine ⟨fun hr => ⟨binary_alu_run (fun _ _ => opAdd_toNat) h hr, binary_alu_run (fun _ _ => opSub_toNat) h hr,
    binary_alu_run (fun _ _ => opAnd_toNat) h hr, binary_alu_run (fun _ _ => opOr_toNat) h hr,
    binary_alu_run (fun _ _ => opXor_toNat) h hr, binary_alu_run (fun _ _ => opAndn_toNat) h hr,
    binary_alu_run (fun _ _ => opMul_toNat) h hr, binary_alu_run (fun _ => opMulh_toNat) h hr,
    binary_alu_run (fun _ _ => opMulhu_toNat) h hr, binary_alu_run (fun _ _ => opSll_toNat) h hr,
    binary_alu_run (fun _ _ => opSrl_toNat) h hr, binary_alu_run (fun _ => opSra_toNat) h hr,
    binary_alu_run (fun _ => opRol_toNat) h hr, binary_alu_run (fun _ => opMin_toNat) h hr,
    binary_alu_run (fun _ => opMax_toNat) h hr, binary_alu_run (fun _ _ => opMinu_toNat) h hr,
    binary_alu_run (fun _ _ => opMaxu_toNat) h hr, binary_alu_run (fun _ => opSlt_toNat) h hr,
    binary_alu_run (fun _ => opSltu_toNat) h hr, fun hd => ?_⟩, fun hd ht => ?_⟩
  · have hne : lowBits (aluWidth w) y ≠ 0 := mt hzero.mp hd
    exact ⟨division_run (fun _ => opDiv_toNat) h hr hne, division_run (fun _ _ => opDivu_toNat) h hr hne,
      division_run (fun _ => opRem_toNat) h hr hne, division_run (fun _ _ => opRemu_toNat) h hr hne⟩
  · have hz : lowBits (aluWidth w) y = 0 := hzero.mpr hd
    exact ⟨division_trap h hz ht, division_trap h hz ht, division_trap h hz ht, division_trap h hz ht⟩

end Sys2Proof.Machine
end

section
/-! PROOF. At a block's end an iteration closes, or the following block is entered (spec/03_encoding.md R42–R43;
spec/07_core_integer.md R149). -/

namespace Sys2Proof.Machine

variable {s t : State} {a h : Word} {how : How}

/-! ## Headers that pass their checks (R43) -/

theorem hdrKind_eq_loop_iff : hdrKind h = .loop ↔ fld h 27 2 = 1 := by
  unfold hdrKind
  split <;> simp_all

theorem hdrKind_eq_yield_iff : hdrKind h = .yield ↔ fld h 27 2 = 2 := by
  unfold hdrKind
  split <;> simp_all

theorem hdrKind_eq_entry_iff : hdrKind h = .entry ↔ fld h 27 2 = 3 := by
  have hlt : fld h 27 2 < 4 := Nat.mod_lt _ (by decide)
  unfold hdrKind
  split <;> simp_all
  omega

/-- A header that R43 lets control enter passes the checks of every manner of entry that its kind allows. -/
theorem State.HeaderFor.checkHeader {sup : Bool} (hh : s.HeaderFor sup a h) (hstart : how = .start → fld h 27 2 = 3)
    (hbody : how = .loop ∨ how = .again → fld h 27 2 = 1) : s.checkHeader s.cur sup a how = .ok h := by
  have hmark : ¬hdrMark h ≠ 0b111110 := not_not.mpr hh.mark
  have hlen : ¬(hdrLen h = 0 ∨ 4 < hdrCarry h ∨ fld h 24 3 ≠ 0) := fun hc =>
    hc.elim hh.length fun hc => hc.elim (Nat.not_lt.mpr hh.carry) fun hc => hc hh.reserved
  have hentry : ¬(hdrKind h = .entry ∧ (hdrCarry h ≠ 0 ∨ fld h 36 12 ≠ 0)) := fun ⟨hk, hc⟩ =>
    have ⟨hcarry, hlive⟩ := hh.start (hdrKind_eq_entry_iff.mp hk)
    hc.elim (fun hc => hc hcarry) fun hc => hc hlive
  have hs : ¬(how = .start ∧ hdrKind h ≠ .entry) := fun ⟨hw, hk⟩ => hk (hdrKind_eq_entry_iff.mpr (hstart hw))
  have hl : ¬((how = .loop ∨ how = .again) ∧ hdrKind h ≠ .loop) := fun ⟨hw, hk⟩ =>
    hk (hdrKind_eq_loop_iff.mpr (hbody hw))
  rw [State.checkHeader, if_neg (not_not.mpr hh.aligned), hh.fetched]
  dsimp only
  rw [if_neg hmark, if_neg hlen, if_neg hentry, if_neg hs, if_neg hl]
  split
  next hy =>
    obtain ⟨hcarry, x, hx, hop⟩ := hh.point (hdrKind_eq_yield_iff.mp hy)
    rw [if_neg (not_not.mpr (show hdrCarry h = 0 from hcarry)), hx]
    dsimp only
    rw [if_pos hop]
  next => rfl

/-! ## The state after a block has been entered -/

/-- The buffer's copy is all that a fetched word leaves in a core. -/
theorem State.keepCopy_me (s : State) (c : Nat) (sup : Bool) (va : Word) (x : BitVec 32) :
    ∃ b, (s.keepCopy c sup va x).me = { s.me with ibuf := b } := by
  unfold State.keepCopy
  split
  · simp only [State.me, State.updCore_cur, State.core_updCore]
    split
    next hc => exact ⟨_, by rw [hc]⟩
    next => exact ⟨_, rfl⟩
  · exact ⟨_, rfl⟩

@[simp] theorem State.keepCopy_ctx (s : State) (c : Nat) (sup : Bool) (va : Word) (x : BitVec 32) :
    (s.keepCopy c sup va x).ctx = s.ctx := by
  obtain ⟨b, hb⟩ := s.keepCopy_me c sup va x
  rw [State.ctx, hb]
  rfl

@[simp] theorem State.keepCopy_retired (s : State) (c : Nat) (sup : Bool) (va : Word) (x : BitVec 32) :
    (s.keepCopy c sup va x).me.retired = s.me.retired := by
  obtain ⟨b, hb⟩ := s.keepCopy_me c sup va x
  rw [hb]

theorem State.keepCopy_rest (s u : State) (c : Nat) (sup : Bool) (va : Word) (x : BitVec 32) :
    { s.keepCopy c sup va x with cores := u.cores, clusters := u.clusters } =
      { s with cores := u.cores, clusters := u.clusters } := by
  unfold State.keepCopy
  split <;> rfl

/-- The block whose header `h` stands at `a` entered, and the halves of the header kept by the buffer (R12, R43). -/
def State.enteredKept (s : State) (a h : Word) : State :=
  ((s.entered a h).keepCopy s.cur s.ctx.priv a (h.truncate 32)).keepCopy s.cur s.ctx.priv (a + 4) (h.extractLsb' 32 32)

theorem enter_run (hh : s.HeaderAt a h) (hstart : how = .start → fld h 27 2 = 3)
    (hbody : how = .loop ∨ how = .again → fld h 27 2 = 1) : enter a how s = .ok ((), s.enteredKept a h) := by
  rw [enter, CM.bind_ok CM.get_run, hh.checkHeader hstart hbody]
  rfl

theorem State.enteredKept_ctx : (s.enteredKept a h).ctx = s.ctx.entered a h := by
  simp [State.enteredKept, State.entered]

@[simp] theorem State.enteredKept_retired : (s.enteredKept a h).me.retired = s.me.retired := by
  simp [State.enteredKept, State.entered]

@[simp] theorem State.enteredKept_loops : (s.enteredKept a h).ctx.loops = s.ctx.loops := by
  rw [State.enteredKept_ctx]
  rfl

theorem State.enteredKept_entersBlock : s.EntersBlock (s.enteredKept a h) a h where
  pc := by rw [State.enteredKept_ctx]; rfl
  header := by rw [State.enteredKept_ctx]; exact ⟨rfl, rfl, rfl⟩
  trellis := by rw [State.enteredKept_ctx]; rfl
  rest := by rw [State.enteredKept, State.keepCopy_rest, State.keepCopy_rest]; rfl

/-- The loop stack may change once a block has been entered. -/
theorem State.EntersBlock.setLoops (ht : s.EntersBlock t a h) (ls : List LoopEntry) :
    s.EntersBlock (t.updCtx fun c => { c with loops := ls }) a h where
  pc := by rw [State.ctx_updCtx]; exact ht.pc
  header := by rw [State.ctx_updCtx]; exact ht.header
  trellis := by rw [State.ctx_updCtx]; exact ht.trellis
  rest := ht.rest

/-! ## The end of a block (R149) -/

/-- At the end of a block of a running activation, with nothing else to do, the core closes the block. -/
theorem blockEnd_eq_closeBlock (hpc : s.ctx.pc = s.ctx.blockEnd) (hlen : s.ctx.len ≠ 0) (hinl : s.me.inl = none)
    (hwait : s.me.wait = none) (htrap : s.me.trapping = none) (hact : s.me.act.isSome = true) :
    exec .blockEnd s = runSelf .none closeBlock s := by
  have hend : s.ctx.atEnd = true := by simp [Ctx.atEnd, hpc, hlen]
  have hgo : (s.ctx.atEnd && s.me.inl.isNone && s.me.wait.isNone && s.me.trapping.isNone && s.me.act.isSome) = true := by
    simp [hend, hinl, hwait, htrap, hact]
  exact if_pos hgo

variable {e : LoopEntry} {es : List LoopEntry}

theorem closeBlock_again (hl : s.ctx.loops = e :: es) (hb : e.body = s.ctx.hdr) (hr : 1 < e.rem) (hh : s.HeaderAt e.body h)
    (hk : fld h 27 2 = 1) :
    closeBlock s = .ok ((), (s.enteredKept e.body h).updCtx fun c => { c with loops := { e with rem := e.rem - 1 } :: es }) := by
  rw [closeBlock, CM.bind_ok ctx_run, hl]
  dsimp only
  rw [if_pos hb, if_pos hr, CM.bind_ok (enter_run (how := .again) hh nofun fun _ => hk)]
  rfl

theorem closeBlock_last (hl : s.ctx.loops = e :: es) (hb : e.body = s.ctx.hdr) (hr : e.rem ≤ 1) :
    closeBlock s = .ok ((), s.updCtx fun c =>
      { c with loops := es, pc := e.body + wordOfInt e.ret, hdr := e.hdr, len := e.len, kind := e.kind }) := by
  rw [closeBlock, CM.bind_ok ctx_run, hl]
  dsimp only
  rw [if_pos hb, if_neg (Nat.not_lt.mpr hr), modCtx_run]

theorem closeBlock_next (hl : ∀ e es, s.ctx.loops = e :: es → e.body ≠ s.ctx.hdr) (hh : s.HeaderAt s.ctx.nextHeader h) :
    closeBlock s = .ok ((), s.enteredKept s.ctx.nextHeader h) := by
  have henter : enter s.ctx.nextHeader .fallthrough s = .ok ((), s.enteredKept s.ctx.nextHeader h) :=
    enter_run hh nofun (by simp)
  rw [closeBlock, CM.bind_ok ctx_run]
  cases he : s.ctx.loops with
  | nil => exact henter
  | cons e es =>
    dsimp only
    rw [if_neg (hl e es he), henter]

/-- Settles O11: the core closes the block as its loop stack says, and a block entered on the way retires nothing. -/
theorem blockEnds : Obligations.BlockEnds := by
  intro s h hpc hlen hinl hwait htrap hact next
  have hnext : next = s.ctx.nextHeader := by
    simp only [next, Ctx.nextHeader, wordOf, BitVec.ofNat_mul]
    rfl
  rw [blockEnd_eq_closeBlock hpc hlen hinl hwait htrap hact, hnext]
  refine ⟨fun e es hl hb hr hh hk => ?_, fun e es hl hb hr => ?_, fun hl hh => ?_⟩
  · exact ⟨_, runSelf_ok (closeBlock_again hl hb hr hh hk), State.enteredKept_entersBlock.setLoops _, by simp, by simp⟩
  · exact runSelf_ok (closeBlock_last hl hb hr)
  · exact ⟨_, runSelf_ok (closeBlock_next hl hh), State.enteredKept_entersBlock, State.enteredKept_loops,
      State.enteredKept_retired⟩

end Sys2Proof.Machine
end
